-- ==== Sys2Proof/Word.lean ====
section
/-! DEFINITION. Word.lean: the byte of the links and the numbers that name the engine's fixed parts.

The OE16 is described in quantities (sectors, bytes, units, counts), and those are `Nat`.  Only what the manual
treats as bits is a bit vector: the bytes that cross a link, the frame check and the rotated tag F. -/

namespace Sys2Proof

/-- One byte of a link, a sector or a trailer. -/
abbrev Byte := BitVec 8

/-- A card port CP0–CP7 (section 1.6). -/
abbrev PortNo := Fin 8

/-- A job record 0–15 (R1). -/
abbrev JobNo := Fin 16

/-- A destination port DP0–DP3 (R75). -/
abbrev DestNo := Fin 4

/-- An entry of the outstanding-request table, 0–7 (R166). -/
abbrev EntryNo := Fin 8

/-- All card ports in ascending order. -/
def allPorts : List PortNo := [0, 1, 2, 3, 4, 5, 6, 7]

/-- All job records in ascending order. -/
def allJobs : List JobNo := [0, 1, 2, 3, 4, 5, 6, 7, 8, 9, 10, 11, 12, 13, 14, 15]

/-- All destination ports in ascending order. -/
def allDests : List DestNo := [0, 1, 2, 3]

/-- All entries of the outstanding-request table in ascending order. -/
def allEntries : List EntryNo := [0, 1, 2, 3, 4, 5, 6, 7]

end Sys2Proof
end

