-- ==== Sys2Proof/Config.lean ====
section
/-! DEFINITION. Config.lean: the fixed quantities of the part.

The manual leaves no result of any command open, so there is no free value here: every number below is one the
manual states, but for `eventBudget`, which is the model's (notes/assumptions/3.md). -/

namespace Sys2Proof

/-- Bytes of a sector (section 1.4). -/
def sectorBytes : Nat := 512

/-- Sectors of a unit (section 1.4). -/
def unitSectors : Nat := 2048

/-- Bytes of a unit: 2048 sectors, 1 MiB (section 1.4). -/
def unitBytes : Nat := 1048576

/-- Records of the clip table (section 1.3.1, R4). -/
def clipCount : Nat := 4096

/-- Slots of the staging ring (R57). -/
def slotCount : Nat := 2048

/-- Places of the manifest queue (R144). -/
def manifestPlaces : Nat := 512

/-- Notice places of the outbound queue (R166, R177). -/
def noticePlaces : Nat := 32

/-- The largest number of slots a catch-up lane may hold (R60). -/
def laneLimit : Nat := 8

/-- The quota of a job started with a requested quota of 0, and the value of a FREE record (R1, R7). -/
def defaultQuota : Nat := 256

/-- The clip-sum modulus M, the prime 2^32 − 5 (R46). -/
def modulus : Nat := 4294967291

/-- The largest payload of a frame (R167). -/
def maxPayload : Nat := 4096

/-- The most micro-operations the model runs inside one event before it gives up with
`Fault.eventUnfinished`.  DESIGN CHOICE (notes/assumptions/3.md): the manual's events end by themselves, and no
event of a well-formed engine comes near this number.  It is irreducible so that no elaborator counts it down. -/
@[irreducible] def eventBudget : Nat := 18446744073709551616

end Sys2Proof
end

