-- ==== Sys2Proof/Machine/Bytes.lean ====
section
/-! DEFINITION. Machine/Bytes.lean: numbers as bytes (R181) and the frame check (R168). -/

namespace Sys2Proof.Bytes

open Sys2Proof

/-- The `n` bytes of `x`, least significant byte first: the order of every multi-byte number but the sums (R181). -/
def le : Nat → Nat → List Byte
  | 0, _ => []
  | n + 1, x => BitVec.ofNat 8 x :: le n (x / 256)

/-- The `n` bytes of `x`, most significant byte first: sum order (R181) and the order of the check (R167). -/
def be (n x : Nat) : List Byte := (le n x).reverse

/-- The number whose bytes stand least significant first. -/
def ofLe : List Byte → Nat
  | [] => 0
  | b :: bs => b.toNat + 256 * ofLe bs

/-- The number whose bytes stand most significant first. -/
def ofBe (bs : List Byte) : Nat := ofLe bs.reverse

/-- `n` zero bytes. -/
def zeros (n : Nat) : List Byte := List.replicate n 0

/-- One byte holding `x`. -/
def u8 (x : Nat) : Byte := BitVec.ofNat 8 x

/-- A flag as a byte: 1 for set, 0 for clear (R181). -/
def flag (b : Bool) : Byte := if b then 1 else 0

/-- One bit of the CRC register of R168: polynomial 0x1021, shifted out at the top. -/
def crcShift (r : BitVec 16) : BitVec 16 :=
  if r.getLsbD 15 then (r <<< 1) ^^^ 0x1021#16 else r <<< 1

/-- One byte into the CRC register, most significant bit first (R168). -/
def crcByte (r : BitVec 16) (b : Byte) : BitVec 16 :=
  let r0 := r ^^^ (b.zeroExtend 16 <<< 8)
  crcShift (crcShift (crcShift (crcShift (crcShift (crcShift (crcShift (crcShift r0)))))))

/-- The frame check over a list of bytes (R168): initial value 0xFFFF, no reflection, no final exclusive-or. -/
def crc (bs : List Byte) : BitVec 16 := bs.foldl crcByte 0xFFFF#16

end Sys2Proof.Bytes
end

