-- ==== Sys2Proof/Syntax.lean ====
section
/-! DEFINITION. Syntax.lean: the commands of the block, one constructor for each row of spec/opcode_table.json.

A row that is a request of the control link carries the request's tag and the fields of its payload layout (R182),
as numbers; a row that is an event of a reader link, a drive link or a timer carries the link's number and what
the link delivers (R24, R77). -/

namespace Sys2Proof

/-- An extent: a start sector and a count of sectors (R4). -/
structure Extent where
  start : Nat
  count : Nat
  deriving DecidableEq, Repr

/-- One entry of CLIP_ADD (R6): a length, a name token (empty when the clip has none) and an extent list. -/
structure ClipEntry where
  length  : Nat
  token   : List Byte
  extents : List Extent
  deriving DecidableEq, Repr

/-- How CLIP_QUERY names its clip (R19). -/
inductive ClipKey where
  | byNumber (clip : Nat)
  | byTag (f : Nat) (length : Nat)
  deriving DecidableEq, Repr

/-- The two positions of the port strap (R23). -/
inductive Strap where
  | fourPort
  | eightPort
  deriving DecidableEq, Repr

/-- The commands: the rows of spec/opcode_table.json, in the table's order. -/
inductive Instr where
  /-- POWER_ON_RESET (R20, R44, R96): the strap's position and the ports whose reader reports a card seated. -/
  | powerOnReset (strap : Strap) (seated : List PortNo)
  /-- BULK_OUT_BYTE (R169): one byte of the bulk-out pipe. -/
  | bulkOutByte (b : Byte)
  /-- STALL_TIMER_EXPIRY (R171). -/
  | stallTimerExpiry
  /-- FRAME_TAKEN_BULK_IN (R176). -/
  | frameTakenBulkIn
  | identify (tag : Byte)
  | status (tag : Byte)
  | reset (tag : Byte)
  | planSet (tag : Byte) (count role0 role1 role2 role3 : Nat)
  | planLock (tag : Byte)
  | planQuery (tag : Byte)
  | destBind (tag : Byte) (port areaStart area strip spare firstUnit firstTrailer : Nat)
  | destUnbind (tag : Byte) (port : Nat)
  | destQuery (tag : Byte) (port : Nat)
  | sectorRead (tag : Byte) (port start count : Nat)
  | jobOpen (tag : Byte) (port : Nat)
  | clipAdd (tag : Byte) (job : Nat) (entries : List ClipEntry)
  | jobStart (tag : Byte) (job quota urgent : Nat)
  | jobPause (tag : Byte) (job : Nat)
  | jobResume (tag : Byte) (job : Nat)
  | jobAbandon (tag : Byte) (job : Nat)
  | jobClose (tag : Byte) (job : Nat)
  | jobQuery (tag : Byte) (job : Nat)
  | clipQuery (tag : Byte) (key : ClipKey)
  | clipExclude (tag : Byte) (clip : Nat)
  | clipRetry (tag : Byte) (clip : Nat)
  | copyAdd (tag : Byte) (clip dest : Nat)
  | manifestRead (tag : Byte) (count : Nat)
  | faultRead (tag : Byte)
  | faultClear (tag : Byte) (cls : Nat)
  | faultRoute (tag : Byte) (cls route : Nat)
  /-- READER_SLOT_SEATED (R24, R26): the slot indication changes to seated. -/
  | readerSlotSeated (p : PortNo)
  /-- CARD_IN (R24, R26): media id and capacity in sectors. -/
  | cardIn (p : PortNo) (media capacity : Nat)
  | identityTimerExpiry (p : PortNo)
  | cardOut (p : PortNo)
  | readerSlotNotSeated (p : PortNo)
  /-- READER_DATA (R24): the bytes of a DATA response. -/
  | readerData (p : PortNo) (bytes : List Byte)
  | readerError (p : PortNo)
  | readerTimerExpiry (p : PortNo)
  /-- DRIVE_DONE (R77): the bytes a DONE carries, none for a WRITE or a FLUSH. -/
  | driveDone (d : DestNo) (bytes : List Byte)
  | driveRetry (d : DestNo)
  | driveFail (d : DestNo)
  /-- DRIVE_IN (R77): the capacity in sectors. -/
  | driveIn (d : DestNo) (capacity : Nat)
  | driveOut (d : DestNo)
  | responseTimerExpiry (d : DestNo)
  deriving DecidableEq, Repr

end Sys2Proof
end

