-- ==== Sys2Proof/WellFormed.lean ====
section
/-! DEFINITION. WellFormed.lean: which commands the engine's links can deliver.

A request is well formed when every field fits the bytes its layout gives it (R182) and the payload fits a frame
(R167).  A report or a response is well formed when its quantities lie in the ranges of R24 and R77.  A value a
rule refuses (a job number of 16 or more, an entry count of 0) is still well formed: the rule answers it. -/

namespace Sys2Proof

/-- `x` fits a field of `n` bytes. -/
def fits (n x : Nat) : Bool := decide (x < 256 ^ n)

/-- An extent fits its 10 bytes (R182). -/
def Extent.wellFormed (e : Extent) : Bool := fits 6 e.start && fits 4 e.count

/-- A CLIP_ADD entry fits its layout: L in 5 bytes, the two counts in a byte each, the extents in 10 each. -/
def ClipEntry.wellFormed (e : ClipEntry) : Bool :=
  fits 5 e.length && fits 1 e.extents.length && fits 1 e.token.length && e.extents.all Extent.wellFormed

/-- The bytes of one CLIP_ADD entry on the link (R182). -/
def ClipEntry.size (e : ClipEntry) : Nat := 7 + e.token.length + 10 * e.extents.length

/-- The payload length of a CLIP_ADD with these entries (R182). -/
def clipAddSize (entries : List ClipEntry) : Nat := 2 + (entries.map ClipEntry.size).sum

/-- A CLIP_QUERY key fits its layout (R182). -/
def ClipKey.wellFormed : ClipKey → Bool
  | .byNumber c => fits 2 c
  | .byTag f l => fits 4 f && fits 5 l

/-- The well-formedness of a command. -/
def Instr.wellFormed : Instr → Bool
  | .powerOnReset _ seated => decide (seated.Pairwise (· < ·))
  | .bulkOutByte _ => true
  | .stallTimerExpiry => true
  | .frameTakenBulkIn => true
  | .identify _ => true
  | .status _ => true
  | .reset _ => true
  | .planSet _ n r0 r1 r2 r3 => [n, r0, r1, r2, r3].all (fits 1)
  | .planLock _ => true
  | .planQuery _ => true
  | .destBind _ p a n t sp u0 t0 =>
      fits 1 p && fits 6 a && fits 6 n && fits 4 t && fits 2 sp && fits 6 u0 && fits 4 t0
  | .destUnbind _ p => fits 1 p
  | .destQuery _ p => fits 1 p
  | .sectorRead _ p a n => fits 1 p && fits 6 a && fits 1 n
  | .jobOpen _ p => fits 1 p
  | .clipAdd _ j es =>
      fits 1 j && fits 1 es.length && es.all ClipEntry.wellFormed && decide (clipAddSize es ≤ maxPayload)
  | .jobStart _ j q u => fits 1 j && fits 2 q && fits 1 u
  | .jobPause _ j => fits 1 j
  | .jobResume _ j => fits 1 j
  | .jobAbandon _ j => fits 1 j
  | .jobClose _ j => fits 1 j
  | .jobQuery _ j => fits 1 j
  | .clipQuery _ k => k.wellFormed
  | .clipExclude _ c => fits 2 c
  | .clipRetry _ c => fits 2 c
  | .copyAdd _ c d => fits 2 c && fits 1 d
  | .manifestRead _ n => fits 1 n
  | .faultRead _ => true
  | .faultClear _ c => fits 1 c
  | .faultRoute _ c r => fits 1 c && fits 1 r
  | .readerSlotSeated _ => true
  | .cardIn _ m n => fits 8 m && fits 6 n
  | .identityTimerExpiry _ => true
  | .cardOut _ => true
  | .readerSlotNotSeated _ => true
  | .readerData _ _ => true
  | .readerError _ => true
  | .readerTimerExpiry _ => true
  | .driveDone _ _ => true
  | .driveRetry _ => true
  | .driveFail _ => true
  | .driveIn _ n => decide (1 ≤ n) && fits 6 n
  | .driveOut _ => true
  | .responseTimerExpiry _ => true

end Sys2Proof
end

