-- ==== Sys2Proof/Decode.lean ====
section
/-! DEFINITION. Decode.lean: the table's words, and the request layouts of the control link (R182), read and written.

spec/opcode_table.json gives no row any bits, so no word spells a command.  The requests of the control link do
have a coding, the payload layouts of R182, and it is read here once: raw codes and payload bytes do not pass
beyond `decodeRequest`. -/

namespace Sys2Proof

open Bytes

/-- The command a word spells by the table's bits: the table gives none (notes/assumptions/1.md). -/
def decodeTableWord (_nbits _w : Nat) : Option Instr := none

/-- What the form check of R174 makes of a request. -/
inductive RequestForm where
  /-- The code and the layout are right: this request goes to its owner. -/
  | good (i : Instr)
  /-- The code names no request. -/
  | unknown
  /-- The payload is not laid out as its code requires. -/
  | malformed
  deriving DecidableEq, Repr

/-- The fields of a payload laid out as numbers of the given sizes, least significant byte first; none when the
payload is longer or shorter than the layout (R174, R181). -/
def readFields : List Nat → List Byte → Option (List Nat)
  | [], [] => some []
  | [], _ :: _ => none
  | n :: ns, bs =>
    if bs.length < n then none
    else (readFields ns (bs.drop n)).map (ofLe (bs.take n) :: ·)

/-- `n` extents of 10 bytes each, start sector then count (R182). -/
def readExtents : Nat → List Byte → Option (List Extent × List Byte)
  | 0, bs => some ([], bs)
  | n + 1, bs =>
    if bs.length < 10 then none
    else match readExtents n (bs.drop 10) with
      | none => none
      | some (es, rest) => some (⟨ofLe (bs.take 6), ofLe ((bs.drop 6).take 4)⟩ :: es, rest)

/-- One CLIP_ADD entry: L (5), extent count (1), token length (1), token, extents (R182). -/
def readEntry (bs : List Byte) : Option (ClipEntry × List Byte) :=
  if bs.length < 7 then none
  else
    let length := ofLe (bs.take 5)
    let nExtents := ofLe ((bs.drop 5).take 1)
    let nToken := ofLe ((bs.drop 6).take 1)
    let rest := bs.drop 7
    if rest.length < nToken then none
    else match readExtents nExtents (rest.drop nToken) with
      | none => none
      | some (es, rest') => some (⟨length, rest.take nToken, es⟩, rest')

/-- `n` CLIP_ADD entries one after the other. -/
def readEntries : Nat → List Byte → Option (List ClipEntry × List Byte)
  | 0, bs => some ([], bs)
  | n + 1, bs =>
    match readEntry bs with
    | none => none
    | some (e, rest) =>
      match readEntries n rest with
      | none => none
      | some (es, rest') => some (e :: es, rest')

/-- The payload of CLIP_ADD: it must end exactly where its fields say it ends (R174). -/
def readClipAdd (tag : Byte) : List Byte → RequestForm
  | j :: n :: bs =>
    match readEntries n.toNat bs with
    | some (es, []) => .good (.clipAdd tag j.toNat es)
    | _ => .malformed
  | _ => .malformed

/-- The payload of CLIP_QUERY: a form byte of 0 or 1, then that form's fields (R182). -/
def readClipQuery (tag : Byte) : List Byte → RequestForm
  | [] => .malformed
  | form :: bs =>
    if form = 0 then
      if bs.length = 2 then .good (.clipQuery tag (.byNumber (ofLe bs))) else .malformed
    else if form = 1 then
      if bs.length = 9 then .good (.clipQuery tag (.byTag (ofBe (bs.take 4)) (ofLe (bs.drop 4))))
      else .malformed
    else .malformed

/-- A request of fixed layout: the fields if the payload has exactly their sizes, else MALFORMED (R174). -/
def readFixed (sizes : List Nat) (bs : List Byte) (mk : List Nat → Option Instr) : RequestForm :=
  match (readFields sizes bs).bind mk with
  | some i => .good i
  | none => .malformed

/-- The requests that name one number. -/
def one (f : Nat → Instr) : List Nat → Option Instr
  | [x] => some (f x)
  | _ => none

/-- The requests without a payload. -/
def noFields (i : Instr) : List Nat → Option Instr
  | [] => some i
  | _ => none

/-- The form check of R174 by code and layout (R182). -/
def decodeRequest (code : Nat) (tag : Byte) (bs : List Byte) : RequestForm :=
  match code with
  | 0x01 => readFixed [] bs (noFields (.identify tag))
  | 0x02 => readFixed [] bs (noFields (.status tag))
  | 0x03 => readFixed [] bs (noFields (.reset tag))
  | 0x08 => readFixed [1, 1, 1, 1, 1] bs fun
      | [n, a, b, c, d] => some (.planSet tag n a b c d)
      | _ => none
  | 0x09 => readFixed [] bs (noFields (.planLock tag))
  | 0x0A => readFixed [] bs (noFields (.planQuery tag))
  | 0x10 => readFixed [1, 6, 6, 4, 2, 6, 4] bs fun
      | [p, a, n, t, sp, u0, t0] => some (.destBind tag p a n t sp u0 t0)
      | _ => none
  | 0x11 => readFixed [1] bs (one (.destUnbind tag))
  | 0x12 => readFixed [1] bs (one (.destQuery tag))
  | 0x18 => readFixed [1, 6, 1] bs fun
      | [p, a, n] => some (.sectorRead tag p a n)
      | _ => none
  | 0x20 => readFixed [1] bs (one (.jobOpen tag))
  | 0x21 => readClipAdd tag bs
  | 0x22 => readFixed [1, 2, 1] bs fun
      | [j, q, u] => some (.jobStart tag j q u)
      | _ => none
  | 0x23 => readFixed [1] bs (one (.jobPause tag))
  | 0x24 => readFixed [1] bs (one (.jobResume tag))
  | 0x25 => readFixed [1] bs (one (.jobAbandon tag))
  | 0x26 => readFixed [1] bs (one (.jobClose tag))
  | 0x27 => readFixed [1] bs (one (.jobQuery tag))
  | 0x28 => readClipQuery tag bs
  | 0x29 => readFixed [2] bs (one (.clipExclude tag))
  | 0x2A => readFixed [2] bs (one (.clipRetry tag))
  | 0x2B => readFixed [2, 1] bs fun
      | [c, d] => some (.copyAdd tag c d)
      | _ => none
  | 0x30 => readFixed [1] bs (one (.manifestRead tag))
  | 0x38 => readFixed [] bs (noFields (.faultRead tag))
  | 0x39 => readFixed [1] bs (one (.faultClear tag))
  | 0x3A => readFixed [1, 1] bs fun
      | [c, r] => some (.faultRoute tag c r)
      | _ => none
  | _ => .unknown

/-- The code of RESET, the one request admitted whatever the table holds (R173). -/
def resetCode : Nat := 0x03

/-- The bytes of one extent (R182). -/
def Extent.bytes (e : Extent) : List Byte := le 6 e.start ++ le 4 e.count

/-- The bytes of one CLIP_ADD entry (R182). -/
def ClipEntry.bytes (e : ClipEntry) : List Byte :=
  le 5 e.length ++ le 1 e.extents.length ++ le 1 e.token.length ++ e.token ++ e.extents.flatMap Extent.bytes

/-- A request as the control station frames it: code, tag and payload (R167, R182); none for a command that is no
request. -/
def encodeRequest : Instr → Option (Nat × Byte × List Byte)
  | .powerOnReset _ _ => none
  | .bulkOutByte _ => none
  | .stallTimerExpiry => none
  | .frameTakenBulkIn => none
  | .identify tag => some (0x01, tag, [])
  | .status tag => some (0x02, tag, [])
  | .reset tag => some (0x03, tag, [])
  | .planSet tag n a b c d => some (0x08, tag, le 1 n ++ le 1 a ++ le 1 b ++ le 1 c ++ le 1 d)
  | .planLock tag => some (0x09, tag, [])
  | .planQuery tag => some (0x0A, tag, [])
  | .destBind tag p a n t sp u0 t0 =>
      some (0x10, tag, le 1 p ++ le 6 a ++ le 6 n ++ le 4 t ++ le 2 sp ++ le 6 u0 ++ le 4 t0)
  | .destUnbind tag p => some (0x11, tag, le 1 p)
  | .destQuery tag p => some (0x12, tag, le 1 p)
  | .sectorRead tag p a n => some (0x18, tag, le 1 p ++ le 6 a ++ le 1 n)
  | .jobOpen tag p => some (0x20, tag, le 1 p)
  | .clipAdd tag j es => some (0x21, tag, le 1 j ++ le 1 es.length ++ es.flatMap ClipEntry.bytes)
  | .jobStart tag j q u => some (0x22, tag, le 1 j ++ le 2 q ++ le 1 u)
  | .jobPause tag j => some (0x23, tag, le 1 j)
  | .jobResume tag j => some (0x24, tag, le 1 j)
  | .jobAbandon tag j => some (0x25, tag, le 1 j)
  | .jobClose tag j => some (0x26, tag, le 1 j)
  | .jobQuery tag j => some (0x27, tag, le 1 j)
  | .clipQuery tag (.byNumber c) => some (0x28, tag, le 1 0 ++ le 2 c)
  | .clipQuery tag (.byTag f l) => some (0x28, tag, le 1 1 ++ be 4 f ++ le 5 l)
  | .clipExclude tag c => some (0x29, tag, le 2 c)
  | .clipRetry tag c => some (0x2A, tag, le 2 c)
  | .copyAdd tag c d => some (0x2B, tag, le 2 c ++ le 1 d)
  | .manifestRead tag n => some (0x30, tag, le 1 n)
  | .faultRead tag => some (0x38, tag, [])
  | .faultClear tag c => some (0x39, tag, le 1 c)
  | .faultRoute tag c r => some (0x3A, tag, le 1 c ++ le 1 r)
  | .readerSlotSeated _ => none
  | .cardIn _ _ _ => none
  | .identityTimerExpiry _ => none
  | .cardOut _ => none
  | .readerSlotNotSeated _ => none
  | .readerData _ _ => none
  | .readerError _ => none
  | .readerTimerExpiry _ => none
  | .driveDone _ _ => none
  | .driveRetry _ => none
  | .driveFail _ => none
  | .driveIn _ _ => none
  | .driveOut _ => none
  | .responseTimerExpiry _ => none

/-- A frame of a kind byte, a tag and a payload, with its marker and check (R167). -/
def frameBytes (kind tag : Byte) (payload : List Byte) : List Byte :=
  let body := kind :: tag :: (le 2 payload.length ++ payload)
  0xB5 :: 0x4A :: (body ++ be 2 (crc body).toNat)

/-- The frame of a request: class 00 and its code in the kind byte (R167). -/
def requestFrame (i : Instr) : Option (List Byte) :=
  (encodeRequest i).map fun (code, tag, payload) => frameBytes (u8 code) tag payload

end Sys2Proof
end

