-- ==== Sys2Proof/Machine/State.lean ====
section
/-! DEFINITION. Machine/State.lean: the engine's state as plain data, and its state after power-on reset.

One structure for each block of section 1.3.1, each record with the fields its rule lists.  Tables whose free
records hold nothing (the clip table, the slots that are not FREE) are lists of (number, record) pairs, numbers
rising; an unlisted number is a free record. -/

namespace Sys2Proof.Machine

/-! ## Cards, sums and copies -/

/-- A card identity: media id and capacity in sectors (R1, R21). -/
structure Identity where
  media    : Nat
  capacity : Nat
  deriving DecidableEq, Repr

/-- The two running totals of a clip sum (R46). -/
structure Sums where
  s1 : Nat
  s2 : Nat
  deriving DecidableEq, Repr

/-- A closed sum: S1, S2 and the tag F (R47).  The L that belongs to it is the clip's own. -/
structure ClosedSum where
  s1 : Nat
  s2 : Nat
  f  : BitVec 32
  deriving DecidableEq, Repr

/-- A sum unit while it serves a clip (R49): the clip's length, the running sums and the bytes taken. -/
structure SumUnit where
  length : Nat
  sums   : Sums
  taken  : Nat
  deriving DecidableEq, Repr

/-- A read position: a clip index into the clip list and a unit index within that clip (R1). -/
structure Position where
  clip : Nat
  unit : Nat
  deriving DecidableEq, Repr

/-- A checkpoint: a position and the sums there (R1, R51). -/
structure Checkpoint where
  pos  : Position
  sums : Sums
  deriving DecidableEq, Repr

/-- A job's snapshot of the plan (R139): the count R, the mirror set and the spare set, in ascending order. -/
structure Snapshot where
  r       : Nat
  mirrors : List DestNo
  spares  : List DestNo
  deriving DecidableEq, Repr

/-! ## The job table (R1, R2) -/

/-- Job states (R2), in the order of their codes (R181). -/
inductive JobState where
  | free | loading | running | paused | pulled | draining | held | reporting | released
  deriving DecidableEq, Repr

/-- Pause causes (R1, R181). -/
inductive PauseCause where
  | host | hold
  deriving DecidableEq, Repr

/-- What a PULLED job returns to (R1). -/
inductive ResumeTarget where
  | running | paused
  deriving DecidableEq, Repr

/-- A job record (R1).  `summed` is the count of clip bytes its sum unit has taken (R49);
DESIGN CHOICE: 0 in a FREE record (notes/assumptions/33.md). -/
structure Job where
  state        : JobState
  identity     : Option Identity
  boundPort    : Option PortNo
  clips        : List Nat
  readPos      : Position
  live         : Sums
  summed       : Nat
  checkpoint   : Checkpoint
  snapshot     : Option Snapshot
  quota        : Nat
  urgent       : Bool
  held         : Nat
  resumeTarget : Option ResumeTarget
  pauseCause   : Option PauseCause
  pausePending : Bool
  deriving DecidableEq, Repr

/-- The sums before any word is taken: S1 = 1, S2 = 0 (R46). -/
def Sums.start : Sums := ⟨1, 0⟩

/-- A FREE job record (R1). -/
def Job.free : Job :=
  { state := .free, identity := none, boundPort := none, clips := [], readPos := ⟨0, 0⟩, live := Sums.start,
    summed := 0, checkpoint := ⟨⟨0, 0⟩, Sums.start⟩, snapshot := none, quota := defaultQuota, urgent := false,
    held := 0, resumeTarget := none, pauseCause := none, pausePending := false }

/-! ## The clip table (R4, R12–R14) -/

/-- Clip states (R14), in the order of their codes (R181). -/
inductive ClipState where
  | listed | reading | read | secured | excluded | sourceFault | unstable
  deriving DecidableEq, Repr

/-- Copy states (R13), in the order of their codes (R181). -/
inductive CopyState where
  | queued | writing | written | verifying | verified | noSpace | failed | aborted
  deriving DecidableEq, Repr

/-- Copy origins (R12, R181). -/
inductive Origin where
  | plan | spare | repair | host
  deriving DecidableEq, Repr

/-- Manifest statuses of a clip (R4, R181). -/
inductive ManifestStatus where
  | none | deferred | queued | taken
  deriving DecidableEq, Repr

/-- A window: first unit and unit count on the destination (R12). -/
structure Window where
  first : Nat
  count : Nat
  deriving DecidableEq, Repr

/-- A copy subrecord (R12); its destination is its place in the clip record. -/
structure Copy where
  state     : CopyState
  origin    : Origin
  attempt   : Nat
  window    : Option Window
  trailer   : Option Nat
  written   : Nat
  suspended : Bool
  readback  : Option ClosedSum
  deriving DecidableEq, Repr

/-- A clip record in use (R4); its number is its place in the table.  `prior` is the state the clip was excluded
from, which the manifest record shows even when it is formed later (R143, R145). -/
structure Clip where
  job      : JobNo
  state    : ClipState
  length   : Nat
  extents  : List Extent
  token    : List Byte
  sum      : Option ClosedSum
  unstable : Bool
  mstatus  : ManifestStatus
  prior    : Option ClipState
  copies   : Vector (Option Copy) 4
  deriving DecidableEq, Repr

/-! ## The card ports (R21, R32) -/

/-- Card port states (R21), in the order of their codes (R181). -/
inductive PortState where
  | empty | mounting | present | bound | unreadable
  deriving DecidableEq, Repr

/-- Lamp values (R43), in the order of their codes (R181). -/
inductive Lamp where
  | off | green | red | amber
  deriving DecidableEq, Repr

/-- Fault details, in the order of their codes (R181). -/
inductive Detail where
  | none | readerError | readerTimeout | driveFail | driveRetry | driveTimeout | driveRemoved
  | sumMismatch | trailerMismatch | noRoom | frameCheck | cardRemoved
  deriving DecidableEq, Repr

/-- What a reader item serves (R32). -/
inductive ReaderWork where
  /-- A piece of a unit the bound job reads. -/
  | job (j : JobNo) (clip unit : Nat)
  /-- A piece of a unit supplied to the catch-up lane of `d`, into the slot the lane holds. -/
  | supply (d : DestNo) (j : JobNo) (clip unit slot : Nat)
  /-- A SECTOR_READ, answered at its entry of the outstanding-request table. -/
  | sector (entry : EntryNo) (tag : Byte)
  deriving DecidableEq, Repr

/-- An item of the reader request FIFO: what it serves and the run of card sectors it reads (R32). -/
structure ReaderItem where
  work  : ReaderWork
  start : Nat
  count : Nat
  deriving DecidableEq, Repr

/-- The READ_REQ issued and not yet answered: its item, its attempt number (1–4) and how the last failed attempt of
the piece failed (R21, R25). -/
structure ReaderRequest where
  item     : ReaderItem
  attempt  : Nat
  lastFail : Option Detail
  deriving DecidableEq, Repr

/-- A card port (R21). -/
structure CardPort where
  enabled       : Bool
  state         : PortState
  identity      : Option Identity
  boundJob      : Option JobNo
  fifo          : List ReaderItem
  outstanding   : Option ReaderRequest
  abandoned     : Bool
  identityTimer : Bool
  readerTimer   : Bool
  released      : Option Identity
  lamp          : Lamp
  deriving DecidableEq, Repr

/-- A card port after power-on reset with no card seated (R44). -/
def CardPort.idle (enabled : Bool) : CardPort :=
  { enabled := enabled, state := .empty, identity := none, boundJob := none, fifo := [], outstanding := none,
    abandoned := false, identityTimer := false, readerTimer := false, released := none, lamp := .off }

/-! ## The staging ring (R57, R63) -/

/-- A requester of slots: a job, or the catch-up lane of a destination (R63). -/
inductive Requester where
  | job (j : JobNo)
  | lane (d : DestNo)
  deriving DecidableEq, Repr

/-- The states of a held slot (R58); a FREE slot is one on the free list. -/
inductive SlotState where
  | filling | staged
  deriving DecidableEq, Repr

/-- A held slot (R57). -/
structure Slot where
  state     : SlotState
  owner     : Requester
  clip      : Nat
  unit      : Nat
  byteCount : Nat
  pending   : List DestNo
  data      : List Byte
  deriving DecidableEq, Repr

/-- The staging ring: the free list, oldest first (R59), the held slots, and the slot wait list (R63). -/
structure Ring where
  freeList : List Nat
  held     : List (Nat × Slot)
  waitList : List Requester
  deriving DecidableEq, Repr

/-- The ring after either reset (R74). -/
def Ring.reset : Ring := { freeList := List.range slotCount, held := [], waitList := [] }

/-! ## The destination ports (R75, R97, R112, R120) -/

/-- Destination states (R76), in the order of their codes (R181). -/
inductive DestState where
  | absent | unbound | active | full | lost
  deriving DecidableEq, Repr

/-- A binding with its two bump pointers (R75); D and C are derived from it (R82). -/
structure Binding where
  areaStart    : Nat
  area         : Nat
  strip        : Nat
  spare        : Nat
  firstUnit    : Nat
  firstTrailer : Nat
  nextUnit     : Nat
  nextTrailer  : Nat
  deriving DecidableEq, Repr

/-- The drive requests (R77). -/
inductive DriveKind where
  | write | read | flush
  deriving DecidableEq, Repr

/-- A drive request as the bridge carries it: for a WRITE, with its bytes (R77). -/
structure DriveCmd where
  kind  : DriveKind
  lba   : Nat
  count : Nat
  data  : List Byte
  deriving DecidableEq, Repr

/-- A write requester of an arbiter (R97). -/
inductive Writer where
  | wq (j : JobNo)
  | cq
  deriving DecidableEq, Repr

/-- What an item of a write queue writes (R98). -/
inductive ItemKind where
  | data (slot : Nat)
  | trailer
  deriving DecidableEq, Repr

/-- An item of a write queue: the clip whose copy here it writes, its retry count (R97) and, while its slot is
FILLING, the sources that have failed its unit (R120). -/
structure Item where
  clip    : Nat
  kind    : ItemKind
  retries : Nat
  noCard  : Bool
  noDests : List DestNo
  deriving DecidableEq, Repr

/-- The item an outstanding drive request serves (R75): a write item or trailer item with the copy's attempt
number, or the read lane's request. -/
inductive Serves where
  | data (w : Writer) (clip attempt slot : Nat)
  | trailer (w : Writer) (clip attempt : Nat)
  | readLane
  deriving DecidableEq, Repr

/-- The outstanding request of a destination port (R75). -/
structure DriveRequest where
  cmd    : DriveCmd
  serves : Serves
  deriving DecidableEq, Repr

/-- A read job of a read lane (R112). -/
inductive ReadJob where
  | verify (clip : Nat)
  | supply (clip unit slot : Nat) (asker : DestNo)
  deriving DecidableEq, Repr

/-- Where an active read job stands (R112). -/
inductive ReadStep where
  | flush
  | unit (k : Nat)
  | trailer
  | supply
  deriving DecidableEq, Repr

/-- The active job's position, its formed request and that request's retry count (R112). -/
structure ActiveRead where
  step    : ReadStep
  formed  : Option DriveCmd
  retries : Nat
  deriving DecidableEq, Repr

/-- A read lane (R112): the active job, when there is one, is the head of the list.  `sum` is its sum unit (R54). -/
structure ReadLane where
  jobs   : List ReadJob
  active : Option ActiveRead
  sum    : Option SumUnit
  deriving DecidableEq, Repr

/-- The source a catch-up lane has chosen for a unit (R122). -/
inductive Source where
  | card
  | dest (e : DestNo)
  deriving DecidableEq, Repr

/-- A catch-up lane (R120); its copies are named by their clips.  DESIGN CHOICE: what `nextUnit` and `cardOnly` hold
at reset (notes/assumptions/33.md). -/
structure Lane where
  copies   : List Nat
  current  : Option Nat
  nextUnit : Nat
  standing : Option (Nat × Source)
  held     : Nat
  sum      : Option SumUnit
  cardOnly : Bool
  deriving DecidableEq, Repr

/-- An arbiter (R97); the lock names its owner and the clip of the copy whose trailer it is for. -/
structure Arbiter where
  rotation : List Writer
  lock     : Option (Writer × Nat)
  grants   : Nat
  deriving DecidableEq, Repr

/-- A destination port (R75).  `outSinceIn` remembers that a DRIVE_OUT has come since the last DRIVE_IN, which R80's
link restart asks (notes/assumptions/7.md). -/
structure DestPort where
  present     : Bool
  capacity    : Option Nat
  outSinceIn  : Bool
  state       : DestState
  binding     : Option Binding
  outstanding : Option DriveRequest
  abandoned   : Bool
  timer       : Bool
  wq          : Vector (List Item) 16
  cq          : List Item
  lane        : Lane
  rl          : ReadLane
  arb         : Arbiter
  deriving DecidableEq, Repr

/-- All write requesters in the order of the arbiter's reset state (R97). -/
def allWriters : List Writer := allJobs.map Writer.wq ++ [Writer.cq]

/-- The arbiter's reset state (R97). -/
def Arbiter.reset : Arbiter := { rotation := allWriters, lock := none, grants := 0 }

/-- An empty catch-up lane (R120). -/
def Lane.empty : Lane :=
  { copies := [], current := none, nextUnit := 0, standing := none, held := 0, sum := none, cardOnly := false }

/-- An empty read lane (R112). -/
def ReadLane.empty : ReadLane := { jobs := [], active := none, sum := none }

/-- A destination port after power-on reset (R96). -/
def DestPort.reset : DestPort :=
  { present := false, capacity := none, outSinceIn := false, state := .absent, binding := none, outstanding := none,
    abandoned := false, timer := false, wq := Vector.replicate 16 [], cq := [], lane := Lane.empty,
    rl := ReadLane.empty, arb := Arbiter.reset }

/-! ## The offload plan (R132) -/

/-- Roles of a destination port (R132), in the order of their codes (R181). -/
inductive Role where
  | off | mirror | spare
  deriving DecidableEq, Repr

/-- The offload plan (R132). -/
structure Plan where
  r     : Nat
  roles : Vector Role 4
  lock  : Bool
  deriving DecidableEq, Repr

/-- The plan after power-on reset (R142). -/
def Plan.reset : Plan := { r := 2, roles := Vector.replicate 4 .off, lock := false }

/-! ## The manifest (R143, R145) -/

/-- Kinds of manifest record (R143, R181). -/
inductive RecordKind where
  | secured | excluded
  deriving DecidableEq, Repr

/-- One destination's entry in a manifest record (R143). -/
structure RecordCopy where
  state   : CopyState
  attempt : Nat
  window  : Option Window
  trailer : Option Nat
  deriving DecidableEq, Repr

/-- A manifest record (R143). -/
structure Record where
  kind     : RecordKind
  clip     : Nat
  job      : JobNo
  identity : Identity
  length   : Nat
  token    : List Byte
  sum      : Option ClosedSum
  prior    : Option ClipState
  unstable : Option Bool
  copies   : Vector (Option RecordCopy) 4
  detached : Bool
  deriving DecidableEq, Repr

/-- The manifest queue and the deferred list, oldest first (R144, R145). -/
structure Manifest where
  queue    : List Record
  deferred : List Nat
  deriving DecidableEq, Repr

/-- The manifest after either reset (R151). -/
def Manifest.reset : Manifest := { queue := [], deferred := [] }

/-! ## The fault unit (R152, R154) -/

/-- Fault classes (R152), in the order of their class codes. -/
inductive FaultClass where
  | linkCheck | cardRetry | cardFault | cardPulled | sourceUnstable | copyRepair | copyFailed | destFull | destLost
  deriving DecidableEq, Repr

/-- Routes (R155–R158), in the order of their codes (R181). -/
inductive Route where
  | quiet | notice | alarm | hold
  deriving DecidableEq, Repr

/-- One occurrence of a fault: its class, the objects it names and its detail (R153); its severity is its class's. -/
structure Occurrence where
  cls    : FaultClass
  job    : Option JobNo
  clip   : Option Nat
  dest   : Option DestNo
  port   : Option PortNo
  detail : Detail
  deriving DecidableEq, Repr

/-- The fault unit (R152). -/
structure FaultUnit where
  flags   : Vector Bool 9
  routes  : Vector Route 9
  capture : Option Occurrence
  alarm   : Bool
  deriving DecidableEq, Repr

/-- The default routes (R152). -/
def defaultRoutes : Vector Route 9 :=
  #v[.quiet, .quiet, .notice, .notice, .alarm, .notice, .alarm, .notice, .alarm]

/-- The fault unit after power-on reset (R165). -/
def FaultUnit.reset : FaultUnit :=
  { flags := Vector.replicate 9 false, routes := defaultRoutes, capture := none, alarm := false }

/-! ## The link controller (R166) -/

/-- Parser states (R166). -/
inductive ParserState where
  | hunt | mark | head | body | check
  deriving DecidableEq, Repr

/-- An entry of the outstanding-request table: the tag, the code and whether the reply is queued or still owed. -/
structure Entry where
  tag    : Byte
  code   : Nat
  queued : Bool
  deriving DecidableEq, Repr

/-- Whose place a frame of the outbound queue takes: an entry's reply, the refusal place's BUSY, or a notice. -/
inductive FrameOwner where
  | reply (e : EntryNo)
  | busy
  | notice
  deriving DecidableEq, Repr

/-- A frame waiting for the bulk-in pipe (R166, R167). -/
structure OutFrame where
  owner   : FrameOwner
  kind    : Byte
  tag     : Byte
  payload : List Byte
  deriving DecidableEq, Repr

/-- The link controller (R166).  The refusal place holds the tag of its BUSY reply. -/
structure Link where
  parser   : ParserState
  buf      : List Byte
  stall    : Bool
  table    : Vector (Option Entry) 8
  refusal  : Option Byte
  outq     : List OutFrame
  overflow : Bool
  deriving DecidableEq, Repr

/-- The link controller after power-on reset (R185). -/
def Link.reset : Link :=
  { parser := .hunt, buf := [], stall := false, table := Vector.replicate 8 none, refusal := none, outq := [],
    overflow := false }

/-! ## The lines (section 1.5) -/

/-- What the engine puts on a line during one command: a request or a restart on a reader or drive link, or a frame
on the bulk-in pipe (notes/assumptions/4.md). -/
inductive LineOut where
  | readReq (p : PortNo) (start count : Nat)
  | restartReader (p : PortNo)
  | drive (d : DestNo) (cmd : DriveCmd)
  | restartDrive (d : DestNo)
  | bulkIn (bytes : List Byte)
  deriving DecidableEq, Repr

/-! ## The machine -/

/-- The engine's state: the blocks of section 1.3.1, what the last command put on the lines, and the queue of
waiting commands, oldest first (the model's own, notes/assumptions/2.md).  Lamp values stand in the ports and the
alarm line in the fault unit. -/
structure State where
  ports    : Vector CardPort 8
  jobs     : Vector Job 16
  clips    : List (Nat × Clip)
  ring     : Ring
  dests    : Vector DestPort 4
  plan     : Plan
  manifest : Manifest
  faults   : FaultUnit
  link     : Link
  lines    : List LineOut
  pending  : List Instr
  deriving DecidableEq, Repr

/-- Why a command stops the model. -/
inductive Fault where
  /-- Raised by the event loop (Machine/Event.lean) when one event has not ended after `eventBudget`
  micro-operations.  Safe: the model stops where the hardware goes on, and no effect is invented; no event of a
  well-formed engine comes near the bound (notes/assumptions/3.md). -/
  | eventUnfinished
  deriving DecidableEq, Repr

/-- Why a command is refused. -/
inductive Refusal where
  /-- A command without a meaning, by its mnemonic.  No command of this model is refused so; safe. -/
  | notModelled (mnemonic : String)
  deriving DecidableEq, Repr

/-- The state after power-on reset with the strap in its 8-port position and no card seated (R20, R44, R74, R96,
R142, R151, R165, R185).  DESIGN CHOICE: the strap position and the empty readers (notes/assumptions/5.md). -/
def State.reset : State :=
  { ports := Vector.replicate 8 (CardPort.idle true), jobs := Vector.replicate 16 Job.free, clips := [],
    ring := Ring.reset, dests := Vector.replicate 4 DestPort.reset, plan := Plan.reset, manifest := Manifest.reset,
    faults := FaultUnit.reset, link := Link.reset, lines := [], pending := [] }

end Sys2Proof.Machine
end

