-- ==== Sys2Proof/Machine/Operands.lean ====
section
/-! DEFINITION. Machine/Operands.lean: the units of a clip, the pieces a unit is cut into, and where a copy lies.

Every quantity a command or an effect addresses is formed here: clip units (section 1.6), reader pieces (R35),
the derived parameters of a binding (R82), drive addresses (R86, R113) and the job, port and class numbers a request
names. -/

namespace Sys2Proof.Machine

/-- The number of units of a clip of `length` bytes (section 1.6). -/
def unitCount (length : Nat) : Nat := (length + unitBytes - 1) / unitBytes

/-- The bytes B of unit `k` of a clip of `length` bytes (R57). -/
def unitByteCount (length k : Nat) : Nat := min (length - k * unitBytes) unitBytes

/-- The sectors that hold `bytes` bytes. -/
def sectorsOf (bytes : Nat) : Nat := (bytes + sectorBytes - 1) / sectorBytes

/-- The run of `want` concatenated sectors that starts `skip` sectors into the extents, cut at the extents'
boundaries into card runs (R35). -/
def cutRun : List Extent → (skip want : Nat) → List (Nat × Nat)
  | [], _, _ => []
  | e :: es, skip, want =>
    if want = 0 then []
    else if e.count ≤ skip then cutRun es (skip - e.count) want
    else
      let n := min want (e.count - skip)
      (e.start + skip, n) :: cutRun es 0 (want - n)

/-- The pieces of unit `k` of a clip (R35). -/
def unitPieces (x : Clip) (k : Nat) : List (Nat × Nat) :=
  cutRun x.extents (unitSectors * k) (sectorsOf (unitByteCount x.length k))

/-- The data units D of a binding (R82). -/
def Binding.dataUnits (b : Binding) : Nat := (b.area - b.strip) / unitSectors

/-- The first-attempt ceiling C of a binding (R82). -/
def Binding.ceiling (b : Binding) : Nat := b.dataUnits - b.spare

/-- The first sector of area unit `u` (R82). -/
def Binding.unitLba (b : Binding) (u : Nat) : Nat := b.areaStart + b.strip + unitSectors * u

/-- The sector of trailer `t` (R82). -/
def Binding.trailerLba (b : Binding) (t : Nat) : Nat := b.areaStart + t

/-- The bytes of a data WRITE: the slot's bytes with zero bytes to the end of the last sector (R86). -/
def sectorFill (data : List Byte) : List Byte :=
  data ++ List.replicate (sectorsOf data.length * sectorBytes - data.length) 0

/-- The job record a request names, none when the number is 16 or more (R15). -/
def jobOf (n : Nat) : Option JobNo := if h : n < 16 then some ⟨n, h⟩ else none

/-- The destination port a request names, none when the number is 4 or more. -/
def destOf (n : Nat) : Option DestNo := if h : n < 4 then some ⟨n, h⟩ else none

/-- The card port a request names, none when the number is 8 or more. -/
def portOf (n : Nat) : Option PortNo := if h : n < 8 then some ⟨n, h⟩ else none

/-- A role by its code (R181). -/
def roleOf : Nat → Option Role
  | 0 => some .off
  | 1 => some .mirror
  | 2 => some .spare
  | _ => none

/-- A route by its code (R181). -/
def routeOf : Nat → Option Route
  | 0 => some .quiet
  | 1 => some .notice
  | 2 => some .alarm
  | 3 => some .hold
  | _ => none

/-- The fault classes in the order of their codes (R152). -/
def allClasses : List FaultClass :=
  [.linkCheck, .cardRetry, .cardFault, .cardPulled, .sourceUnstable, .copyRepair, .copyFailed, .destFull, .destLost]

/-- A fault class by its code, none for a code of 9 or more (R160). -/
def classOf (n : Nat) : Option FaultClass := allClasses[n]?

/-- A set of destinations with `d` added, in ascending order (R57, R71). -/
def destInsert (d : DestNo) (ds : List DestNo) : List DestNo :=
  allDests.filter fun e => decide (e = d) || ds.contains e

/-- A set of destinations without `d`. -/
def destErase (d : DestNo) (ds : List DestNo) : List DestNo := ds.filter (· ≠ d)

end Sys2Proof.Machine
end

