-- ==== Sys2Proof/Machine/Table.lean ====
section
/-! DEFINITION. Machine/Table.lean: tables of numbered records, kept as lists of pairs with rising numbers.

A number that is not listed is a free record.  Each operation keeps the rising order (Laws/Table.lean), so equal
tables are equal lists. -/

namespace Sys2Proof.Table

variable {α : Type}

/-- The record of number `k`, none when it is free. -/
def find (k : Nat) : List (Nat × α) → Option α
  | [] => none
  | (k', v) :: t => if k = k' then some v else find k t

/-- The table with record `k` set to `v`. -/
def insert (k : Nat) (v : α) : List (Nat × α) → List (Nat × α)
  | [] => [(k, v)]
  | (k', v') :: t =>
    if k < k' then (k, v) :: (k', v') :: t
    else if k = k' then (k, v) :: t
    else (k', v') :: insert k v t

/-- The table with record `k` free. -/
def erase (k : Nat) : List (Nat × α) → List (Nat × α)
  | [] => []
  | (k', v) :: t => if k = k' then erase k t else (k', v) :: erase k t

/-- The table with every record mapped, its number unchanged. -/
def mapAll (f : Nat → α → α) (t : List (Nat × α)) : List (Nat × α) := t.map fun (k, v) => (k, f k v)

/-- The canonical form: numbers strictly rising. -/
def wf (t : List (Nat × α)) : Bool := decide ((t.map Prod.fst).Pairwise (· < ·))

/-- The lowest `want` numbers from `k` on that are not listed in `used`, looking at `fuel` numbers. -/
def freeFrom (used : List Nat) : (fuel k want : Nat) → List Nat
  | 0, _, _ => []
  | fuel + 1, k, want =>
    match want with
    | 0 => []
    | want' + 1 =>
      if used.contains k then freeFrom used fuel (k + 1) (want' + 1)
      else k :: freeFrom used fuel (k + 1) want'

end Sys2Proof.Table
end

