-- ==== Sys2Proof/Machine/Access.lean ====
section
/-! DEFINITION. Machine/Access.lean: reading and writing the engine's records, each in one place. -/

namespace Sys2Proof.Machine

namespace State

/-- Card port `p`. -/
def port (s : State) (p : PortNo) : CardPort := s.ports[p]

/-- Card port `p` replaced. -/
def setPort (p : PortNo) (x : CardPort) (s : State) : State := { s with ports := s.ports.set p x }

/-- Card port `p` changed. -/
def modPort (p : PortNo) (f : CardPort → CardPort) (s : State) : State := s.setPort p (f (s.port p))

/-- Job record `j`. -/
def job (s : State) (j : JobNo) : Job := s.jobs[j]

/-- Job record `j` replaced. -/
def setJob (j : JobNo) (x : Job) (s : State) : State := { s with jobs := s.jobs.set j x }

/-- Job record `j` changed. -/
def modJob (j : JobNo) (f : Job → Job) (s : State) : State := s.setJob j (f (s.job j))

/-- Destination port `d`. -/
def dest (s : State) (d : DestNo) : DestPort := s.dests[d]

/-- Destination port `d` replaced. -/
def setDest (d : DestNo) (x : DestPort) (s : State) : State := { s with dests := s.dests.set d x }

/-- Destination port `d` changed. -/
def modDest (d : DestNo) (f : DestPort → DestPort) (s : State) : State := s.setDest d (f (s.dest d))

/-- Catch-up lane `d` changed. -/
def modLane (d : DestNo) (f : Lane → Lane) (s : State) : State :=
  s.modDest d fun x => { x with lane := f x.lane }

/-- Clip record `c`, none when it is free. -/
def clip? (s : State) (c : Nat) : Option Clip := Table.find c s.clips

/-- Clip record `c` replaced. -/
def setClip (c : Nat) (x : Clip) (s : State) : State := { s with clips := Table.insert c x s.clips }

/-- Clip record `c` changed; a free record stays free. -/
def modClip (c : Nat) (f : Clip → Clip) (s : State) : State :=
  match s.clip? c with
  | none => s
  | some x => s.setClip c (f x)

/-- The copy of clip `c` on destination `d`, none when there is no subrecord. -/
def copy? (s : State) (c : Nat) (d : DestNo) : Option Copy := (s.clip? c).bind (·.copies[d])

/-- The copy subrecord of clip `c` on `d` set. -/
def setCopy (c : Nat) (d : DestNo) (k : Copy) (s : State) : State :=
  s.modClip c fun x => { x with copies := x.copies.set d (some k) }

/-- The copy subrecord of clip `c` on `d` changed, where there is one. -/
def modCopy (c : Nat) (d : DestNo) (f : Copy → Copy) (s : State) : State :=
  match s.copy? c d with
  | none => s
  | some k => s.setCopy c d (f k)

/-- Held slot `n`, none when it is FREE. -/
def slot? (s : State) (n : Nat) : Option Slot := Table.find n s.ring.held

/-- Held slot `n` changed; a FREE slot stays FREE. -/
def modSlot (n : Nat) (f : Slot → Slot) (s : State) : State :=
  match s.slot? n with
  | none => s
  | some x => { s with ring := { s.ring with held := Table.insert n (f x) s.ring.held } }

/-- Something put on a line (section 1.5). -/
def emitLine (o : LineOut) (s : State) : State := { s with lines := s.lines ++ [o] }

/-- The state as a command begins: nothing of an earlier command stands on the lines. -/
def quiet (s : State) : State := { s with lines := [] }

/-- The clip at a job's read position, none past the list. -/
def clipAtRead (s : State) (j : JobNo) : Option Nat := (s.job j).clips[(s.job j).readPos.clip]?

/-- The state of clip `c`, none when its record is free. -/
def clipState? (s : State) (c : Nat) : Option ClipState := (s.clip? c).map (·.state)

/-- The clips of a job that stand in one of the given states. -/
def clipsIn (s : State) (j : JobNo) (p : ClipState → Bool) : List Nat :=
  (s.job j).clips.filter fun c => (s.clipState? c).any p

/-- The FILLING slot a requester owns, the lowest-numbered one if there are several. -/
def fillingOf (s : State) (r : Requester) : Option Nat :=
  (s.ring.held.find? fun (_, x) => decide (x.state = .filling ∧ x.owner = r)).map Prod.fst

/-- The clips of a job in ascending clip number: the clip table is in that order, a clip list need not be (R18). -/
def clipsOfJob (s : State) (j : JobNo) : List Nat :=
  (s.clips.map Prod.fst).filter fun c => (s.job j).clips.contains c

/-- Is a destination ACTIVE (R76)? -/
def isActive (s : State) (d : DestNo) : Bool := decide ((s.dest d).state = .active)

/-- Is a destination ACTIVE or FULL, so that its drive is used (R76)? -/
def isServing (s : State) (d : DestNo) : Bool :=
  decide ((s.dest d).state = .active ∨ (s.dest d).state = .full)

end State

/-- A live copy (R13). -/
def CopyState.live : CopyState → Bool
  | .queued => true
  | .writing => true
  | .written => true
  | .verifying => true
  | .verified => false
  | .noSpace => false
  | .failed => false
  | .aborted => false

/-- A settled clip: SECURED or EXCLUDED (R14). -/
def ClipState.settled : ClipState → Bool
  | .secured => true
  | .excluded => true
  | .listed => false
  | .reading => false
  | .read => false
  | .sourceFault => false
  | .unstable => false

/-- A clip state in which the record holds a source sum that catch-up lanes serve: READ, SECURED or UNSTABLE (R41,
R120, R129). -/
def ClipState.supplied : ClipState → Bool
  | .read => true
  | .secured => true
  | .unstable => true
  | .listed => false
  | .reading => false
  | .excluded => false
  | .sourceFault => false

/-- The destinations whose copy of the clip satisfies `p`, in ascending order. -/
def Clip.destsWith (x : Clip) (p : Copy → Bool) : List DestNo := allDests.filter fun d => (x.copies[d]).any p

/-- The clip's live and VERIFIED copies, counted (R13, R128). -/
def Clip.liveOrVerified (x : Clip) : Nat :=
  (x.destsWith fun k => k.state.live || decide (k.state = .verified)).length

/-- The clip's VERIFIED copies, counted (R130). -/
def Clip.verifiedCount (x : Clip) : Nat := (x.destsWith fun k => decide (k.state = .verified)).length

/-- The number of live copies on destination `d` (R83, R85). -/
def State.liveOn (s : State) (d : DestNo) : Nat :=
  (s.clips.filter fun (_, x) => (x.copies[d]).any (·.state.live)).length

/-- The number of VERIFIED copies on destination `d` (R85). -/
def State.verifiedOn (s : State) (d : DestNo) : Nat :=
  (s.clips.filter fun (_, x) => (x.copies[d]).any fun k => decide (k.state = .verified)).length

/-- The clips with a live copy on `d`, in ascending order (R94). -/
def State.liveClipsOn (s : State) (d : DestNo) : List Nat :=
  (s.clips.filter fun (_, x) => (x.copies[d]).any (·.state.live)).map Prod.fst

/-- Has a job a live copy of one of its clips (R10)? -/
def State.hasLiveCopy (s : State) (j : JobNo) : Bool :=
  (s.job j).clips.any fun c => (s.clip? c).any fun x => !(x.destsWith (·.state.live)).isEmpty

/-- Has a job a live copy that is not suspended (R131)? -/
def State.hasMovingCopy (s : State) (j : JobNo) : Bool :=
  (s.job j).clips.any fun c =>
    (s.clip? c).any fun x => !(x.destsWith fun k => k.state.live && !k.suspended).isEmpty

/-- The destinations of a role, in ascending order (R132). -/
def Plan.withRole (p : Plan) (r : Role) : List DestNo := allDests.filter fun d => decide (p.roles[d] = r)

end Sys2Proof.Machine
end

