-- ==== Sys2Proof/Machine/Flags.lean ====
section
/-! DEFINITION. Machine/Flags.lean: the fault flags, the capture rule, the alarm line and the lamps.

Every level the engine forms from its state is formed here: severities (R152), the alarm line (R156), the capture
rule (R154) and the lamp values (R43). -/

namespace Sys2Proof.Machine

/-- Severities (R152), in the order of their codes (R181). -/
inductive Severity where
  | recovered | lasting
  deriving DecidableEq, Repr

/-- The class code (R152). -/
def FaultClass.code : FaultClass → Fin 9
  | .linkCheck => 0
  | .cardRetry => 1
  | .cardFault => 2
  | .cardPulled => 3
  | .sourceUnstable => 4
  | .copyRepair => 5
  | .copyFailed => 6
  | .destFull => 7
  | .destLost => 8

/-- The severity a class fixes (R152). -/
def FaultClass.severity : FaultClass → Severity
  | .linkCheck => .recovered
  | .cardRetry => .recovered
  | .cardFault => .lasting
  | .cardPulled => .recovered
  | .sourceUnstable => .lasting
  | .copyRepair => .recovered
  | .copyFailed => .lasting
  | .destFull => .recovered
  | .destLost => .lasting

/-- The route of a class (R152). -/
def FaultUnit.route (u : FaultUnit) (c : FaultClass) : Route := u.routes[c.code]

/-- The flag of a class (R152). -/
def FaultUnit.flag (u : FaultUnit) (c : FaultClass) : Bool := u.flags[c.code]

/-- The level of the alarm line: some class is flagged and routed ALARM (R156). -/
def FaultUnit.formAlarm (u : FaultUnit) : Bool :=
  allClasses.any fun c => u.flag c && decide (u.route c = .alarm)

/-- The alarm line re-formed (R156). -/
def FaultUnit.reform (u : FaultUnit) : FaultUnit := { u with alarm := u.formAlarm }

/-- Does the capture record take an occurrence (R154)?  It does when it is empty, and when it holds a recovered
fault and a lasting one is offered. -/
def FaultUnit.captures (u : FaultUnit) (o : Occurrence) : Bool :=
  match u.capture with
  | none => true
  | some h => decide (h.cls.severity = .recovered ∧ o.cls.severity = .lasting)

/-- The first two effects of an occurrence (R153): its flag is set and it is offered to the capture record.  The
alarm line is re-formed as the flag is set (R156). -/
def FaultUnit.take (u : FaultUnit) (o : Occurrence) : FaultUnit :=
  let u' : FaultUnit :=
    { u with flags := u.flags.set o.cls.code true, capture := if u.captures o then some o else u.capture }
  u'.reform

/-- A class flag cleared, the capture emptied when it holds that class, the alarm line re-formed (R160). -/
def FaultUnit.clear (u : FaultUnit) (c : FaultClass) : FaultUnit :=
  let u' : FaultUnit :=
    { u with flags := u.flags.set c.code false
             capture := if (u.capture.map (·.cls)) = some c then none else u.capture }
  u'.reform

/-- A class's route set, the alarm line re-formed (R161). -/
def FaultUnit.setRoute (u : FaultUnit) (c : FaultClass) (r : Route) : FaultUnit :=
  let u' : FaultUnit := { u with routes := u.routes.set c.code r }
  u'.reform

/-- Is a job HELD, or has it a clip in SOURCE_FAULT or UNSTABLE (R43)? -/
def State.jobTroubled (s : State) (j : JobNo) : Bool :=
  decide ((s.job j).state = .held)
    || !(s.clipsIn j fun x => decide (x = .sourceFault ∨ x = .unstable)).isEmpty

/-- The lamp value of a port, formed from its state, its released-identity memory and its bound job (R43). -/
def State.formLamp (s : State) (p : PortNo) : Lamp :=
  let x := s.port p
  if !x.enabled || decide (x.state = .empty) then .off
  else if x.released.isSome && decide (x.released = x.identity) then .green
  else if decide (x.state = .bound) && x.boundJob.any s.jobTroubled then .red
  else .amber

end Sys2Proof.Machine
end

