-- ==== Sys2Proof/Machine/Layout.lean ====
section
/-! DEFINITION. Machine/Layout.lean: every layout the engine writes (R167, R175, R178–R184). -/

namespace Sys2Proof.Machine

open Bytes

/-! ## Codes (R175, R181) -/

/-- Reply statuses (R175). -/
inductive Status where
  | ok | malformed | unknown | badParam | noSuch | wrongState | tableFull | locked | busy | noCard | readError
  deriving DecidableEq, Repr

/-- The value of a status (R175). -/
def Status.code : Status → Nat
  | .ok => 0
  | .malformed => 1
  | .unknown => 2
  | .badParam => 3
  | .noSuch => 4
  | .wrongState => 5
  | .tableFull => 6
  | .locked => 7
  | .busy => 8
  | .noCard => 9
  | .readError => 10

def PortState.code : PortState → Nat
  | .empty => 0
  | .mounting => 1
  | .present => 2
  | .bound => 3
  | .unreadable => 4

def Lamp.code : Lamp → Nat
  | .off => 0
  | .green => 1
  | .red => 2
  | .amber => 3

def JobState.code : JobState → Nat
  | .free => 0
  | .loading => 1
  | .running => 2
  | .paused => 3
  | .pulled => 4
  | .draining => 5
  | .held => 6
  | .reporting => 7
  | .released => 8

def ClipState.code : ClipState → Nat
  | .listed => 0
  | .reading => 1
  | .read => 2
  | .secured => 3
  | .excluded => 4
  | .sourceFault => 5
  | .unstable => 6

/-- The clip states in the order of their codes. -/
def allClipStates : List ClipState := [.listed, .reading, .read, .secured, .excluded, .sourceFault, .unstable]

def CopyState.code : CopyState → Nat
  | .queued => 0
  | .writing => 1
  | .written => 2
  | .verifying => 3
  | .verified => 4
  | .noSpace => 5
  | .failed => 6
  | .aborted => 7

def Origin.code : Origin → Nat
  | .plan => 0
  | .spare => 1
  | .repair => 2
  | .host => 3

def DestState.code : DestState → Nat
  | .absent => 0
  | .unbound => 1
  | .active => 2
  | .full => 3
  | .lost => 4

def Role.code : Role → Nat
  | .off => 0
  | .mirror => 1
  | .spare => 2

def Route.code : Route → Nat
  | .quiet => 0
  | .notice => 1
  | .alarm => 2
  | .hold => 3

def ManifestStatus.code : ManifestStatus → Nat
  | .none => 0
  | .deferred => 1
  | .queued => 2
  | .taken => 3

def RecordKind.code : RecordKind → Nat
  | .secured => 0
  | .excluded => 1

def PauseCause.code : PauseCause → Nat
  | .host => 0
  | .hold => 1

def Severity.code : Severity → Nat
  | .recovered => 0
  | .lasting => 1

/-- A resume target is sent as a job state code (R181). -/
def ResumeTarget.code : ResumeTarget → Nat
  | .running => JobState.running.code
  | .paused => JobState.paused.code

def Detail.code : Detail → Nat
  | .none => 0
  | .readerError => 1
  | .readerTimeout => 2
  | .driveFail => 3
  | .driveRetry => 4
  | .driveTimeout => 5
  | .driveRemoved => 6
  | .sumMismatch => 7
  | .trailerMismatch => 8
  | .noRoom => 9
  | .frameCheck => 10
  | .cardRemoved => 11

/-! ## Fields (R181) -/

/-- An optional one-byte code, job, port or destination: 255 when absent. -/
def optByte (x : Option Nat) : Byte := u8 (x.getD 255)

/-- An optional clip number: 0xFFFF when absent. -/
def optClip (x : Option Nat) : List Byte := le 2 (x.getD 0xFFFF)

/-- An optional field of `n` bytes behind its presence byte, zeros when absent. -/
def optField {α : Type} (n : Nat) (f : α → List Byte) : Option α → List Byte
  | some x => 1 :: f x
  | none => 0 :: zeros n

/-- A card identity: media id (8) then capacity (6). -/
def Identity.bytes (i : Identity) : List Byte := le 8 i.media ++ le 6 i.capacity

/-- S1, S2 and F in sum order. -/
def ClosedSum.bytes (x : ClosedSum) : List Byte := be 4 x.s1 ++ be 4 x.s2 ++ be 4 x.f.toNat

/-- A name token: its length, then 48 bytes holding it followed by zeros. -/
def tokenBytes (t : List Byte) : List Byte := u8 t.length :: (t ++ zeros (48 - t.length))

/-- A set of ports as four bytes. -/
def destSetBytes (ds : List DestNo) : List Byte := allDests.map fun d => flag (ds.contains d)

/-! ## Replies (R182) -/

/-- The fixed strings of IDENTIFY in ASCII (R178): "BREDSHOLT" and "WEZPIN OE16", each zero-padded to 16 bytes. -/
def vendorBytes : List Byte := [0x42, 0x52, 0x45, 0x44, 0x53, 0x48, 0x4F, 0x4C, 0x54] ++ zeros 7

def partBytes : List Byte := [0x57, 0x45, 0x5A, 0x50, 0x49, 0x4E, 0x20, 0x4F, 0x45, 0x31, 0x36] ++ zeros 5

/-- The number of enabled card ports (R178, R179). -/
def State.enabledPorts (s : State) : Nat := (allPorts.filter fun p => (s.port p).enabled).length

/-- The payload of an IDENTIFY reply (R178). -/
def State.identifyBytes (s : State) : List Byte :=
  vendorBytes ++ partBytes ++ [1, u8 s.enabledPorts, 4]

/-- The notices that stand in the outbound queue (R177). -/
def Link.noticesQueued (l : Link) : Nat := (l.outq.filter fun f => decide (f.owner = .notice)).length

/-- The outstanding requests (R166). -/
def Link.outstanding (l : Link) : Nat := (allEntries.filter fun e => (l.table[e]).isSome).length

/-- The held slots in a state (R73). -/
def State.slotsIn (s : State) (x : SlotState) : Nat := (s.ring.held.filter fun (_, y) => decide (y.state = x)).length

/-- The payload of a STATUS reply (R179). -/
def State.statusBytes (s : State) : List Byte :=
  [u8 s.link.outstanding, flag s.link.overflow, u8 s.link.noticesQueued]
    ++ allPorts.map (fun p => if (s.port p).enabled then u8 (s.port p).state.code else 255)
    ++ allPorts.map (fun p => u8 (s.port p).lamp.code)
    ++ allDests.map (fun d => u8 (s.dest d).state.code)
    ++ allJobs.map (fun j => u8 (s.job j).state.code)
    ++ le 2 s.ring.freeList.length ++ le 2 (s.slotsIn .filling) ++ le 2 (s.slotsIn .staged)
    ++ [u8 s.ring.waitList.length]
    ++ allDests.map (fun d => u8 (s.dest d).lane.held)
    ++ le 2 s.manifest.queue.length ++ le 2 s.manifest.deferred.length
    ++ [flag s.faults.alarm, u8 s.enabledPorts]

/-- The count and roles of the plan (R182). -/
def Plan.bytes (p : Plan) : List Byte := u8 p.r :: allDests.map fun d => u8 (p.roles[d]).code

/-- The payload of a PLAN_LOCK reply (R182). -/
def Plan.lockBytes (p : Plan) : List Byte := p.bytes ++ [flag p.lock]

/-- The payload of a PLAN_QUERY reply (R136, R182). -/
def State.planBytes (s : State) : List Byte :=
  s.plan.lockBytes
    ++ [u8 (s.plan.withRole .mirror).length, u8 ((s.plan.withRole .mirror).filter s.isActive).length,
        u8 ((s.plan.withRole .spare).filter s.isActive).length]

/-- A binding's parameters with D and C (R182). -/
def Binding.bytes (b : Binding) : List Byte :=
  le 6 b.areaStart ++ le 6 b.area ++ le 4 b.strip ++ le 2 b.spare ++ le 6 b.firstUnit ++ le 4 b.firstTrailer
    ++ le 6 b.dataUnits ++ le 6 b.ceiling ++ le 6 b.nextUnit ++ le 4 b.nextTrailer

/-- The payload of a DEST_QUERY reply (R85, R182). -/
def State.destBytes (s : State) (d : DestNo) : List Byte :=
  let x := s.dest d
  [u8 x.state.code, flag x.present] ++ optField 6 (le 6) x.capacity ++ optField 50 Binding.bytes x.binding
    ++ le 2 (s.liveOn d) ++ le 2 (s.verifiedOn d) ++ [flag x.outstanding.isSome, flag x.abandoned]

/-- A snapshot behind its presence byte (R182). -/
def snapshotBytes : Option Snapshot → List Byte :=
  optField 9 fun x => u8 x.r :: (destSetBytes x.mirrors ++ destSetBytes x.spares)

/-- The payload of a JOB_QUERY reply (R18, R182). -/
def State.jobBytes (s : State) (j : JobNo) : List Byte :=
  let x := s.job j
  u8 x.state.code :: optField 14 Identity.bytes x.identity
    ++ [optByte (x.boundPort.map (·.val))] ++ le 2 x.clips.length
    ++ allClipStates.flatMap (fun st => le 2 (s.clipsIn j fun y => decide (y = st)).length)
    ++ le 2 x.readPos.clip ++ le 4 x.readPos.unit ++ le 2 x.checkpoint.pos.clip ++ le 4 x.checkpoint.pos.unit
    ++ snapshotBytes x.snapshot ++ le 2 x.quota ++ [flag x.urgent] ++ le 2 x.held
    ++ [optByte (x.resumeTarget.map (·.code)), optByte (x.pauseCause.map (·.code)), flag x.pausePending]

/-- The last fields of a copy entry: window and trailer index behind their presence bytes (R184). -/
def placeBytes (w : Option Window) (t : Option Nat) : List Byte :=
  optField 10 (fun w => le 6 w.first ++ le 4 w.count) w ++ optField 4 (le 4) t

/-- A copy entry of a manifest record: 18 bytes (R184). -/
def recordCopyBytes : Option RecordCopy → List Byte
  | none => 255 :: zeros 17
  | some k => u8 k.state.code :: u8 k.attempt :: placeBytes k.window k.trailer

/-- A full copy entry of a clip record: 37 bytes (R184). -/
def copyBytes : Option Copy → List Byte
  | none => 255 :: zeros 36
  | some k =>
    u8 k.state.code :: u8 k.origin.code :: u8 k.attempt :: placeBytes k.window k.trailer
      ++ le 4 k.written ++ [flag k.suspended] ++ optField 12 ClosedSum.bytes k.readback

/-- The clip record of a CLIP_QUERY reply (R184). -/
def clipBytes (c : Nat) (x : Clip) : List Byte :=
  le 2 c ++ [u8 x.job.val, u8 x.state.code] ++ le 5 x.length ++ [flag x.unstable, u8 x.mstatus.code]
    ++ tokenBytes x.token ++ optField 12 ClosedSum.bytes x.sum
    ++ allDests.flatMap (fun d => copyBytes x.copies[d])
    ++ u8 x.extents.length :: x.extents.flatMap fun e => le 6 e.start ++ le 4 e.count

/-- A manifest record: 160 bytes (R184). -/
def Record.bytes (r : Record) : List Byte :=
  [u8 r.kind.code, flag r.detached] ++ le 2 r.clip ++ [u8 r.job.val] ++ r.identity.bytes ++ le 5 r.length
    ++ tokenBytes r.token ++ optField 12 ClosedSum.bytes r.sum
    ++ [optByte (r.prior.map (·.code)), optByte (r.unstable.map fun b => if b then 1 else 0)]
    ++ allDests.flatMap fun d => recordCopyBytes r.copies[d]

/-- The nine flags (R182). -/
def FaultUnit.flagBytes (u : FaultUnit) : List Byte := allClasses.map fun c => Bytes.flag (u.flag c)

/-- The nine routes (R182). -/
def FaultUnit.routeBytes (u : FaultUnit) : List Byte := allClasses.map fun c => u8 (u.route c).code

/-- Class, severity, job, clip, destination, port and detail of an occurrence (R182). -/
def Occurrence.bytes (o : Occurrence) : List Byte :=
  [u8 o.cls.code.val, u8 o.cls.severity.code, optByte (o.job.map (·.val))] ++ optClip o.clip
    ++ [optByte (o.dest.map (·.val)), optByte (o.port.map (·.val)), u8 o.detail.code]

/-- The capture record: 9 bytes (R182). -/
def FaultUnit.captureBytes (u : FaultUnit) : List Byte :=
  match u.capture with
  | none => 1 :: zeros 8
  | some o => 0 :: o.bytes

/-- The payload of a FAULT_READ reply (R159, R182). -/
def FaultUnit.bytes (u : FaultUnit) : List Byte :=
  u.flagBytes ++ u.routeBytes ++ u.captureBytes ++ [Bytes.flag u.alarm]

/-! ## Notices (R162, R182) -/

/-- Notices (R162). -/
inductive Notice where
  | cardChange (p : PortNo)
  | jobChange (j : JobNo) (before : JobState)
  | destChange (d : DestNo)
  | manifestWaiting
  | faultRaised (o : Occurrence) (captured : Bool)
  deriving DecidableEq, Repr

/-- A notice's code (R182). -/
def Notice.code : Notice → Nat
  | .cardChange _ => 1
  | .jobChange _ _ => 2
  | .destChange _ => 3
  | .manifestWaiting => 4
  | .faultRaised _ _ => 5

/-- A notice's payload, formed from the state as the change left it (R162, R182). -/
def Notice.payload (s : State) : Notice → List Byte
  | .cardChange p =>
    let x := s.port p
    [u8 p.val, u8 x.state.code] ++ optField 14 Identity.bytes x.identity
      ++ [optByte (x.boundJob.map (·.val)), u8 x.lamp.code]
  | .jobChange j before =>
    let x := s.job j
    [u8 j.val, u8 before.code, u8 x.state.code, optByte (x.resumeTarget.map (·.code)),
     optByte (x.pauseCause.map (·.code))]
  | .destChange d =>
    let x := s.dest d
    [u8 d.val, u8 x.state.code, Bytes.flag x.present] ++ optField 6 (le 6) x.capacity
  | .manifestWaiting => le 2 s.manifest.queue.length
  | .faultRaised o captured => o.bytes ++ [Bytes.flag captured]

/-- A notice as a frame: class 10 and its code in the kind byte, tag 0 (R167). -/
def Notice.frame (n : Notice) (s : State) : OutFrame :=
  { owner := .notice, kind := u8 (128 + n.code), tag := 0, payload := n.payload s }

/-- A reply as a frame: class 01 and its status in the kind byte; no payload unless OK (R167, R175). -/
def replyFrame (owner : FrameOwner) (tag : Byte) (st : Status) (payload : List Byte) : OutFrame :=
  { owner := owner, kind := u8 (64 + st.code), tag := tag, payload := if st = .ok then payload else [] }

/-! ## The trailer (R92, R183) -/

/-- The trailer marker value (R183). -/
def trailerMarker : List Byte := [0x57, 0x5A, 0x54, 0x31]

/-- The trailer of a copy attempt: one sector (R92, R183). -/
def trailerBytes (c : Nat) (identity : Identity) (length : Nat) (sum : ClosedSum) (w : Window) (attempt : Nat)
    (token : List Byte) : List Byte :=
  trailerMarker ++ le 2 c ++ identity.bytes ++ le 5 length ++ sum.bytes ++ le 6 w.first ++ le 4 w.count
    ++ [u8 attempt] ++ tokenBytes token ++ zeros 415

/-- `n` bytes of a sector from offset `at`. -/
def sectorField (sector : List Byte) (off n : Nat) : List Byte := (sector.drop off).take n

/-- The trailer check at readback (R114, R183): marker, clip number, L, S1, S2, F and the window; the identity, the
attempt, the name token and the padding are not compared. -/
def trailerAgrees (sector : List Byte) (c length : Nat) (sum : ClosedSum) (w : Window) : Bool :=
  decide (sectorField sector 0 4 = trailerMarker)
    && decide (sectorField sector 4 2 = le 2 c)
    && decide (sectorField sector 20 5 = le 5 length)
    && decide (sectorField sector 25 12 = sum.bytes)
    && decide (sectorField sector 37 6 = le 6 w.first)
    && decide (sectorField sector 43 4 = le 4 w.count)

end Sys2Proof.Machine
end

