-- ==== Sys2Proof/Machine/Ops.lean ====
section
/-! DEFINITION. Machine/Ops.lean: the named operations the commands share.

Notices and replies (R162, R176, R177), changes of state with their notices, fault occurrences and the HOLD route
(R153–R157), lamps (R164), the outstanding-request table (R173), and the slots of the staging ring (R59–R66). -/

namespace Sys2Proof.Machine

/-! ## The outbound queue -/

/-- A notice's frame joins the queue when a notice place is free, else it is dropped and the notice-overflow flag is set
(R177). -/
def Link.queueNotice (f : OutFrame) (l : Link) : Link :=
  if l.noticesQueued < noticePlaces then { l with outq := l.outq ++ [f] } else { l with overflow := true }

/-- A reply given back by an owner: it joins the tail of the outbound queue and its entry becomes queued (R176).  A
result that finds no entry owed is discarded (R180). -/
def Link.queueReply (e : EntryNo) (st : Status) (payload : List Byte) (l : Link) : Link :=
  match l.table[e] with
  | none => l
  | some x =>
    if x.queued then l
    else
      { l with
        table := l.table.set e (some { x with queued := true })
        outq := l.outq ++ [replyFrame (.reply e) x.tag st payload] }

namespace State

/-- A notice handed to the link controller, formed from the state as it stands (R162, R177). -/
def notify (n : Notice) (s : State) : State := { s with link := s.link.queueNotice (n.frame s) }

/-- A reply handed to the link controller (R176). -/
def reply (e : EntryNo) (st : Status) (payload : List Byte) (s : State) : State :=
  { s with link := s.link.queueReply e st payload }

/-! ## Changes of state, each with its notice (R162) -/

/-- A job's record changed together with its state, announced with JOB_CHANGE (R2, R162). -/
def moveJob (j : JobNo) (f : Job → Job) (s : State) : State :=
  (s.modJob j f).notify (.jobChange j (s.job j).state)

/-- A card port changed together with its state, its lamp re-formed, announced with one CARD_CHANGE (R162, R164). -/
def movePort (p : PortNo) (f : CardPort → CardPort) (s : State) : State :=
  let s' := s.modPort p f
  (s'.modPort p fun x => { x with lamp := s'.formLamp p }).notify (.cardChange p)

/-- A destination changed in state, presence or capacity, announced with DEST_CHANGE (R75, R162). -/
def moveDest (d : DestNo) (f : DestPort → DestPort) (s : State) : State :=
  (s.modDest d f).notify (.destChange d)

/-- A port's lamp re-formed; a change without a change of port state is announced with CARD_CHANGE (R43, R162,
R164). -/
def refreshLamp (s : State) (p : PortNo) : State :=
  if s.formLamp p = (s.port p).lamp then s
  else (s.modPort p fun x => { x with lamp := s.formLamp p }).notify (.cardChange p)

/-- Every port's lamp re-formed, in ascending port order. -/
@[irreducible] def refreshLamps (s : State) : State := allPorts.foldl refreshLamp s

/-! ## The slot wait list and pauses -/

/-- A requester leaves the slot wait list (R63). -/
def leaveWait (r : Requester) (s : State) : State :=
  { s with ring := { s.ring with waitList := s.ring.waitList.filter (· ≠ r) } }

/-- A requester joins the tail of the slot wait list, which holds no requester twice (R63). -/
def joinWait (r : Requester) (s : State) : State :=
  if s.ring.waitList.contains r then s
  else { s with ring := { s.ring with waitList := s.ring.waitList ++ [r] } }

/-- Is a RUNNING job at a unit boundary, that is with no unit in flight (R38)? -/
def atBoundary (s : State) (j : JobNo) : Bool := (s.fillingOf (.job j)).isNone

/-- A pending pause takes effect: the job becomes PAUSED, the flag is cleared, the cause is kept, and a job on the
slot wait list leaves it (R38). -/
def pauseNow (j : JobNo) (s : State) : State :=
  (s.leaveWait (.job j)).moveJob j fun x => { x with state := .paused, pausePending := false }

/-- Has a job something left to read at its read position: a LISTED clip, or units of a READING one?  It has not while
its last clip is ending (R37, R39), nor while a clip of length 0 passes through READING (R34). -/
def readsOn (s : State) (j : JobNo) : Bool :=
  ((s.clipAtRead j).bind s.clip?).any fun x =>
    decide (x.state = .listed) || (decide (x.state = .reading) && decide (0 < x.length))

/-- A pause asked of a RUNNING job: the flag is set with its cause, and it takes effect at once when the job is at a
unit boundary (R3, R8, R38).  A job whose clip is ending at this very event goes on to that end first: it is PAUSED at
the next clip, or DRAINING when no clip is LISTED (R3, R40; notes/assumptions/18.md). -/
def askPause (cause : PauseCause) (j : JobNo) (s : State) : State :=
  let s' := s.modJob j fun x => { x with pausePending := true, pauseCause := some cause }
  if s'.atBoundary j && s'.readsOn j then s'.pauseNow j else s'

/-! ## Faults (R153–R157) -/

/-- The HOLD route on one job record (R157). -/
def holdJob (s : State) (j : JobNo) : State :=
  match (s.job j).state with
  | .running => s.askPause .hold j
  | .pulled =>
    if (s.job j).resumeTarget = some .running then
      s.modJob j fun x => { x with resumeTarget := some .paused, pauseCause := some .hold }
    else s
  | .free => s
  | .loading => s
  | .paused => s
  | .draining => s
  | .held => s
  | .reporting => s
  | .released => s

/-- The HOLD route: every job record, in ascending job number (R157). -/
@[irreducible] def holdJobs (s : State) : State := allJobs.foldl holdJob s

/-- The route of a class carried out for one occurrence (R155–R157). -/
def carryRoute (o : Occurrence) (captured : Bool) (s : State) : State :=
  match s.faults.route o.cls with
  | .quiet => s
  | .notice => s.notify (.faultRaised o captured)
  | .alarm => s
  | .hold => s.holdJobs

/-- A fault occurrence taken by the fault unit: flag, capture, route (R153). -/
def raise (o : Occurrence) (s : State) : State :=
  ({ s with faults := s.faults.take o }).carryRoute o (s.faults.captures o)

/-! ## Slots (R59–R66) -/

/-- The held-slot count of a requester changed (R60). -/
def modHeld (r : Requester) (f : Nat → Nat) (s : State) : State :=
  match r with
  | .job j => s.modJob j fun x => { x with held := f x.held }
  | .lane d => s.modLane d fun x => { x with held := f x.held }

/-- The slot at the head of the free list given to a requester for unit `unit` of clip `clip`, and the state with it
FILLING; none when the free list is empty (R59, R61, R62). -/
def giveSlot (r : Requester) (clip unit : Nat) (s : State) : Option (Nat × State) :=
  match s.ring.freeList, s.clip? clip with
  | n :: rest, some x =>
    let slot : Slot :=
      { state := .filling, owner := r, clip := clip, unit := unit, byteCount := unitByteCount x.length unit,
        pending := [], data := [] }
    let s' : State :=
      { s with ring := { s.ring with freeList := rest, held := Table.insert n slot s.ring.held } }
    some (n, s'.modHeld r (· + 1))
  | _, _ => none

/-- One slot freed: it joins the tail of the free list and its owner's count falls by one (R64). -/
def freeSlot (n : Nat) (s : State) : State :=
  match s.slot? n with
  | none => s
  | some x =>
    let s' : State :=
      { s with ring := { s.ring with freeList := s.ring.freeList ++ [n], held := Table.erase n s.ring.held } }
    s'.modHeld x.owner (· - 1)

/-- Is a requester held at its limit with a request standing (R65)? -/
def heldAtLimit (s : State) : Requester → Bool
  | .job j =>
    decide ((s.job j).state = .running) && decide ((s.job j).quota ≤ (s.job j).held)
      && s.atBoundary j && !s.ring.waitList.contains (.job j)
  | .lane d =>
    decide (laneLimit ≤ (s.dest d).lane.held) && (s.dest d).lane.standing.isSome
      && !s.ring.waitList.contains (.lane d)

/-! ## Reading (R1, R32, R36, R51) -/

/-- The first LISTED clip of a job's list, as an index; the length of the list when none is LISTED (R1). -/
def firstListed (s : State) (j : JobNo) : Nat :=
  (s.job j).clips.findIdx fun c => decide (s.clipState? c = some .listed)

/-- Is some clip of the job's list LISTED? -/
def anyListed (s : State) (j : JobNo) : Bool := !(s.clipsIn j fun x => decide (x = .listed)).isEmpty

/-- Is some clip of the job's list READING or LISTED (R40)? -/
def anyToRead (s : State) (j : JobNo) : Bool :=
  !(s.clipsIn j fun x => decide (x = .listed ∨ x = .reading)).isEmpty

/-- The read position moved to clip index `i`, unit 0, with live sums and checkpoint to match (R1, R51). -/
def standAt (j : JobNo) (i : Nat) (s : State) : State :=
  s.modJob j fun x =>
    { x with readPos := ⟨i, 0⟩, live := Sums.start, summed := 0, checkpoint := ⟨⟨i, 0⟩, Sums.start⟩ }

/-- The read position moved to the first LISTED clip, or past the list (R1, R51). -/
def standAtFirst (j : JobNo) (s : State) : State := s.standAt j (s.firstListed j)

/-- The pieces of a unit joining the tail of a port's FIFO together, in order (R32, R36, R41). -/
def queuePieces (p : PortNo) (work : ReaderWork) (pieces : List (Nat × Nat)) (s : State) : State :=
  s.modPort p fun x => { x with fifo := x.fifo ++ pieces.map fun (a, n) => ⟨work, a, n⟩ }

/-- A slot given to a job for the unit at its read position, and the unit's pieces queued at its port (R36); `none`
when the free list is empty. -/
def startUnit (j : JobNo) (s : State) : Option State :=
  match s.clipAtRead j with
  | none => none
  | some c =>
    match s.giveSlot (.job j) c (s.job j).readPos.unit with
    | none => none
    | some (_, s') =>
      match (s.job j).boundPort, s.clip? c with
      | some p, some x =>
        some (s'.queuePieces p (.job j c (s.job j).readPos.unit) (unitPieces x (s.job j).readPos.unit))
      | _, _ => some s'

/-- May a unit be read for a job: is it RUNNING, its card bound, and no unit in flight (R36)? -/
def mayRead (s : State) (j : JobNo) : Bool :=
  decide ((s.job j).state = .running) && (s.job j).boundPort.isSome && s.atBoundary j

/-- The port bound to a RUNNING job asks the ring for a slot for it (R36, R61): given, waiting on the list, or waiting at
its quota.  A job that may not read asks for nothing. -/
def askForJob (j : JobNo) (s : State) : State :=
  if !s.mayRead j then s
  else if (s.job j).quota ≤ (s.job j).held then s
  else match s.startUnit j with
    | some s' => s'
    | none => s.joinWait (.job j)

end State

end Sys2Proof.Machine
end

