-- ==== Sys2Proof/Machine/Arbiter.lean ====
section
/-! DEFINITION. Machine/Arbiter.lean: the engine's side of the reader and drive links.

Issuing the head of a reader request FIFO (R24, R25, R32), the arbiters' selections and grants (R97–R104), the read
lanes' jobs and formed requests (R112, R113, R116), and the withdrawal of work from both (R24, R78, R110). -/

namespace Sys2Proof.Machine

/-! ## Reader links -/

namespace State

/-- May a port issue its head item: none outstanding, and BOUND, or PRESENT with a sector read at the head (R32)? -/
def readerReady (s : State) (p : PortNo) : Bool :=
  let x := s.port p
  x.enabled && x.outstanding.isNone
    && match x.state, x.fifo.head? with
      | .bound, some _ => true
      | .present, some ⟨.sector _ _, _, _⟩ => true
      | _, _ => false

/-- A READ_REQ issued: outstanding with its attempt number, the reader timer started (R24, R25). -/
def issueRead (p : PortNo) (r : ReaderRequest) (s : State) : State :=
  (s.modPort p fun x => { x with outstanding := some r, abandoned := false, readerTimer := true }).emitLine
    (.readReq p r.item.start r.item.count)

/-- The head of a port's FIFO issued as attempt 1 when the port may issue (R25, R32). -/
def serveReader (s : State) (p : PortNo) : State :=
  match (s.port p).fifo with
  | [] => s
  | i :: _ => if s.readerReady p then s.issueRead p ⟨i, 1, none⟩ else s

/-- The reader work `gone` withdrawn from a port: its items leave the FIFO, and an outstanding request that serves it
becomes abandoned (R24). -/
def withdrawReads (gone : ReaderWork → Bool) (p : PortNo) (s : State) : State :=
  s.modPort p fun x =>
    { x with
      fifo := x.fifo.filter fun i => !gone i.work
      abandoned := x.abandoned || x.outstanding.any fun r => gone r.item.work }

/-- The reader link of a port restarted (R24, R44). -/
def restartReader (p : PortNo) (s : State) : State := s.emitLine (.restartReader p)

/-- The drive link of a destination port restarted (R79, R80, R94). -/
def restartDrive (d : DestNo) (s : State) : State := s.emitLine (.restartDrive d)

end State

/-! ## Write queues -/

/-- The queue of a write requester (R97, R98). -/
def DestPort.queue (x : DestPort) : Writer → List Item
  | .wq j => x.wq[j]
  | .cq => x.cq

/-- The queue of a write requester replaced. -/
def DestPort.setQueue (x : DestPort) (w : Writer) (q : List Item) : DestPort :=
  match w with
  | .wq j => { x with wq := x.wq.set j q }
  | .cq => { x with cq := q }

/-- A new item of a queue, its retry count 0 (R97). -/
def Item.new (clip : Nat) (kind : ItemKind) : Item :=
  { clip := clip, kind := kind, retries := 0, noCard := false, noDests := [] }

/-- Does an item name this slot? -/
def Item.names (i : Item) (n : Nat) : Bool := decide (i.kind = .data n)

namespace State

/-- An item appended to a queue of destination `d`. -/
def queueItem (d : DestNo) (w : Writer) (i : Item) (s : State) : State :=
  s.modDest d fun x => x.setQueue w (x.queue w ++ [i])

/-- Is an item ready to be issued (R98): a trailer, or a write whose slot is STAGED? -/
def itemReady (s : State) (i : Item) : Bool :=
  match i.kind with
  | .trailer => true
  | .data n => (s.slot? n).any fun x => decide (x.state = .staged)

/-- Does a write requester wait at the arbiter of `d` (R98)? -/
def writerWaits (s : State) (d : DestNo) (w : Writer) : Bool :=
  ((s.dest d).queue w).head?.any s.itemReady

/-- Does the read lane of `d` wait: has its active job a request formed and not yet issued (R98)? -/
def readLaneWaits (s : State) (d : DestNo) : Bool :=
  (s.dest d).rl.active.any fun a => a.formed.isSome

/-- Is a write requester urgent?  A job's queue is when the job was started urgent; the catch-up lane never is
(R97, R98). -/
def writerUrgent (s : State) : Writer → Bool
  | .wq j => (s.job j).urgent
  | .cq => false

end State

/-- What an arbiter grants: a write requester's head item, or the read lane's formed request (R100). -/
inductive Grant where
  | writer (w : Writer)
  | readLane
  deriving DecidableEq, Repr

namespace State

/-- The arbiter's choice when a selection is made: the first case of R100 that holds. -/
def choose (s : State) (d : DestNo) : Option Grant :=
  let x := s.dest d
  match x.arb.lock with
  | some (w, _) => some (.writer w)
  | none =>
    let waiting := x.arb.rotation.filter (s.writerWaits d)
    if s.readLaneWaits d && (waiting.isEmpty || decide (3 ≤ x.arb.grants)) then some .readLane
    else match waiting.find? s.writerUrgent with
      | some w => some (.writer w)
      | none => waiting.head?.map .writer

/-- The selection of an arbiter: none unless the port is ACTIVE or FULL with nothing outstanding (R99). -/
def select (s : State) (d : DestNo) : Option Grant :=
  if s.isServing d && (s.dest d).outstanding.isNone then s.choose d else none

/-- The request formed from the head item of a write requester (R86, R92, R103). -/
def formWrite (s : State) (d : DestNo) (w : Writer) : Option DriveRequest := do
  let i ← ((s.dest d).queue w).head?
  let x ← s.clip? i.clip
  let k ← x.copies[d]
  let b ← (s.dest d).binding
  let win ← k.window
  match i.kind with
  | .data n =>
    let slot ← s.slot? n
    some
      { cmd := { kind := .write, lba := b.unitLba (win.first + slot.unit), count := sectorsOf slot.byteCount,
                 data := sectorFill slot.data }
        serves := .data w i.clip k.attempt n }
  | .trailer =>
    let t ← k.trailer
    let sum ← x.sum
    let identity ← (s.job x.job).identity
    some
      { cmd := { kind := .write, lba := b.trailerLba t, count := 1,
                 data := trailerBytes i.clip identity x.length sum win k.attempt x.token }
        serves := .trailer w i.clip k.attempt }

/-- A drive request issued: outstanding, not abandoned, the response timer started (R78). -/
def issueDrive (d : DestNo) (r : DriveRequest) (s : State) : State :=
  (s.modDest d fun x => { x with outstanding := some r, abandoned := false, timer := true }).emitLine
    (.drive d r.cmd)

/-- A grant carried out: the request issued, the rotation list and the write-grant count moved on (R101–R103). -/
def carryGrant (d : DestNo) (s : State) : Grant → State
  | .writer w =>
    match s.formWrite d w with
    | none => s
    | some r =>
      (s.issueDrive d r).modDest d fun x =>
        { x with
          arb :=
            { x.arb with
              rotation := x.arb.rotation.filter (· ≠ w) ++ x.arb.rotation.filter (· = w)
              grants := min 3 (x.arb.grants + 1) } }
  | .readLane =>
    match (s.dest d).rl.active with
    | some ⟨step, some cmd, retries⟩ =>
      (s.issueDrive d ⟨cmd, .readLane⟩).modDest d fun x =>
        { x with arb := { x.arb with grants := 0 }, rl := { x.rl with active := some ⟨step, none, retries⟩ } }
    | _ => s

/-- One arbiter's selection and its grant (R99–R103). -/
def arbitrate (s : State) (d : DestNo) : State :=
  match s.select d with
  | none => s
  | some g => s.carryGrant d g

/-- The arbiter of `d` takes its reset state (R111). -/
def resetArbiter (d : DestNo) (s : State) : State := s.modDest d fun x => { x with arb := Arbiter.reset }

/-! ## Read lanes -/

/-- The READ of unit `k` of a copy's window (R113, R116). -/
def unitReadCmd (b : Binding) (w : Window) (length k : Nat) : DriveCmd :=
  { kind := .read, lba := b.unitLba (w.first + k), count := sectorsOf (unitByteCount length k), data := [] }

/-- The READ of a copy's trailer (R113). -/
def trailerReadCmd (b : Binding) (t : Nat) : DriveCmd :=
  { kind := .read, lba := b.trailerLba t, count := 1, data := [] }

/-- The FLUSH of a VERIFY job (R113). -/
def flushCmd : DriveCmd := { kind := .flush, lba := 0, count := 0, data := [] }

/-- The READ of unit `k` of the copy of clip `c` on `e`, through the binding in force (R83, R113, R116). -/
def formUnitRead (s : State) (e : DestNo) (c k : Nat) : Option DriveCmd := do
  let x ← s.clip? c
  let copy ← x.copies[e]
  let b ← (s.dest e).binding
  let w ← copy.window
  some (unitReadCmd b w x.length k)

/-- The READ of the trailer of the copy of clip `c` on `e` (R113). -/
def formTrailerRead (s : State) (e : DestNo) (c : Nat) : Option DriveCmd := do
  let copy ← s.copy? c e
  let b ← (s.dest e).binding
  let t ← copy.trailer
  some (trailerReadCmd b t)

/-- A read lane's active job set. -/
def setActive (e : DestNo) (a : Option ActiveRead) (s : State) : State :=
  s.modDest e fun x => { x with rl := { x.rl with active := a } }

/-- The head of a read lane's list becomes the active job when there is none, and forms its first request; a VERIFY
job makes its copy VERIFYING (R112, R113, R116). -/
def activateRead (e : DestNo) (s : State) : State :=
  if (s.dest e).rl.active.isSome then s
  else match (s.dest e).rl.jobs with
    | [] => s
    | .verify c :: _ =>
      (s.setActive e (some ⟨.flush, some flushCmd, 0⟩)).modCopy c e fun k => { k with state := .verifying }
    | .supply c k _ _ :: _ => s.setActive e (some ⟨.supply, s.formUnitRead e c k, 0⟩)

/-- A read job appended to the tail of a read lane (R112). -/
def appendRead (e : DestNo) (job : ReadJob) (s : State) : State :=
  (s.modDest e fun x => { x with rl := { x.rl with jobs := x.rl.jobs ++ [job] } }).activateRead e

/-- The active job of a read lane ends and leaves the list; the next becomes active (R112). -/
def endRead (e : DestNo) (s : State) : State :=
  (s.modDest e fun x => { x with rl := { jobs := x.rl.jobs.tail, active := none, sum := none } }).activateRead e

/-- The read jobs `gone` withdrawn from a read lane.  When the active job is among them its formed request and its
running sums are discarded and a request it has outstanding becomes abandoned; the next job becomes active (R110,
R112, R115, R116). -/
def withdrawJobs (gone : ReadJob → Bool) (e : DestNo) (s : State) : State :=
  let activeGone := (s.dest e).rl.active.isSome && (s.dest e).rl.jobs.head?.any gone
  let s' := s.modDest e fun x =>
    { x with
      rl :=
        { jobs := x.rl.jobs.filter fun r => !gone r
          active := if activeGone then none else x.rl.active
          sum := if activeGone then none else x.rl.sum }
      abandoned :=
        x.abandoned || (activeGone && x.outstanding.any fun r => decide (r.serves = .readLane)) }
  s'.activateRead e

end State

end Sys2Proof.Machine
end

