-- ==== Sys2Proof/Machine/Sums.lean ====
section
/-! DEFINITION. Machine/Sums.lean: the clip sum (R45–R49). -/

namespace Sys2Proof.Machine

/-- The word of four clip bytes, the first least significant (R45). -/
def sumWord (b0 b1 b2 b3 : Byte) : Nat :=
  b0.toNat + 256 * b1.toNat + 65536 * b2.toNat + 16777216 * b3.toNat

/-- One word into the two accumulators (R46). -/
def Sums.step (x : Sums) (w : Nat) : Sums :=
  let s1 := (x.s1 + w) % modulus
  ⟨s1, (x.s2 + s1) % modulus⟩

/-- A run of clip bytes into the accumulators, four at a time; an incomplete last group is completed with zero bytes
(R45, R49). -/
def Sums.feed (x : Sums) : List Byte → Sums
  | [] => x
  | [b0] => x.step (sumWord b0 0 0 0)
  | [b0, b1] => x.step (sumWord b0 b1 0 0)
  | [b0, b1, b2] => x.step (sumWord b0 b1 b2 0)
  | b0 :: b1 :: b2 :: b3 :: bs => Sums.feed (x.step (sumWord b0 b1 b2 b3)) bs

/-- The closed sum of a clip of `length` bytes (R47): S2 rotated left by `length` mod 32, exclusive-or S1. -/
def Sums.close (x : Sums) (length : Nat) : ClosedSum :=
  ⟨x.s1, x.s2, ((BitVec.ofNat 32 x.s2).rotateLeft (length % 32)) ^^^ BitVec.ofNat 32 x.s1⟩

/-- The agreement of two closed sums of one clip, that is of equal L (R48); F does not enter it. -/
def ClosedSum.agrees (a b : ClosedSum) : Bool := decide (a.s1 = b.s1) && decide (a.s2 = b.s2)

/-- A sum unit started for a clip (R49). -/
def SumUnit.start (length : Nat) : SumUnit := { length := length, sums := Sums.start, taken := 0 }

/-- A sum unit handed clip bytes; it takes no byte past its clip's length (R49). -/
def SumUnit.feed (u : SumUnit) (bs : List Byte) : SumUnit :=
  let mine := bs.take (u.length - u.taken)
  { u with sums := u.sums.feed mine, taken := u.taken + mine.length }

/-- The closed sum of a sum unit (R47, R49). -/
def SumUnit.close (u : SumUnit) : ClosedSum := u.sums.close u.length

end Sys2Proof.Machine
end

