-- ==== Sys2Proof/Machine/Copies.lean ====
section
/-! DEFINITION. Machine/Copies.lean: the operations on copies the cascades share.

Allocation (R87–R89), plan copies (R34), staging (R67, R68), the withdrawal of a copy's work from every block (R70,
R110, R115, R126), and the manifest's records (R143, R144). -/

namespace Sys2Proof.Machine

/-- A copy subrecord as it is created or reset, but for its state (R12). -/
def Copy.fresh (state : CopyState) (origin : Origin) (attempt : Nat) : Copy :=
  { state := state, origin := origin, attempt := attempt, window := none, trailer := none, written := 0,
    suspended := false, readback := none }

/-! ## Allocation (R87–R89) -/

/-- The outcome of an allocation. -/
inductive Alloc where
  /-- The window and trailer index given. -/
  | placed (w : Window) (t : Nat)
  /-- No room; `fills` when the destination becomes FULL by it. -/
  | noRoom (fills : Bool)
  deriving DecidableEq, Repr

/-- The allocation test of a first attempt (R88) or a repair (R89) of a clip of `n` units. -/
def DestPort.allocate (x : DestPort) (attempt n : Nat) : Alloc :=
  match x.binding with
  | none => .noRoom false
  | some b =>
    if attempt = 1 then
      if x.state = .full then .noRoom false
      else if b.nextUnit + n ≤ b.ceiling ∧ b.nextTrailer < b.strip then .placed ⟨b.nextUnit, n⟩ b.nextTrailer
      else .noRoom true
    else if b.dataUnits < b.nextUnit + n then .noRoom false
    else if b.nextTrailer < b.strip then .placed ⟨b.nextUnit, n⟩ b.nextTrailer
    else .noRoom (decide (x.state = .active))

namespace State

/-- A placed allocation recorded: the pointers move on and the copy becomes WRITING in its window (R87). -/
def place (d : DestNo) (c : Nat) (w : Window) (t : Nat) (s : State) : State :=
  (s.modDest d fun x =>
      { x with
        binding := x.binding.map fun b => { b with nextUnit := b.nextUnit + w.count, nextTrailer := b.nextTrailer + 1 } }).modCopy
    c d fun k => { k with state := .writing, window := some w, trailer := some t, written := 0 }

/-- A destination that found no room for a copy of clip `c` becomes FULL and raises DEST_FULL (R88, R89). -/
def fillDest (d : DestNo) (c : Nat) (s : State) : State :=
  (s.moveDest d fun x => { x with state := .full }).raise
    { cls := .destFull, job := (s.clip? c).map (·.job), clip := some c, dest := some d, port := none,
      detail := .noRoom }

/-- A plan copy of clip `c` created on an ACTIVE mirror and allocated (R34, R88). -/
def planCopy (c : Nat) (s : State) (d : DestNo) : State :=
  let n := unitCount ((s.clip? c).elim 0 (·.length))
  let s' := s.setCopy c d (Copy.fresh .noSpace .plan 1)
  match (s.dest d).allocate 1 n with
  | .placed w t => s'.place d c w t
  | .noRoom true => s'.fillDest d c
  | .noRoom false => s'

/-! ## Staging (R67, R68) -/

/-- The destinations of a clip's plan copies still being written (R67). -/
def planWriting (s : State) (c : Nat) : List DestNo :=
  match s.clip? c with
  | none => []
  | some x => x.destsWith fun k => decide (k.origin = .plan ∧ k.state = .writing)

/-- An item of a clip appended to its job's write queue at each of the destinations, in ascending order (R67). -/
def queueAtEach (c : Nat) (kind : ItemKind) (ds : List DestNo) (s : State) : State :=
  match s.clip? c with
  | none => s
  | some x => ds.foldl (fun s d => s.queueItem d (.wq x.job) (Item.new c kind)) s

/-- A slot STAGED with its pending set (R67, R68). -/
def stageSlot (n : Nat) (pending : List DestNo) (s : State) : State :=
  s.modSlot n fun x => { x with state := .staged, pending := pending }

/-- The trailer items of a clip's plan copies queued behind their last data item (R34, R37). -/
def queueTrailers (c : Nat) (s : State) : State := s.queueAtEach c .trailer (s.planWriting c)

/-! ## Withdrawal of a copy's work (R70) -/

/-- Has the catch-up lane `d` an item for slot `n` in CQ? -/
def laneNames (s : State) (d : DestNo) (n : Nat) : Bool := (s.dest d).cq.any (·.names n)

/-- Is a held slot left without a destination or an item: STAGED with an empty pending set, or FILLING for a lane
that holds no item for it (R58, R66, R70)? -/
def orphaned (s : State) (n : Nat) (x : Slot) : Bool :=
  match x.state, x.owner with
  | .staged, _ => x.pending.isEmpty
  | .filling, .lane d => !s.laneNames d n
  | .filling, .job _ => false

/-- The slots that stand without a destination or an item, in ascending order (R64, R70). -/
def orphans (s : State) : List Nat := (s.ring.held.filter fun (n, x) => s.orphaned n x).map Prod.fst

/-- The slots that a withdrawal made since `before` is to free, in ascending order: those it has left without a
destination or an item.  A slot an earlier withdrawal of the event left so is freed by that one (R64, R70). -/
def orphansSince (s before : State) : List Nat := s.orphans.filter fun n => !before.orphans.contains n

/-- Does reader work supply the copy of clip `c` on `d` (R32)? -/
def suppliesCopy (c : Nat) (d : DestNo) : ReaderWork → Bool
  | .supply d' _ c' _ _ => decide (d' = d ∧ c' = c)
  | .job _ _ _ => false
  | .sector _ _ => false

/-- Does a read job of destination `e` serve the copy of clip `c` on `d`: its VERIFY job there, or a SUPPLY job for
it anywhere (R112)? -/
def readsForCopy (c : Nat) (d e : DestNo) : ReadJob → Bool
  | .verify c' => decide (c' = c ∧ e = d)
  | .supply c' _ _ asker => decide (c' = c ∧ asker = d)

/-- Is a drive request a write of the copy of clip `c`? -/
def writesClip (c : Nat) (r : DriveRequest) : Bool :=
  match r.serves with
  | .data _ c' _ _ => decide (c' = c)
  | .trailer _ c' _ => decide (c' = c)
  | .readLane => false

/-- Destination `d` leaves the pending set of every STAGED slot of clip `c` (R70). -/
def leavePending (c : Nat) (d : DestNo) (s : State) : State :=
  { s with
    ring :=
      { s.ring with
        held := Table.mapAll
          (fun _ x => if x.clip = c ∧ x.state = .staged then { x with pending := destErase d x.pending } else x)
          s.ring.held } }

/-- The items of the copy of clip `c` leave the write queues of `d`, a lock held for its trailer ends, and a write
outstanding for it becomes abandoned (R70, R78, R105). -/
def leaveQueues (c : Nat) (d : DestNo) (s : State) : State :=
  s.modDest d fun x =>
    { x with
      wq := x.wq.map fun q => q.filter (·.clip ≠ c)
      cq := x.cq.filter (·.clip ≠ c)
      arb := { x.arb with lock := x.arb.lock.filter (·.2 ≠ c) }
      abandoned := x.abandoned || x.outstanding.any (writesClip c) }

/-- A lane with its current copy given up: no standing request, no running sum, no mark (R124, R126). -/
def dropCurrent (l : Lane) : Lane :=
  { l with current := none, standing := none, sum := none, cardOnly := false }

/-- The copy of clip `c` leaves the catch-up lane of `d`; a current copy takes the lane's standing request and its place
on the slot wait list with it (R63, R126). -/
def leaveLane (c : Nat) (d : DestNo) (s : State) : State :=
  let wasCurrent := decide ((s.dest d).lane.current = some c)
  let s' := s.modLane d fun l =>
    let l' := { l with copies := l.copies.filter (· ≠ c) }
    if wasCurrent then dropCurrent l' else l'
  if wasCurrent then s'.leaveWait (.lane d) else s'

/-- The supply work of the copy of clip `c` on `d`, and its VERIFY job, withdrawn from every card port and read lane
(R24, R115, R116). -/
def leaveReaders (c : Nat) (d : DestNo) (s : State) : State :=
  let s' := allPorts.foldl (fun s p => s.withdrawReads (suppliesCopy c d) p) s
  allDests.foldl (fun s e => s.withdrawJobs (readsForCopy c d e) e) s'

/-- All work of the copy of clip `c` on `d` withdrawn (R70, R110, R126).  The slots left without a destination are
freed after it (`orphansSince`). -/
def withdrawCopy (c : Nat) (d : DestNo) (s : State) : State :=
  ((((s.leavePending c d).leaveQueues c d).leaveLane c d).leaveReaders c d)

/-- A live copy aborted and its work withdrawn; any other copy is left as it is (R11, R13, R70). -/
def abortCopy (c : Nat) (s : State) (d : DestNo) : State :=
  match s.copy? c d with
  | none => s
  | some k =>
    if k.state.live then (s.modCopy c d fun k => { k with state := .aborted }).withdrawCopy c d else s

/-- Every live copy of a clip aborted, in ascending destination number (R11, R16, R39). -/
def abortCopies (c : Nat) (s : State) : State := allDests.foldl (abortCopy c) s

/-! ## The catch-up lanes (R68, R120, R122) -/

/-- A copy joins the tail of its destination's catch-up lane; the lane holds each copy at most once (R120). -/
def joinLane (c : Nat) (d : DestNo) (s : State) : State :=
  s.modLane d fun l => if l.copies.contains c then l else { l with copies := l.copies ++ [c] }

/-- The lanes that hold a copy of clip `c` (R120). -/
def lanesWith (s : State) (c : Nat) : List DestNo := allDests.filter fun d => (s.dest d).lane.copies.contains c

/-- The lowest-numbered STAGED slot that holds unit `k` of clip `c` and whose pending set lacks `d` (R71).  A slot
with an empty pending set is being freed and is not taken. -/
def stagedFor (s : State) (d : DestNo) (c k : Nat) : Option Nat :=
  (s.ring.held.find? fun (_, x) =>
      decide (x.state = .staged ∧ x.clip = c ∧ x.unit = k) && !x.pending.isEmpty
        && !x.pending.contains d).map Prod.fst

/-- The lowest-numbered ACTIVE destination other than `d`, and none of `not`, with a VERIFIED copy of clip `c` (R122,
R123). -/
def verifiedSource (s : State) (d : DestNo) (c : Nat) (not : List DestNo) : Option DestNo :=
  match s.clip? c with
  | none => none
  | some x =>
    (x.destsWith fun k => decide (k.state = .verified)).find? fun e =>
      decide (e ≠ d) && s.isActive e && !not.contains e

/-- The port bound to the job of clip `c` (R41, R122). -/
def portFor (s : State) (c : Nat) : Option PortNo := (s.clip? c).bind fun x => (s.job x.job).boundPort

/-- A slot given to lane `d` for unit `k` of its current copy: the standing request ends, the item joins CQ, not ready,
and the lane goes on to the next unit (R62, R68, R122). -/
def giveToLane (d : DestNo) (c k : Nat) (s : State) : Option (Nat × State) :=
  match s.giveSlot (.lane d) c k with
  | none => none
  | some (n, s') =>
    some (n, (s'.modLane d fun l => { l with standing := none, nextUnit := k + 1 }).queueItem d .cq (Item.new c (.data n)))

/-! ## The manifest (R143, R144) -/

/-- The manifest record of a settled clip as it stands (R143). -/
def formRecord (s : State) (c : Nat) (x : Clip) : Record :=
  let secured := decide (x.state = .secured)
  { kind := if secured then .secured else .excluded
    clip := c
    job := x.job
    identity := (s.job x.job).identity.getD ⟨0, 0⟩
    length := x.length
    token := x.token
    sum := x.sum
    prior := if secured then none else x.prior
    unstable := if secured then some x.unstable else none
    copies := x.copies.map fun k => k.map fun k => ⟨k.state, k.attempt, k.window, k.trailer⟩
    detached := false }

/-- A clip's record formed and appended to the tail of the queue; the clip becomes QUEUED (R144, R145). -/
def enqueueRecord (c : Nat) (s : State) : State :=
  match s.clip? c with
  | none => s
  | some x =>
    ({ s with manifest := { s.manifest with queue := s.manifest.queue ++ [s.formRecord c x] } }).setClip c
      { x with mstatus := .queued }

/-- A settled clip emits its record: into the queue when it has room, with MANIFEST_WAITING when it was empty, else the
clip is deferred (R144, R148). -/
def emitRecord (c : Nat) (s : State) : State :=
  if s.manifest.queue.length < manifestPlaces then
    let s' := s.enqueueRecord c
    if s.manifest.queue.isEmpty then s'.notify .manifestWaiting else s'
  else
    ({ s with manifest := { s.manifest with deferred := s.manifest.deferred ++ [c] } }).modClip c fun x =>
      { x with mstatus := .deferred }

end State

end Sys2Proof.Machine
end

