-- ==== Sys2Proof/Machine/Event.lean ====
section
/-! DEFINITION. Machine/Event.lean: what one event sets in motion.

An event of the manual is whole and indivisible, yet one effect brings on another: a freed slot serves a waiting
requester, a failed copy becomes a repair its lane takes up, a suspended copy may leave its job HELD.  Each such
effect is a `Task`.  A task changes the state and names the tasks that follow it at once (`now`) and those that wait
until the rest of the event is done (`later`: the catch-up lanes going on to their next unit, which R65 calls a later
event).  `runTasks` works them off in order; lamps follow after every task (R164), and before the next, and when none
is left, the arbiters select and the reader links issue (R32, R99).  notes/assumptions/3.md, 8.md and 9.md give the order's
ground. -/

namespace Sys2Proof.Machine

/-- The effects that follow from other effects. -/
inductive Task where
  /-- Slots freed in turn, each followed by the service of R65 (R64). -/
  | freeSlots (ns : List Nat)
  /-- The head of the slot wait list served (R65, first step). -/
  | serveWaiting
  /-- A former owner held at its limit asks again (R65, second step). -/
  | askAgain (r : Requester)
  /-- A job goes on at a unit boundary (R34, R36, R38, R40). -/
  | proceed (j : JobNo)
  /-- The end of a clip's start: the first unit, or a clip of length 0 READ at once (R34). -/
  | clipStarted (j : JobNo) (c : Nat)
  /-- The boundary at the end of a clip's read (R37, R40). -/
  | readEnded (j : JobNo)
  /-- The end of a job's reading (R40). -/
  | toDraining (j : JobNo)
  /-- A copy aborted (R70). -/
  | abort (c : Nat) (d : DestNo)
  /-- A repair found no room; `fills` when its destination becomes FULL by it (R89, R119). -/
  | failRepair (c : Nat) (d : DestNo) (fills : Bool)
  /-- A copy becomes a repair and joins its lane (R118). -/
  | requeue (c : Nat) (d : DestNo)
  /-- Spare enlistment for a clip (R128). -/
  | enlist (c : Nat)
  /-- The securing check of a clip (R130). -/
  | secure (c : Nat)
  /-- The suspended copies of a clip rejoin their lanes (R117, R124). -/
  | rejoin (c : Nat)
  /-- The settling check of a job (R131). -/
  | settle (j : JobNo)
  /-- The release check of a job (R149). -/
  | release (j : JobNo)
  /-- A catch-up lane goes on (R120–R122, R125). -/
  | laneGo (d : DestNo)
  /-- A source tells lane `d` that it cannot supply the unit of slot `n` (R41, R116, R123). -/
  | cannotSupply (d : DestNo) (n c k : Nat) (src : Source)
  /-- A copy suspended for want of a source (R124). -/
  | suspend (c : Nat) (d : DestNo)
  /-- A fault occurrence (R153). -/
  | raise (o : Occurrence)
  /-- A destination becomes FULL (R88, R89). -/
  | fillDest (d : DestNo) (c : Nat)
  /-- A SECTOR_READ answered (R29, R30, R33). -/
  | answer (e : EntryNo) (st : Status) (payload : List Byte)
  /-- The card of a RUNNING or PAUSED job gone: the slot it was filling is freed (R31). -/
  | pull (j : JobNo) (p : PortNo)
  /-- The rest of R31: the rollback, PULLED and CARD_PULLED. -/
  | pulled (j : JobNo) (p : PortNo)
  /-- A settled clip emits its manifest record (R144). -/
  | emit (c : Nat)
  /-- A card newly identified arrives at an EMPTY port (R26, R27). -/
  | arrive (p : PortNo) (identity : Identity)
  /-- What follows when a card binds to its job (R28). -/
  | boundTo (j : JobNo)
  /-- The last steps of a destination's entry to LOST (R94). -/
  | lostEnd (d : DestNo) (detail : Detail)
  /-- A card gone from a port that is not BOUND: the port stands EMPTY (R29). -/
  | depart (p : PortNo)
  /-- The capacity of a new drive recorded after the loss of the old one (R80). -/
  | newDrive (d : DestNo) (capacity : Nat)
  /-- A change announced after the effects its rule puts before it (R163). -/
  | announce (n : Notice)
  /-- The last steps of a job's abandonment (R11). -/
  | abandoned (j : JobNo) (p : Option PortNo)
  deriving DecidableEq, Repr

/-- A state with the tasks that follow: at once, and when the rest of the event is done. -/
structure Work where
  state : State
  now   : List Task
  later : List Task
  deriving DecidableEq, Repr

/-- Nothing follows. -/
def State.still (s : State) : Work := ⟨s, [], []⟩

/-- These tasks follow at once. -/
def State.andNow (s : State) (ts : List Task) : Work := ⟨s, ts, []⟩

/-- The job of a clip, where its record is in use. -/
def State.jobOfClip (s : State) (c : Nat) : Option JobNo := (s.clip? c).map (·.job)

/-- The settling check of a clip's job (R131). -/
def State.settleOf (s : State) (c : Nat) : List Task := (s.jobOfClip c).toList.map .settle

/-! ## The ring -/

/-- A requester served or asking with its limit not reached: a job for the unit at its read position, a lane for its
standing request.  The lane acts on its source as it then stands, and goes on later (R62, R65, R122). -/
def State.fillForLane (d : DestNo) (n c k : Nat) (src : Source) (s : State) : Work :=
  match src with
  | .card =>
    match s.portFor c, s.clip? c with
    | some p, some x => (s.queuePieces p (.supply d x.job c k n) (unitPieces x k)).still
    | _, _ => s.andNow [.cannotSupply d n c k .card]
  | .dest e =>
    if s.isActive e then (s.appendRead e (.supply c k n d)).still
    else s.andNow [.cannotSupply d n c k (.dest e)]

/-- A lane's request for a slot for unit `k` from source `src` (R62): given, waiting on the list, or waiting at its
limit of 8. -/
def State.askForLane (d : DestNo) (c k : Nat) (src : Source) (s : State) : Work :=
  let waiting := s.modLane d fun l => { l with standing := some (k, src) }
  if laneLimit ≤ (s.dest d).lane.held then waiting.still
  else match s.giveToLane d c k with
    | some (n, s') => s'.fillForLane d n c k src
    | none => (waiting.joinWait (.lane d)).still

/-- Slots freed in turn; R65 follows each (R64). -/
def runFreeSlots (ns : List Nat) (s : State) : Work :=
  match ns with
  | [] => s.still
  | n :: rest =>
    match s.slot? n with
    | none => s.andNow [.freeSlots rest]
    | some x =>
      (s.freeSlot n).andNow
        (.serveWaiting :: (if s.heldAtLimit x.owner then [.askAgain x.owner] else []) ++ [.freeSlots rest])

/-- A requester asks, or is served, with the request it has (R61, R62, R65).  A lane so served reads the unit into the
slot at once and goes on to its next unit later. -/
def askFor (r : Requester) (s : State) : Work :=
  match r with
  | .job j => (s.askForJob j).still
  | .lane d =>
    match (s.dest d).lane.current, (s.dest d).lane.standing with
    | some c, some (k, src) =>
      let w := s.askForLane d c k src
      ⟨w.state, w.now, [.laneGo d]⟩
    | _, _ => s.still

/-- The head of the slot wait list is removed and served (R65). -/
def runServeWaiting (s : State) : Work :=
  match s.ring.waitList with
  | [] => s.still
  | r :: _ => askFor r (s.leaveWait r)

/-! ## Reading -/

/-- A clip starts (R34): READING, its plan copies created on the ACTIVE mirrors of the snapshot, then spare
enlistment.  DESIGN CHOICE: over the mirrors in ascending port number, an order R34 and R141 do not give; two mirrors
that fill in one start raise DEST_FULL in it (notes/assumptions/35.md). -/
def startClip (j : JobNo) (c : Nat) (s : State) : Work :=
  let mirrors := ((s.job j).snapshot.elim [] (·.mirrors)).filter s.isActive
  let s1 := (s.modClip c fun x => { x with state := .reading }).modJob j fun x =>
    { x with live := Sums.start, summed := 0 }
  (mirrors.foldl (State.planCopy c) s1).andNow [.enlist c, .clipStarted j c]

/-- A RUNNING job at a unit boundary: a pending pause takes effect, a READING clip asks for a slot, the next LISTED
clip starts, or reading ends (R34, R36, R38, R40). -/
def runProceed (j : JobNo) (s : State) : Work :=
  if (s.job j).state = .running && s.atBoundary j && !s.ring.waitList.contains (.job j) then
    if (s.job j).pausePending then (s.pauseNow j).still
    else
      let c := s.clipAtRead j
      if c.bind s.clipState? = some .reading then (s.askForJob j).still
      else
        let s' := if c.bind s.clipState? = some .listed then s else s.standAtFirst j
        match s'.clipAtRead j with
        | some c => startClip j c s'
        | none => s'.andNow [.toDraining j]
  else s.still

/-- A clip becomes READ with its source sum, and its waiting copies may proceed in their lanes (R34, R37). -/
def recordSum (c : Nat) (sum : ClosedSum) (s : State) : State :=
  s.modClip c fun x => { x with state := .read, sum := some sum }

/-- The end of a clip's start: a clip of length 0 becomes READ at once (R34, R50). -/
def runClipStarted (j : JobNo) (c : Nat) (s : State) : Work :=
  match s.clip? c with
  | none => s.still
  | some x =>
    if x.length = 0 then
      let s' := ((recordSum c (Sums.start.close 0) s).queueTrailers c).standAtFirst j
      ⟨s', [.readEnded j], (s.lanesWith c).map .laneGo⟩
    else s.andNow [.proceed j]

/-- The boundary at the end of a clip's read: RUNNING is left when no clip is LISTED (R37, R40). -/
def runReadEnded (j : JobNo) (s : State) : Work :=
  if (s.job j).state = .running then
    if s.anyListed j then s.andNow [.proceed j] else s.andNow [.toDraining j]
  else s.still

/-- A job goes to DRAINING: its read position stands past the list, the pause flag is cleared, the pause cause is absent,
and the settling check follows (R40). -/
def runToDraining (j : JobNo) (s : State) : Work :=
  ((s.standAt j (s.job j).clips.length).moveJob j fun x =>
      { x with state := .draining, pausePending := false, pauseCause := none, resumeTarget := none }).andNow
    [.settle j]

/-- A unit ends: the read position and checkpoint move on, the slot is staged or freed, and after the clip's last unit
its sum is recorded and the trailer items follow (R37, R67). -/
def endUnit (j : JobNo) (n c k : Nat) (s : State) : Work :=
  match s.clip? c with
  | none => s.still
  | some x =>
    let last := decide (unitCount x.length ≤ k + 1)
    let s1 :=
      if last then (recordSum c ((s.job j).live.close x.length) s).standAtFirst j
      else
        s.modJob j fun y =>
          { y with readPos := ⟨y.readPos.clip, k + 1⟩, checkpoint := ⟨⟨y.readPos.clip, k + 1⟩, y.live⟩ }
    let ds := s1.planWriting c
    let after : Task := if last then .readEnded j else .proceed j
    let lanes := if last then (s.lanesWith c).map Task.laneGo else []
    if ds.isEmpty then ⟨s1, [.freeSlots [n], after], lanes⟩
    else
      let s2 := (s1.stageSlot n ds).queueAtEach c (.data n) ds
      ⟨if last then s2.queueTrailers c else s2, [after], lanes⟩

/-- A clip becomes SOURCE_FAULT: the unit's pieces leave the FIFO, the FILLING slot is freed, every live copy is aborted,
and reading moves on (R39). -/
def runSourceFault (j : JobNo) (c : Nat) (s : State) : Work :=
  let gone : ReaderWork → Bool
    | .job j' _ _ => decide (j' = j)
    | .supply _ _ _ _ _ => false
    | .sector _ _ => false
  let s1 := s.modClip c fun x => { x with state := .sourceFault }
  let s2 := (s.job j).boundPort.elim s1 fun p => s1.withdrawReads gone p
  let lanes := (s.lanesWith c).map Task.laneGo
  let s3 := s2.abortCopies c
  let own := s3.fillingOf (.job j)
  let freed := (s3.ring.held.map Prod.fst).filter fun n => (s3.orphansSince s).contains n || decide (own = some n)
  ⟨s3.standAtFirst j, [.freeSlots freed, .readEnded j], lanes⟩

/-! ## Copies -/

/-- A copy aborted, the slots it leaves freed, its lane going on (R70, R126). -/
def runAbort (c : Nat) (d : DestNo) (s : State) : Work :=
  let s' := s.abortCopy c d
  ⟨s', [.freeSlots (s'.orphansSince s)], [.laneGo d]⟩

/-- The occurrence of a failed attempt (R118, R119, R152). -/
def copyFault (cls : FaultClass) (c : Nat) (d : DestNo) (detail : Detail) (s : State) : Occurrence :=
  { cls := cls, job := s.jobOfClip c, clip := some c, dest := some d, port := none, detail := detail }

/-- A failed attempt: attempt 1 becomes a repair (R118); attempt 2 leaves the copy FAILED and runs spare enlistment
(R119). -/
def runFailAttempt (c : Nat) (d : DestNo) (detail : Detail) (s : State) : Work :=
  match s.copy? c d with
  | none => s.still
  | some k =>
    if k.state.live then
      if k.attempt = 1 then
        let s' := s.withdrawCopy c d
        ⟨s', [.freeSlots (s'.orphansSince s), .raise (copyFault .copyRepair c d detail s), .requeue c d], []⟩
      else
        let s' := (s.modCopy c d fun k => { k with state := .failed }).withdrawCopy c d
        ⟨s', [.freeSlots (s'.orphansSince s), .raise (copyFault .copyFailed c d detail s), .enlist c], [.laneGo d]⟩
    else s.still

/-- A repair that cannot be placed fails as an attempt 2 with detail no room; when no trailer is left an ACTIVE
destination also becomes FULL (R89, R119). -/
def runFailRepair (c : Nat) (d : DestNo) (fills : Bool) (s : State) : Work :=
  let s' := (s.modCopy c d fun k => { k with state := .failed }).withdrawCopy c d
  ⟨s', [.freeSlots (s'.orphansSince s), .raise (copyFault .copyFailed c d .noRoom s)]
        ++ (if fills then [.fillDest d c] else []) ++ [.enlist c], [.laneGo d]⟩

/-- A copy becomes a repair, QUEUED with attempt 2, and joins the tail of its lane (R12, R118). -/
def runRequeue (c : Nat) (d : DestNo) (s : State) : Work :=
  match s.copy? c d with
  | none => s.still
  | some _ => ⟨(s.setCopy c d (Copy.fresh .queued .repair 2)).joinLane c d, s.settleOf c, [.laneGo d]⟩

/-- May spare enlistment take destination `d` for clip `x` (R128)? -/
def mayEnlist (s : State) (x : Clip) (d : DestNo) : Bool :=
  s.isActive d
    && match x.copies[d] with
      | none => true
      | some k => decide (k.state = .noSpace ∨ k.state = .failed ∨ k.state = .aborted)

/-- One step of spare enlistment at a spare destination, taken when the clip is still short of R (R128). -/
def enlistAt (c r : Nat) (s : State) (d : DestNo) : State :=
  match s.clip? c with
  | none => s
  | some x =>
    if x.liveOrVerified < r && mayEnlist s x d then
      (s.setCopy c d (Copy.fresh .queued .spare 1)).joinLane c d
    else s

/-- Spare enlistment for a READING or READ clip, and the settling check after it (R128). -/
def runEnlist (c : Nat) (s : State) : Work :=
  match s.clip? c with
  | none => s.still
  | some x =>
    match (s.job x.job).snapshot with
    | none => s.still
    | some snap =>
      if x.state = .reading ∨ x.state = .read then
        ⟨snap.spares.foldl (enlistAt c snap.r) s, [.settle x.job], snap.spares.map .laneGo⟩
      else s.andNow [.settle x.job]

/-- The securing check: a READ clip with at least R VERIFIED copies becomes SECURED and emits its record (R130). -/
def runSecure (c : Nat) (s : State) : Work :=
  match s.clip? c with
  | none => s.still
  | some x =>
    match (s.job x.job).snapshot with
    | none => s.still
    | some snap =>
      if x.state = .read ∧ snap.r ≤ x.verifiedCount then
        ((s.setClip c { x with state := .secured }).emitRecord c).still
      else s.still

/-- A suspended copy rejoins its lane (R124). -/
def rejoinAt (c : Nat) (s : State) (d : DestNo) : State :=
  match s.copy? c d with
  | none => s
  | some k =>
    if k.suspended && k.state.live then
      (s.modCopy c d fun k => { k with suspended := false }).joinLane c d
    else s

/-- The suspended copies of a clip rejoin their lanes (R117, R124). -/
def runRejoin (c : Nat) (s : State) : Work := ⟨allDests.foldl (rejoinAt c) s, [], allDests.map .laneGo⟩

/-- The settling check (R131). -/
def runSettle (j : JobNo) (s : State) : Work :=
  let st := (s.job j).state
  if st = .draining ∨ st = .held then
    if (s.job j).clips.all fun c => (s.clipState? c).any ClipState.settled then
      (s.moveJob j fun x => { x with state := .reporting }).andNow [.release j]
    else if st = .draining ∧ !s.hasMovingCopy j then (s.moveJob j fun x => { x with state := .held }).still
    else if st = .held ∧ s.hasMovingCopy j then (s.moveJob j fun x => { x with state := .draining }).still
    else s.still
  else s.still

/-- The release check: a REPORTING job whose clips are all TAKEN becomes RELEASED, and the released-identity memory of
its bound port takes the card identity (R149, R150).  No clip of a job so released is DEFERRED or QUEUED, nor is one
excluded in the same event whose record is still to be emitted. -/
def runRelease (j : JobNo) (s : State) : Work :=
  let waiting := (s.job j).clips.any fun c => (s.clip? c).any fun x => decide (x.mstatus ≠ .taken)
  if (s.job j).state = .reporting ∧ !waiting then
    let s' := s.moveJob j fun x => { x with state := .released }
    ((s.job j).boundPort.elim s' fun p => s'.modPort p fun x => { x with released := (s.job j).identity }).still
  else s.still

/-! ## The catch-up lanes -/

/-- The CQ items of clip `c` from the first one whose slot is FILLING on, and the items that stay (R124). -/
def cutItems (c : Nat) (filling : Nat → Bool) : List Item → List Item × List Item
  | [] => ([], [])
  | i :: is =>
    let cutsHere := decide (i.clip = c) && match i.kind with
      | .data n => filling n
      | .trailer => false
    if cutsHere then (i :: is.filter (fun i => decide (i.clip = c)), is.filter fun i => decide (i.clip ≠ c))
    else
      let (cut, kept) := cutItems c filling is
      (cut, i :: kept)

/-- Is slot `n` FILLING? -/
def State.isFilling (s : State) (n : Nat) : Bool := (s.slot? n).any fun x => decide (x.state = .filling)

/-- Destination `d` leaves the pending set of the slot an item names (R124). -/
def leaveSlotOf (d : DestNo) (s : State) (i : Item) : State :=
  match i.kind with
  | .data n => s.modSlot n fun x => { x with pending := destErase d x.pending }
  | .trailer => s

/-- A copy suspended: it leaves the lane, its items are cut back to the first FILLING one, the slots cut off are released
or left, and the lane takes its next copy (R124). -/
def runSuspend (c : Nat) (d : DestNo) (s : State) : Work :=
  let parts := cutItems c s.isFilling (s.dest d).cq
  let s1 := (s.modCopy c d fun k => { k with suspended := true }).leaveLane c d
  let s2 := s1.modDest d fun x => { x with cq := parts.2 }
  let s3 := (parts.1.foldl (leaveSlotOf d) s2).leaveReaders c d
  s3.andNow ([.freeSlots (s3.orphansSince s)] ++ s.settleOf c ++ [.laneGo d])

/-- A source cannot supply the unit of slot `n`: it is excluded for the unit, and the unit is sourced again into the same
slot, from the card, else from a VERIFIED copy; with neither, the copy is suspended (R123). -/
def runCannotSupply (d : DestNo) (n c k : Nat) (src : Source) (s : State) : Work :=
  let mine := (s.slot? n).any fun x => decide (x.state = .filling ∧ x.owner = .lane d ∧ x.clip = c ∧ x.unit = k)
  match (s.dest d).cq.find? (·.names n) with
  | none => s.still
  | some i =>
    if mine then
      let i' : Item := match src with
        | .card => { i with noCard := true }
        | .dest e => { i with noDests := destInsert e i.noDests }
      let s1 := s.modDest d fun x => { x with cq := x.cq.map fun j => if j.names n then i' else j }
      let s2 := (s1.modLane d fun l => { l with cardOnly := false, sum := none }).modSlot n fun x =>
        { x with data := [] }
      if (s2.portFor c).isSome && !i'.noCard then s2.fillForLane d n c k .card
      else match s2.verifiedSource d c i'.noDests with
        | some e => s2.fillForLane d n c k (.dest e)
        | none => s2.andNow [.suspend c d]
    else s.still

/-- The lane's card-only mark cleared: its sum unit takes no more bytes (R52). -/
def clearMark (d : DestNo) (s : State) : State := s.modLane d fun l => { l with cardOnly := false, sum := none }

/-- The lane asks for a slot with a chosen source and, once the unit has its item, chooses for the next (R122). -/
def askAndGo (d : DestNo) (c k : Nat) (src : Source) (s : State) : Work :=
  let w := s.askForLane d c k src
  ⟨w.state, w.now ++ [.laneGo d], w.later⟩

/-- The lane chooses a source for unit `k` of its current copy (R122). -/
def chooseSource (d : DestNo) (c k : Nat) (s : State) : Work :=
  match s.stagedFor d c k with
  | some n =>
    let s1 := s.modSlot n fun x => { x with pending := destInsert d x.pending }
    let s2 := (clearMark d s1).queueItem d .cq (Item.new c (.data n))
    (s2.modLane d fun l => { l with nextUnit := k + 1 }).andNow [.laneGo d]
  | none =>
    if (s.portFor c).isSome then askAndGo d c k .card s
    else match s.verifiedSource d c [] with
      | some e => askAndGo d c k (.dest e) (clearMark d s)
      | none => s.andNow [.suspend c d]

/-- The copy at the head of a lane becomes current: one with no window is allocated, one that rejoined resumes its walk
(R121). -/
def takeCopy (d : DestNo) (c : Nat) (s : State) : Work :=
  match s.clip? c, s.copy? c d with
  | some x, some k =>
    match k.window with
    | some _ =>
      let standing := ((s.dest d).cq.filter fun i => decide (i.clip = c)).length
      (s.modLane d fun l =>
          { l with current := some c, nextUnit := k.written + standing, cardOnly := false, sum := none }).andNow
        [.laneGo d]
    | none =>
      match (s.dest d).allocate k.attempt (unitCount x.length) with
      | .placed w t =>
        ((s.place d c w t).modLane d fun l =>
            { l with current := some c, nextUnit := 0, cardOnly := true, sum := some (SumUnit.start x.length) }).andNow
          [.laneGo d]
      | .noRoom fills =>
        if k.attempt = 1 then
          ((s.modCopy c d fun k => { k with state := .noSpace }).leaveLane c d).andNow
            ((if fills then [.fillDest d c] else []) ++ [.enlist c, .laneGo d])
        else s.andNow [.failRepair c d fills, .laneGo d]
  | _, _ => (s.leaveLane c d).andNow [.laneGo d]

/-- A supply sum taken wholly from the card disagrees with the source sum (R53, R127).  DESIGN CHOICE: SOURCE_UNSTABLE
names the port bound to the job as the walk ends, also when the card supplied earlier units through another port
(notes/assumptions/34.md). -/
def sourceUnstable (d : DestNo) (c : Nat) (x : Clip) (s : State) : State :=
  let s' := s.raise
    { cls := .sourceUnstable, job := some x.job, clip := some c, dest := some d,
      port := (s.job x.job).boundPort, detail := .sumMismatch }
  s'.modClip c fun x =>
    match x.state with
    | .read => { x with state := .unstable }
    | .secured => { x with unstable := true }
    | .unstable => x
    | .listed => x
    | .reading => x
    | .excluded => x
    | .sourceFault => x

/-- Does the lane's closed supply sum disagree with the clip's source sum?  Only a walk taken wholly from the card, of
a clip with units, is compared (R52, R53). -/
def supplyDisagrees (l : Lane) (x : Clip) : Bool :=
  l.cardOnly && decide (0 < x.length)
    && match l.sum, x.sum with
      | some u, some sum => !u.close.agrees sum
      | _, _ => false

/-- The walk of the current copy ends: the supply sum is compared, the trailer item joins CQ, and the lane takes its next
copy (R125). -/
def endWalk (d : DestNo) (c : Nat) (x : Clip) (s : State) : Work :=
  let s1 := if supplyDisagrees (s.dest d).lane x then sourceUnstable d c x s else s
  ((s1.queueItem d .cq (Item.new c .trailer)).leaveLane c d).andNow [.laneGo d]

/-- A catch-up lane goes on: it takes its next eligible copy, sources the next unit, or ends the walk (R120–R122,
R125). -/
def runLaneGo (d : DestNo) (s : State) : Work :=
  if s.isServing d then
    let l := (s.dest d).lane
    match l.current with
    | none =>
      match l.copies.find? fun c => (s.clipState? c).any ClipState.supplied with
      | none => s.still
      | some c => takeCopy d c s
    | some c =>
      match s.clip? c with
      | none => s.still
      | some x =>
        if l.standing.isSome then s.still
        else if l.nextUnit < unitCount x.length then chooseSource d c l.nextUnit s
        else if (s.dest d).cq.any fun i => decide (i.clip = c) && match i.kind with
            | .data n => s.isFilling n
            | .trailer => false
        then s.still
        else endWalk d c x s
  else s.still

/-! ## Cards and destinations -/

/-- The slot a pulled job was filling is freed before the rest of R31. -/
def runPull (j : JobNo) (p : PortNo) (s : State) : Work :=
  s.andNow [.freeSlots (s.fillingOf (.job j)).toList, .pulled j p]

/-- The job rolled back to its checkpoint and PULLED, and CARD_PULLED raised (R31). -/
def runPulled (j : JobNo) (p : PortNo) (s : State) : Work :=
  let x := s.job j
  let target : ResumeTarget := if x.state = .running ∧ !x.pausePending then .running else .paused
  let s1 := (s.leaveWait (.job j)).moveJob j fun x =>
    { x with
      state := .pulled, resumeTarget := some target, pausePending := false, readPos := x.checkpoint.pos,
      live := x.checkpoint.sums, summed := x.checkpoint.pos.unit * unitBytes }
  (s1.raise
      { cls := .cardPulled, job := some j, clip := s1.clipAtRead j, dest := none, port := some p,
        detail := .cardRemoved }).still

/-- The job that holds a card identity (R5, R27). -/
def State.jobHolding (s : State) (identity : Identity) : Option JobNo :=
  allJobs.find? fun j => decide ((s.job j).state ≠ .free ∧ (s.job j).identity = some identity)

/-- A port identifies a card: PRESENT, or BOUND to the job that holds the identity and has no bound port (R27, R28).  On
binding, the suspended copies of the job's clips rejoin their lanes in ascending clip number (R124), and the memory
takes the identity when the job is RELEASED (R42). -/
def identifyCard (p : PortNo) (identity : Identity) (s : State) : Work :=
  let present : Work :=
    (s.movePort p fun x =>
      { x with state := .present, identity := some identity, identityTimer := false, boundJob := none }).still
  match s.jobHolding identity with
  | none => present
  | some j =>
    if (s.job j).boundPort.isSome then present
    else
      let s1 := s.modJob j fun x => { x with boundPort := some p }
      let s2 := s1.movePort p fun x =>
        { x with
          state := .bound, identity := some identity, identityTimer := false, boundJob := some j
          released := if (s.job j).state = .released then some identity else x.released }
      s2.andNow ((s.clipsOfJob j).map .rejoin ++ [.boundTo j])

/-- A card that reports its identity to an EMPTY port: MOUNTING, then identification at once (R26). -/
def runArrive (p : PortNo) (identity : Identity) (s : State) : Work :=
  identifyCard p identity (s.movePort p fun x => { x with state := .mounting, identity := none })

/-- What follows when a card binds to its job, by the job's state (R28). -/
def runBoundTo (j : JobNo) (s : State) : Work :=
  match (s.job j).state with
  | .pulled =>
    if (s.job j).resumeTarget = some .paused then
      (s.moveJob j fun x => { x with state := .paused, resumeTarget := none }).still
    else if s.anyToRead j then
      (s.moveJob j fun x => { x with state := .running, resumeTarget := none, pauseCause := none }).andNow
        [.proceed j]
    else s.andNow [.toDraining j]
  | .draining => s.andNow [.settle j]
  | .held => s.andNow [.settle j]
  | .free => s.still
  | .loading => s.still
  | .running => s.still
  | .paused => s.still
  | .reporting => s.still
  | .released => s.still

/-- The last steps of an entry to LOST: the arbiter's reset state, and DEST_LOST (R94). -/
def runLostEnd (d : DestNo) (detail : Detail) (s : State) : Work :=
  ((s.resetArbiter d).raise
      { cls := .destLost, job := none, clip := none, dest := some d, port := none, detail := detail }).still

/-- A port that was not BOUND stands EMPTY, its identity and released-identity memory gone (R29). -/
def runDepart (p : PortNo) (s : State) : Work :=
  (s.movePort p fun x => { x with state := .empty, identity := none, identityTimer := false, released := none }).still

/-- The capacity of the new drive recorded (R80). -/
def runNewDrive (d : DestNo) (capacity : Nat) (s : State) : Work :=
  (s.moveDest d fun x => { x with present := true, capacity := some capacity }).still

/-- The clip records of a job freed (R4). -/
def State.freeClips (j : JobNo) (s : State) : State := { s with clips := s.clips.filter fun (_, x) => decide (x.job ≠ j) }

/-- A job record returned to FREE with its clip records, announced with JOB_CHANGE, and its port left PRESENT (R10,
R11). -/
def State.freeJob (j : JobNo) (p : Option PortNo) (s : State) : State :=
  let s' := (s.freeClips j).moveJob j fun _ => Job.free
  p.elim s' fun p => s'.movePort p fun x => { x with state := .present, boundJob := none }

/-- The last steps of JOB_ABANDON: the deferred entries of the job's clips go, its queued records are detached, its
clips are freed, the record becomes FREE and the port PRESENT (R11, R146). -/
def runAbandoned (j : JobNo) (p : Option PortNo) (s : State) : Work :=
  let mine : Nat → Bool := fun c => (s.clip? c).any fun x => decide (x.job = j)
  let manifest : Manifest :=
    { queue := s.manifest.queue.map fun r => if r.job = j then { r with detached := true } else r
      deferred := s.manifest.deferred.filter fun c => !mine c }
  (({ s with manifest := manifest }).freeJob j p).still

/-! ## The event loop -/

/-- One task. -/
def Task.run (t : Task) (s : State) : Work :=
  match t with
  | .freeSlots ns => runFreeSlots ns s
  | .serveWaiting => runServeWaiting s
  | .askAgain r => askFor r s
  | .proceed j => runProceed j s
  | .clipStarted j c => runClipStarted j c s
  | .readEnded j => runReadEnded j s
  | .toDraining j => runToDraining j s
  | .abort c d => runAbort c d s
  | .failRepair c d fills => runFailRepair c d fills s
  | .requeue c d => runRequeue c d s
  | .enlist c => runEnlist c s
  | .secure c => runSecure c s
  | .rejoin c => runRejoin c s
  | .settle j => runSettle j s
  | .release j => runRelease j s
  | .laneGo d => runLaneGo d s
  | .cannotSupply d n c k src => runCannotSupply d n c k src s
  | .suspend c d => runSuspend c d s
  | .raise o => (s.raise o).still
  | .fillDest d c => (s.fillDest d c).still
  | .answer e st payload => (s.reply e st payload).still
  | .pull j p => runPull j p s
  | .pulled j p => runPulled j p s
  | .emit c => (s.emitRecord c).still
  | .arrive p identity => runArrive p identity s
  | .boundTo j => runBoundTo j s
  | .lostEnd d detail => runLostEnd d detail s
  | .depart p => runDepart p s
  | .newDrive d capacity => runNewDrive d capacity s
  | .announce n => (s.notify n).still
  | .abandoned j p => runAbandoned j p s

/-- The links served: every arbiter makes the selection that is open to it, and every reader link issues its head item
(R32, R99).  No link's choice depends on another's (notes/assumptions/9.md). -/
@[irreducible] def State.serveLinks (s : State) : State :=
  allPorts.foldl State.serveReader (allDests.foldl State.arbitrate s)

/-- The tasks of an event worked off in order, lamps re-formed after each (R164); none when the budget runs out first.
Between two effects the links are served, so that an idle port grants the first requester that comes to wait (R99). -/
def runTasks : Nat → List Task → State → Option State
  | _, [], s => some s
  | 0, _ :: _, _ => none
  | n + 1, t :: ts, s =>
    let w := t.run s.serveLinks
    runTasks n (w.now ++ ts ++ w.later) w.state.refreshLamps

/-- An event: its own change of state, then all that follows from it, and the links served (R32, R99). -/
def event (w : Work) : Host.Outcome State Fault Refusal :=
  match runTasks eventBudget (w.now ++ w.later) w.state.refreshLamps with
  | some s => .next s.serveLinks
  | none => .fault .eventUnfinished

end Sys2Proof.Machine
end

