-- ==== Sys2Proof/Machine/Requests.lean ====
section
/-! DEFINITION. Machine/Requests.lean: how a request of the control link is admitted, ruled on and answered (R173–R176).

A request row of the table is the completed frame of that request: it is admitted by the outstanding-request table,
handed to its owner, and answered when the owner gives its reply back (notes/assumptions/6.md). -/

namespace Sys2Proof.Machine

/-- What a request's owner makes of it. -/
inductive Ruling where
  /-- Refused with a status, nothing changed (R175). -/
  | refuse (st : Status)
  /-- Taken: the state it leaves, from which nothing further follows, and the reply's payload. -/
  | tell (payload : List Byte) (s : State)
  /-- Taken: its effects run to their end before the reply is given back (R176). -/
  | take (payload : List Byte) (w : Work)
  /-- Taken: the reply is owed until a later event (R33). -/
  | owe (w : Work)

/-- The lowest-numbered free entry of the outstanding-request table (R173). -/
def Link.freeEntry (l : Link) : Option EntryNo := allEntries.find? fun e => (l.table[e]).isNone

/-- A request taken into an entry, its reply owed (R173). -/
def State.takeEntry (e : EntryNo) (tag : Byte) (code : Nat) (s : State) : State :=
  { s with link := { s.link with table := s.link.table.set e (some ⟨tag, code, false⟩) } }

/-- A request turned away for want of an entry: BUSY when the refusal place is empty, else no answer (R173). -/
def State.turnAway (tag : Byte) (s : State) : State :=
  match s.link.refusal with
  | some _ => s
  | none =>
    { s with
      link := { s.link with refusal := some tag, outq := s.link.outq ++ [replyFrame .busy tag .busy []] } }

/-- A ruling carried out for the request of entry `e` (R175, R176). -/
def Ruling.carry (e : EntryNo) (s : State) : Ruling → Host.Outcome State Fault Refusal
  | .refuse st => .next (s.reply e st [])
  | .tell payload s' => .next (s'.reply e .ok payload)
  | .take payload w =>
    match runTasks eventBudget (w.now ++ w.later) w.state.refreshLamps with
    | some s' => .next (s'.reply e .ok payload).serveLinks
    | none => .fault .eventUnfinished
  | .owe w => event w

/-- A request offered for admission and, when it is taken, handed to its owner (R173, R174).  The owner sees the state
with the request's entry in the table. -/
def State.request (tag : Byte) (code : Nat) (owner : EntryNo → State → Ruling) (s : State) :
    Host.Outcome State Fault Refusal :=
  match s.link.freeEntry with
  | none => .next (s.turnAway tag)
  | some e => (owner e (s.takeEntry e tag code)).carry e (s.takeEntry e tag code)

end Sys2Proof.Machine
end

