-- ==== Sys2Proof/Machine/CardCommands.lean ====
section
/-! DEFINITION. Machine/CardCommands.lean: SECTOR_READ, what a reader bridge delivers, and a card port's timers
(chapter 2). -/

namespace Sys2Proof.Machine

/-! ## SECTOR_READ (R33) -/

/-- A sector read joined to the tail of a port's FIFO (R32). -/
def State.queueSector (p : PortNo) (e : EntryNo) (tag : Byte) (start count : Nat) (s : State) : State :=
  s.modPort p fun x => { x with fifo := x.fifo ++ [⟨.sector e tag, start, count⟩] }

/-- SECTOR_READ on a port with a card identified (R33). -/
def ruleSectors (p : PortNo) (e : EntryNo) (tag : Byte) (start count : Nat) (s : State) : Ruling :=
  if (s.port p).identity.elim 0 (·.capacity) < start + count then .refuse .badParam
  else .owe (s.queueSector p e tag start count).still

/-- SECTOR_READ ruled on (R33). -/
def ruleSectorRead (e : EntryNo) (tag : Byte) (n start count : Nat) (s : State) : Ruling :=
  match portOf n with
  | none => .refuse .noSuch
  | some p =>
    if !(s.port p).enabled then .refuse .noSuch
    else if count = 0 ∨ 8 < count then .refuse .badParam
    else match (s.port p).state with
      | .empty => .refuse .noCard
      | .mounting => .refuse .wrongState
      | .unreadable => .refuse .wrongState
      | .present => ruleSectors p e tag start count s
      | .bound => ruleSectors p e tag start count s

/-- SECTOR_READ (R33). -/
def execSectorRead (tag : Byte) (port start count : Nat) (s : State) : Host.Outcome State Fault Refusal :=
  s.quiet.request tag 0x18 fun e s => ruleSectorRead e tag port start count s

/-! ## A card arrives (R26–R28) -/

/-- READER_SLOT_SEATED (R26): an insertion. -/
def execReaderSlotSeated (p : PortNo) (s : State) : Host.Outcome State Fault Refusal :=
  if (s.port p).enabled ∧ (s.port p).state = .empty then
    .next (s.quiet.movePort p fun x => { x with state := .mounting, identity := none, identityTimer := true })
  else .next s.quiet

/-- IDENTITY_TIMER_EXPIRY (R26); a timer that is stopped does not expire (notes/assumptions/10.md). -/
def execIdentityTimerExpiry (p : PortNo) (s : State) : Host.Outcome State Fault Refusal :=
  if (s.port p).enabled ∧ (s.port p).state = .mounting ∧ (s.port p).identityTimer then
    .next (s.quiet.movePort p fun x => { x with state := .unreadable, identityTimer := false })
  else .next s.quiet

/-! ## A card leaves (R29–R31) -/

/-- The answers NO_CARD to the sector reads of a FIFO (R29, R30). -/
def answerNoCard : ReaderWork → Option Task
  | .sector e _ => some (.answer e .noCard [])
  | .job _ _ _ => none
  | .supply _ _ _ _ _ => none

/-- What each piece of work of an emptied FIFO brings about: NO_CARD to a sector read, cannot-supply to a lane (R30). -/
def removalMessage : ReaderWork → Option Task
  | .sector e _ => some (.answer e .noCard [])
  | .job _ _ _ => none
  | .supply d _ c k n => some (.cannotSupply d n c k .card)

/-- A port as its card leaves: EMPTY, its FIFO empty, an outstanding request abandoned (R24, R29, R30). -/
def CardPort.emptied (x : CardPort) : CardPort :=
  { x with
    state := .empty, identity := none, boundJob := none, fifo := [], abandoned := x.outstanding.isSome
    identityTimer := false, released := none }

/-- The removal of the card of a BOUND port: the binding ends, the FIFO is emptied item by item with one message for
each unit or sector read, and a RUNNING or PAUSED job is pulled (R30, R31).  DESIGN CHOICE: the order in which one removal
frees slots (notes/assumptions/13.md).  The suspensions follow the messages in FIFO order, each freeing its lane's slots
in ascending order, and the slot the pulled job was filling is freed last. -/
def removeBound (p : PortNo) (s : State) : Work :=
  let works := ((s.port p).fifo.map (·.work)).eraseDups
  match (s.port p).boundJob with
  | none => (s.movePort p CardPort.emptied).andNow (works.filterMap removalMessage)
  | some j =>
    let s1 := ((s.modJob j fun x => { x with boundPort := none }).leaveWait (.job j)).movePort p CardPort.emptied
    let pull : List Task :=
      if (s.job j).state = .running ∨ (s.job j).state = .paused then [.pull j p] else []
    s1.andNow (works.filterMap removalMessage ++ pull)

/-- The removal of the card of a PRESENT port: its sector reads are answered NO_CARD (R29). -/
def removePresent (p : PortNo) (s : State) : Work :=
  let answers := (s.port p).fifo.filterMap fun i => answerNoCard i.work
  let s1 := s.modPort p fun x => { x with fifo := [], abandoned := x.outstanding.isSome }
  s1.andNow (answers ++ [.depart p])

/-- The removal of the card of a port, by the port's state (R29, R30). -/
def removeCard (p : PortNo) (s : State) : Work :=
  match (s.port p).state with
  | .empty => s.still
  | .mounting => runDepart p s
  | .unreadable => runDepart p s
  | .present => removePresent p s
  | .bound => removeBound p s

/-- CARD_OUT (R24, R29, R30). -/
def execCardOut (p : PortNo) (s : State) : Host.Outcome State Fault Refusal :=
  if (s.port p).enabled then event (removeCard p s.quiet) else .next s.quiet

/-- READER_SLOT_NOT_SEATED (R24, R29, R30): a removal as CARD_OUT is. -/
def execReaderSlotNotSeated (p : PortNo) (s : State) : Host.Outcome State Fault Refusal :=
  if (s.port p).enabled then event (removeCard p s.quiet) else .next s.quiet

/-- A card reported at a port that holds one: ignored with the identity held, else the removal of the card held and
the arrival of the new one (R26).  DESIGN CHOICE: the port stands EMPTY by the removal, then the arrival takes it through
MOUNTING, with a CARD_CHANGE of its own, to PRESENT or BOUND, as it does at a port found EMPTY; R26 says only that a
newly identified card arrives (notes/assumptions/11.md). -/
def cardAgain (p : PortNo) (identity : Identity) (s : State) : Host.Outcome State Fault Refusal :=
  if (s.port p).identity = some identity then .next s
  else
    let w := removeCard p s
    event ⟨w.state, w.now ++ [.arrive p identity], w.later⟩

/-- CARD_IN (R26). -/
def execCardIn (p : PortNo) (media capacity : Nat) (s : State) : Host.Outcome State Fault Refusal :=
  if !(s.port p).enabled then .next s.quiet
  else match (s.port p).state with
    | .empty => event (s.quiet.andNow [.arrive p ⟨media, capacity⟩])
    | .mounting => event (identifyCard p ⟨media, capacity⟩ s.quiet)
    | .unreadable => .next s.quiet
    | .present => cardAgain p ⟨media, capacity⟩ s.quiet
    | .bound => cardAgain p ⟨media, capacity⟩ s.quiet

/-! ## Responses (R24, R25) -/

/-- The outstanding request of a port cleared and its timer stopped (R24, R25). -/
def State.clearReader (p : PortNo) (s : State) : State :=
  s.modPort p fun x => { x with outstanding := none, abandoned := false, readerTimer := false }

/-- The item at the head of a port's FIFO leaves it (R32). -/
def State.popRead (p : PortNo) (s : State) : State := s.modPort p fun x => { x with fifo := x.fifo.tail }

/-- The occurrence of a reader fault: the port, the job and clip a piece serves, a supply piece's destination (R25,
R152). -/
def readerFault (cls : FaultClass) (p : PortNo) (work : ReaderWork) (detail : Detail) : Occurrence :=
  match work with
  | .job j c _ => { cls := cls, job := some j, clip := some c, dest := none, port := some p, detail := detail }
  | .supply d j c _ _ =>
    { cls := cls, job := some j, clip := some c, dest := some d, port := some p, detail := detail }
  | .sector _ _ => { cls := cls, job := none, clip := none, dest := none, port := some p, detail := detail }

/-- The clip's bytes of a piece: those that still belong in the slot's unit; the rest of the clip's last sector is
discarded (R35, R36). -/
def Slot.wanted (x : Slot) (bytes : List Byte) : List Byte := bytes.take (x.byteCount - x.data.length)

/-- Bytes stored in a slot behind those it holds (R36, R41). -/
def State.storeBytes (n : Nat) (bytes : List Byte) (s : State) : State :=
  s.modSlot n fun x => { x with data := x.data ++ x.wanted bytes }

/-- Does more work of this kind stand in a port's FIFO? -/
def State.moreOf (s : State) (p : PortNo) (work : ReaderWork) : Bool := (s.port p).fifo.any fun i => decide (i.work = work)

/-- A job piece's bytes delivered to the slot and the live sums; the last piece ends the unit (R36, R37, R50). -/
def deliverJob (p : PortNo) (j : JobNo) (c k : Nat) (bytes : List Byte) (s : State) : Work :=
  match s.fillingOf (.job j) with
  | none => s.still
  | some n =>
    let mine := (s.slot? n).elim [] (·.wanted bytes)
    let s1 := (s.storeBytes n bytes).modJob j fun x =>
      { x with live := x.live.feed mine, summed := x.summed + mine.length }
    if s1.moreOf p (.job j c k) then s1.still else endUnit j n c k s1

/-- A supply piece's bytes delivered to the lane's slot and, while the card-only mark is set, to the lane's sum unit;
the last piece stages the slot (R41, R52, R68, R123). -/
def deliverSupply (p : PortNo) (d : DestNo) (j : JobNo) (c k n : Nat) (bytes : List Byte) (s : State) : Work :=
  let mine := (s.slot? n).elim [] (·.wanted bytes)
  let s1 := (s.storeBytes n bytes).modLane d fun l =>
    if l.cardOnly ∧ l.current = some c then { l with sum := l.sum.map (·.feed mine) } else l
  if s1.moreOf p (.supply d j c k n) then s1.still else (s1.stageSlot n [d]).andNow [.laneGo d]

/-- A completed piece delivered to what it serves (R25, R33). -/
def deliver (p : PortNo) (work : ReaderWork) (bytes : List Byte) (s : State) : Work :=
  match work with
  | .job j c k => deliverJob p j c k bytes s
  | .supply d j c k n => deliverSupply p d j c k n bytes s
  | .sector e _ => s.andNow [.answer e .ok bytes]

/-- CARD_RETRY raised for a piece completed after a failed attempt (R25). -/
def raiseRetried (p : PortNo) (r : ReaderRequest) (s : State) : State :=
  match r.lastFail with
  | none => s
  | some detail => s.raise (readerFault .cardRetry p r.item.work detail)

/-- A piece completes: it leaves the FIFO, CARD_RETRY is raised when an attempt had failed, and its bytes are delivered
(R25). -/
def pieceDone (p : PortNo) (r : ReaderRequest) (bytes : List Byte) (s : State) : Work :=
  deliver p r.item.work bytes (raiseRetried p r ((s.clearReader p).popRead p))

/-- The consequence of a piece's fourth failure, by its kind (R25, R33, R39, R41).  Its unit's other pieces have left
the FIFO when the port issues again; the lamps follow CARD_FAULT before them (R164). -/
def pieceLost (p : PortNo) (work : ReaderWork) (s : State) : Work :=
  match work with
  | .job j c _ => runSourceFault j c s.refreshLamps
  | .supply d _ c k n =>
    (s.modPort p fun x => { x with fifo := x.fifo.filter fun i => i.work ≠ work }).andNow
      [.cannotSupply d n c k .card]
  | .sector e _ => s.andNow [.answer e .readError []]

/-- The attempts a piece is given (R25). -/
def attemptLimit : Nat := 4

/-- An attempt has failed: the piece is issued again at once, or after its fourth failure raises CARD_FAULT, leaves the
FIFO and has its consequence (R25). -/
def attemptFailed (p : PortNo) (r : ReaderRequest) (detail : Detail) (s : State) : Host.Outcome State Fault Refusal :=
  if r.attempt < attemptLimit then .next (s.issueRead p ⟨r.item, r.attempt + 1, some detail⟩)
  else
    event (pieceLost p r.item.work
      (((s.clearReader p).popRead p).raise (readerFault .cardFault p r.item.work detail)))

/-- A response of the reader: discarded by a disabled port and when nothing is outstanding, only clearing an abandoned
request, else handed on (R23, R24). -/
def onReader (p : PortNo) (s : State) (f : ReaderRequest → Host.Outcome State Fault Refusal) :
    Host.Outcome State Fault Refusal :=
  if !(s.port p).enabled then .next s
  else match (s.port p).outstanding with
    | none => .next s
    | some r => if (s.port p).abandoned then event (s.clearReader p).still else f r

/-- READER_DATA (R24, R25): a byte count other than the one asked for is taken as an ERROR. -/
def execReaderData (p : PortNo) (bytes : List Byte) (s : State) : Host.Outcome State Fault Refusal :=
  onReader p s.quiet fun r =>
    if bytes.length = r.item.count * sectorBytes then event (pieceDone p r bytes s.quiet)
    else attemptFailed p r .readerError s.quiet

/-- READER_ERROR (R25). -/
def execReaderError (p : PortNo) (s : State) : Host.Outcome State Fault Refusal :=
  onReader p s.quiet fun r => attemptFailed p r .readerError s.quiet

/-- READER_TIMER_EXPIRY (R24, R25): the link is restarted, and the attempt has failed unless its request was abandoned;
a timer that is stopped does not expire (notes/assumptions/10.md). -/
def execReaderTimerExpiry (p : PortNo) (s : State) : Host.Outcome State Fault Refusal :=
  if (s.port p).enabled ∧ (s.port p).readerTimer then
    let s' := s.quiet.restartReader p
    onReader p s' fun r => attemptFailed p r .readerTimeout s'
  else .next s.quiet

end Sys2Proof.Machine
end

