-- ==== Sys2Proof/Machine/ClipCommands.lean ====
section
/-! DEFINITION. Machine/ClipCommands.lean: the requests that act on single clips (sections "Acting on single clips"
and "Queries" of chapter 1, section 7.5). -/

namespace Sys2Proof.Machine

/-- A request that names a clip: BAD_PARAM for a number of 4096 or more, NO_SUCH for a free record, else `f` (R15). -/
def onClip (c : Nat) (s : State) (f : Clip → Ruling) : Ruling :=
  if clipCount ≤ c then .refuse .badParam
  else match s.clip? c with
    | none => .refuse .noSuch
    | some x => f x

/-! ## CLIP_QUERY (R19) -/

/-- Does a clip record hold a source sum with this F and length (R19)? -/
def Clip.hasTag (f length : Nat) (x : Clip) : Bool :=
  x.sum.any fun sum => decide (sum.f.toNat = f ∧ x.length = length)

/-- CLIP_QUERY ruled on (R19). -/
def ruleClipQuery (key : ClipKey) (s : State) : Ruling :=
  match key with
  | .byNumber c => onClip c s fun x => .tell (Bytes.le 2 1 ++ clipBytes c x) s
  | .byTag f length =>
    let found := s.clips.filter fun (_, x) => x.hasTag f length
    match found with
    | [] => .refuse .noSuch
    | (c, x) :: _ => .tell (Bytes.le 2 found.length ++ clipBytes c x) s

/-- CLIP_QUERY (R19). -/
def execClipQuery (tag : Byte) (key : ClipKey) (s : State) : Host.Outcome State Fault Refusal :=
  s.quiet.request tag 0x28 fun _ s => ruleClipQuery key s

/-! ## CLIP_EXCLUDE (R16) -/

/-- A clip excluded: its live copies aborted, the slots they leave freed, its record emitted, its job checked (R16). -/
def excludeClip (c : Nat) (x : Clip) (s : State) : Work :=
  let lanes := (s.lanesWith c).map Task.laneGo
  let s' := (s.setClip c { x with state := .excluded, prior := some x.state }).abortCopies c
  ⟨s', [.freeSlots (s'.orphansSince s), .emit c, .settle x.job], lanes⟩

/-- CLIP_EXCLUDE ruled on (R16). -/
def ruleClipExclude (c : Nat) (s : State) : Ruling :=
  onClip c s fun x =>
    match x.state with
    | .listed => .take [] (excludeClip c x s)
    | .read => .take [] (excludeClip c x s)
    | .sourceFault => .take [] (excludeClip c x s)
    | .unstable => .take [] (excludeClip c x s)
    | .reading => .refuse .wrongState
    | .secured => .refuse .wrongState
    | .excluded => .refuse .wrongState

/-- CLIP_EXCLUDE (R16). -/
def execClipExclude (tag : Byte) (clip : Nat) (s : State) : Host.Outcome State Fault Refusal :=
  s.quiet.request tag 0x29 fun _ s => ruleClipExclude clip s

/-! ## CLIP_RETRY (R17) -/

/-- A job sent back to read a retried clip: RUNNING when its card is bound, else PULLED with resume target RUNNING; the
read position moves to the first LISTED clip (R17, R51). -/
def readAgain (j : JobNo) (s : State) : Work :=
  let s' := s.standAtFirst j
  if (s.job j).boundPort.isSome then
    (s'.moveJob j fun x => { x with state := .running }).andNow [.proceed j]
  else (s'.moveJob j fun x => { x with state := .pulled, resumeTarget := some .running }).still

/-- A SOURCE_FAULT clip LISTED again without its copies, and the effect on its job (R17).  The lamp follows the clip's
change before the job's (R163, R164). -/
def retryClip (c : Nat) (x : Clip) (s : State) : Work :=
  let s' := (s.setClip c { x with state := .listed, copies := Vector.replicate 4 none }).refreshLamps
  match (s.job x.job).state with
  | .draining => readAgain x.job s'
  | .held => readAgain x.job s'
  | .running => s'.still
  | .paused => s'.still
  | .pulled => s'.still
  | .free => s'.still
  | .loading => s'.still
  | .reporting => s'.still
  | .released => s'.still

/-- CLIP_RETRY (R17). -/
def execClipRetry (tag : Byte) (clip : Nat) (s : State) : Host.Outcome State Fault Refusal :=
  s.quiet.request tag 0x2A fun _ s =>
    onClip clip s fun x => if x.state = .sourceFault then .take [] (retryClip clip x s) else .refuse .wrongState

/-! ## COPY_ADD (R129) -/

/-- A host copy created, or reset, and queued in its destination's lane (R12, R129). -/
def addCopy (c : Nat) (d : DestNo) (x : Clip) (s : State) : Work :=
  ⟨(s.setCopy c d (Copy.fresh .queued .host 1)).joinLane c d, [.settle x.job], [.laneGo d]⟩

/-- COPY_ADD ruled on (R129). -/
def ruleCopyAdd (c n : Nat) (s : State) : Ruling :=
  match destOf n with
  | none => .refuse .badParam
  | some d =>
    onClip c s fun x =>
      if !x.state.supplied then .refuse .wrongState
      else if (x.copies[d]).any fun k => k.state.live || decide (k.state = .verified) then .refuse .wrongState
      else if !s.isActive d then .refuse .wrongState
      else .take [] (addCopy c d x s)

/-- COPY_ADD (R129). -/
def execCopyAdd (tag : Byte) (clip dest : Nat) (s : State) : Host.Outcome State Fault Refusal :=
  s.quiet.request tag 0x2B fun _ s => ruleCopyAdd clip dest s

end Sys2Proof.Machine
end

