-- ==== Sys2Proof/Machine/DestCommands.lean ====
section
/-! DEFINITION. Machine/DestCommands.lean: DEST_BIND, DEST_UNBIND and DEST_QUERY (section 5.4). -/

namespace Sys2Proof.Machine

/-- The cannot-supply messages of a destination's SUPPLY jobs (R83, R94, R116).  DESIGN CHOICE: they are sent in list
order, and a lane that one of them suspends frees its copy's slots in ascending number before the next is sent; R64 orders
the slots of one event and not these suspensions within it (notes/assumptions/13.md). -/
def supplyMessages (e : DestNo) (jobs : List ReadJob) : List Task :=
  jobs.filterMap fun
    | .verify _ => none
    | .supply c k n asker => some (.cannotSupply asker n c k (.dest e))

/-- Is a read job a SUPPLY job? -/
def ReadJob.isSupply : ReadJob → Bool
  | .verify _ => false
  | .supply _ _ _ _ => true

/-- What an earlier binding left at a port ends: SUPPLY jobs leave the read lane, an outstanding request becomes
abandoned, the arbiter takes its reset state (R83, R84). -/
def State.endBinding (d : DestNo) (s : State) : State :=
  ((s.withdrawJobs ReadJob.isSupply d).modDest d fun x => { x with abandoned := x.outstanding.isSome }).resetArbiter d

/-- The change of state of a binding request announced after the reselections, when there is one (R75, R163). -/
def announceState (d : DestNo) (before after : DestState) : List Task :=
  if before = after then [] else [.announce (.destChange d)]

/-- A port rebound, or unbound: the binding and the state set, then the lanes its SUPPLY jobs served source their units
again, then the change is announced (R83, R84). -/
def rebind (d : DestNo) (b : Option Binding) (st : DestState) (s : State) : Work :=
  ((s.endBinding d).modDest d fun x => { x with binding := b, state := st }).andNow
    (supplyMessages d (s.dest d).rl.jobs ++ announceState d (s.dest d).state st)

/-- The binding of the given parameters (R82, R83). -/
def newBinding (areaStart area strip spare firstUnit firstTrailer : Nat) : Binding :=
  { areaStart := areaStart, area := area, strip := strip, spare := spare, firstUnit := firstUnit,
    firstTrailer := firstTrailer, nextUnit := firstUnit, nextTrailer := firstTrailer }

/-- The parameter check of R83 for a drive of `capacity` sectors. -/
def Binding.fits (b : Binding) (capacity : Nat) : Bool :=
  decide (1 ≤ b.strip ∧ b.strip ≤ 65536) && decide (b.spare ≤ 4096) && decide (b.areaStart + b.area ≤ capacity)
    && decide (b.strip < b.area) && decide (1 ≤ b.dataUnits) && decide (b.spare < b.dataUnits)
    && decide (b.firstUnit ≤ b.ceiling) && decide (b.firstTrailer ≤ b.strip)

/-- DEST_BIND ruled on (R83). -/
def ruleDestBind (n : Nat) (b : Binding) (s : State) : Ruling :=
  match destOf n with
  | none => .refuse .noSuch
  | some d =>
    if !(s.dest d).present then .refuse .wrongState
    else if s.isServing d && s.plan.lock then .refuse .locked
    else if s.isServing d && decide (0 < s.liveOn d) then .refuse .wrongState
    else if !b.fits ((s.dest d).capacity.getD 0) then .refuse .badParam
    else .take (Bytes.le 6 b.dataUnits ++ Bytes.le 6 b.ceiling) (rebind d (some b) .active s)

/-- DEST_BIND (R83). -/
def execDestBind (tag : Byte) (port areaStart area strip spare firstUnit firstTrailer : Nat) (s : State) :
    Host.Outcome State Fault Refusal :=
  s.quiet.request tag 0x10 fun _ s =>
    ruleDestBind port (newBinding areaStart area strip spare firstUnit firstTrailer) s

/-- DEST_UNBIND ruled on (R84). -/
def ruleDestUnbind (n : Nat) (s : State) : Ruling :=
  match destOf n with
  | none => .refuse .noSuch
  | some d =>
    if (s.dest d).state = .absent ∨ (s.dest d).state = .unbound then .refuse .wrongState
    else if s.isServing d && s.plan.lock then .refuse .locked
    else if s.isServing d && decide (0 < s.liveOn d) then .refuse .wrongState
    else .take [] (rebind d none (if (s.dest d).present then .unbound else .absent) s)

/-- DEST_UNBIND (R84). -/
def execDestUnbind (tag : Byte) (port : Nat) (s : State) : Host.Outcome State Fault Refusal :=
  s.quiet.request tag 0x11 fun _ s => ruleDestUnbind port s

/-- DEST_QUERY ruled on (R85). -/
def ruleDestQuery (n : Nat) (s : State) : Ruling :=
  match destOf n with
  | none => .refuse .noSuch
  | some d => .tell (s.destBytes d) s

/-- DEST_QUERY (R85). -/
def execDestQuery (tag : Byte) (port : Nat) (s : State) : Host.Outcome State Fault Refusal :=
  s.quiet.request tag 0x12 fun _ s => ruleDestQuery port s

end Sys2Proof.Machine
end

