-- ==== Sys2Proof/Machine/DriveCommands.lean ====
section
/-! DEFINITION. Machine/DriveCommands.lean: what a drive bridge delivers, and the response timer (sections 5.2, 5.3,
5.8, 6.4, 6.5, 7.1). -/

namespace Sys2Proof.Machine

/-! ## Responses -/

/-- The outstanding request of a port cleared and its timer stopped (R78). -/
def State.clearDrive (d : DestNo) (s : State) : State :=
  s.modDest d fun x => { x with outstanding := none, abandoned := false, timer := false }

/-- A response handed to the item its request served; an abandoned request is only cleared, and a response that finds
none outstanding is ignored (R78). -/
def onResponse (d : DestNo) (s : State) (f : DriveRequest → State → Work) : Host.Outcome State Fault Refusal :=
  match (s.dest d).outstanding with
  | none => .next s
  | some r =>
    if (s.dest d).abandoned then event (s.clearDrive d).still else event (f r (s.clearDrive d))

/-- Is the copy a write was issued for still WRITING with the same attempt number (R91, R93)? -/
def State.stillWriting (s : State) (c : Nat) (d : DestNo) (attempt : Nat) : Bool :=
  (s.copy? c d).any fun k => decide (k.state = .writing ∧ k.attempt = attempt)

/-- The item at the head of a write queue leaves it (R103). -/
def State.popItem (d : DestNo) (w : Writer) (s : State) : State :=
  s.modDest d fun x => x.setQueue w (x.queue w).tail

/-- The lock given to a requester for the copy of clip `c`, or ended (R104, R105). -/
def State.setLock (d : DestNo) (lock : Option (Writer × Nat)) (s : State) : State :=
  s.modDest d fun x => { x with arb := { x.arb with lock := lock } }

/-- DONE to a data WRITE: the item leaves, the units written rise, the slot loses the destination, the copy's last write
begins the lock, and a slot no destination needs is freed (R69, R91, R104). -/
def dataDone (d : DestNo) (w : Writer) (c attempt n : Nat) (s : State) : Work :=
  match s.clip? c with
  | none => s.still
  | some x =>
    if s.stillWriting c d attempt then
      let s1 := (s.popItem d w).modCopy c d fun k => { k with written := k.written + 1 }
      let s2 := s1.modSlot n fun y => { y with pending := destErase d y.pending }
      let last := (s1.copy? c d).any fun k => decide (k.written = unitCount x.length)
      let s3 := if last then s2.setLock d (some (w, c)) else s2
      if (s3.slot? n).any fun y => y.pending.isEmpty then s3.andNow [.freeSlots [n]] else s3.still
    else s.still

/-- DONE to a trailer WRITE: the lock ends, the copy is WRITTEN and its VERIFY job joins the read lane (R93, R105). -/
def trailerDone (d : DestNo) (w : Writer) (c attempt : Nat) (s : State) : Work :=
  if s.stillWriting c d attempt then
    ((((s.popItem d w).setLock d none).modCopy c d fun k => { k with state := .written }).appendRead
      d (.verify c)).still
  else s.still

/-! ## The read lane (R112–R116) -/

/-- The next request of an active VERIFY job formed (R113). -/
def State.formStep (d : DestNo) (c : Nat) (step : ReadStep) (s : State) : State :=
  let cmd := match step with
    | .flush => some flushCmd
    | .unit k => s.formUnitRead d c k
    | .trailer => s.formTrailerRead d c
    | .supply => none
  s.setActive d (some ⟨step, cmd, 0⟩)

/-- The step after window unit `k - 1` of a VERIFY job: unit `k`, or the trailer (R113). -/
def stepAt (k n : Nat) : ReadStep := if k < n then .unit k else .trailer

/-- The unit count of a copy's window (R113). -/
def State.windowUnits (s : State) (c : Nat) (d : DestNo) : Nat :=
  ((s.copy? c d).bind (·.window)).elim 0 (·.count)

/-- The read lane's sum unit set (R54). -/
def State.setReadSum (d : DestNo) (u : Option SumUnit) (s : State) : State :=
  s.modDest d fun x => { x with rl := { x.rl with sum := u } }

/-- The closed readback sum recorded in the copy subrecord (R114, R115). -/
def State.recordReadback (c : Nat) (d : DestNo) (sum : Option ClosedSum) (s : State) : State :=
  s.modCopy c d fun k => { k with readback := sum }

/-- A failed attempt's detail at the decision of a verification, none when it agrees (R114). -/
def verifyDetail (c : Nat) (x : Clip) (k : Copy) (readback : ClosedSum) (sector : List Byte) : Option Detail :=
  match x.sum, k.window with
  | some sum, some w =>
    if !readback.agrees sum then some .sumMismatch
    else if !trailerAgrees sector c x.length sum w then some .trailerMismatch
    else none
  | _, _ => some .sumMismatch

/-- The decision of a VERIFY job at the DONE of its trailer READ (R114, R117). -/
def decideVerify (d : DestNo) (c : Nat) (sector : List Byte) (s : State) : Work :=
  match s.clip? c, s.copy? c d, (s.dest d).rl.sum with
  | some x, some k, some u =>
    let s1 := (s.recordReadback c d (some u.close)).endRead d
    match verifyDetail c x k u.close sector with
    | none =>
      (s1.modCopy c d fun k => { k with state := .verified }).andNow [.secure c, .rejoin c, .settle x.job]
    | some detail => runFailAttempt c d detail s1
  | _, _, _ => s.still

/-- DONE to a request of a VERIFY job (R113). -/
def verifyDone (d : DestNo) (c : Nat) (step : ReadStep) (bytes : List Byte) (s : State) : Work :=
  match step with
  | .flush =>
    let start := (s.clip? c).map fun x => SumUnit.start x.length
    ((s.setReadSum d start).formStep d c (stepAt 0 (s.windowUnits c d))).still
  | .unit k =>
    let fed := (s.dest d).rl.sum.map (·.feed bytes)
    ((s.setReadSum d fed).formStep d c (stepAt (k + 1) (s.windowUnits c d))).still
  | .trailer => decideVerify d c bytes s
  | .supply => s.still

/-- DONE to the READ of a SUPPLY job: the slot's bytes stored, the slot STAGED for the lane that asked, the job ended
(R68, R116, R123). -/
def supplyDone (e d : DestNo) (n : Nat) (bytes : List Byte) (s : State) : Work :=
  let s1 := s.modSlot n fun y => { y with data := bytes.take y.byteCount }
  ((s1.stageSlot n [d]).endRead e).andNow [.laneGo d]

/-- The failure of a read lane's request: of a VERIFY job's attempt, or of a SUPPLY job (R109, R115, R116).  A failed
trailer READ leaves the closed readback sum recorded. -/
def readFailed (d : DestNo) (detail : Detail) (s : State) : Work :=
  match (s.dest d).rl.jobs, (s.dest d).rl.active with
  | .verify c :: _, some a =>
    let s1 := if a.step = .trailer then s.recordReadback c d ((s.dest d).rl.sum.map (·.close)) else s
    runFailAttempt c d detail (s1.endRead d)
  | .supply c k n asker :: _, some _ => runCannotSupply asker n c k (.dest d) (s.endRead d)
  | _, _ => s.still

/-- DONE to a request of the read lane; a READ answered with another byte count than it asked for has failed (R77,
R113, R116). -/
def readDone (d : DestNo) (cmd : DriveCmd) (bytes : List Byte) (s : State) : Work :=
  if cmd.kind = .read ∧ bytes.length ≠ cmd.count * sectorBytes then readFailed d .driveFail s
  else match (s.dest d).rl.jobs, (s.dest d).rl.active with
    | .verify c :: _, some a => verifyDone d c a.step bytes s
    | .supply _ _ n asker :: _, some _ => supplyDone d asker n bytes s
    | _, _ => s.still

/-! ## DONE, FAIL and RETRY -/

/-- A DONE handed to what its request served (R78, R103). -/
def doneFor (d : DestNo) (bytes : List Byte) (r : DriveRequest) (s : State) : Work :=
  match r.serves with
  | .data w c attempt n => dataDone d w c attempt n s
  | .trailer w c attempt => trailerDone d w c attempt s
  | .readLane => readDone d r.cmd bytes s

/-- DRIVE_DONE (R78). -/
def execDriveDone (d : DestNo) (bytes : List Byte) (s : State) : Host.Outcome State Fault Refusal :=
  onResponse d s.quiet (doneFor d bytes)

/-- A failure handed to what the request served.  The copy's items have left their queue when the next selection is
made (R109). -/
def failFor (d : DestNo) (detail : Detail) (r : DriveRequest) (s : State) : Work :=
  match r.serves with
  | .data _ c _ _ => runFailAttempt c d detail s
  | .trailer _ c _ => runFailAttempt c d detail s
  | .readLane => readFailed d detail s

/-- DRIVE_FAIL (R109). -/
def execDriveFail (d : DestNo) (s : State) : Host.Outcome State Fault Refusal :=
  onResponse d s.quiet (failFor d .driveFail)

/-- The retry count at which a further RETRY is taken as a FAIL (R108). -/
def retryLimit : Nat := 7

/-- The retry count of the item at the head of a write queue (R97). -/
def State.headRetries (s : State) (d : DestNo) (w : Writer) : Nat :=
  ((s.dest d).queue w).head?.elim 0 (·.retries)

/-- A RETRY counted on the item at the head of a write queue, which stays where it stands (R106). -/
def State.countRetry (d : DestNo) (w : Writer) (s : State) : State :=
  s.modDest d fun x =>
    x.setQueue w (match x.queue w with
      | [] => []
      | i :: rest => { i with retries := i.retries + 1 } :: rest)

/-- A RETRY to a write: counted on its item, or the eighth taken as a FAIL (R106, R108). -/
def writeRetry (d : DestNo) (w : Writer) (r : DriveRequest) (s : State) : Work :=
  if s.headRetries d w < retryLimit then (s.countRetry d w).still else failFor d .driveRetry r s

/-- A RETRY to the read lane: its request stands formed again, or the eighth is taken as a FAIL (R107, R108). -/
def readRetry (d : DestNo) (cmd : DriveCmd) (s : State) : Work :=
  match (s.dest d).rl.active with
  | none => s.still
  | some a =>
    if a.retries < retryLimit then (s.setActive d (some ⟨a.step, some cmd, a.retries + 1⟩)).still
    else readFailed d .driveRetry s

/-- A RETRY handed to what its request served (R106–R108). -/
def retryFor (d : DestNo) (r : DriveRequest) (s : State) : Work :=
  match r.serves with
  | .data w _ _ _ => writeRetry d w r s
  | .trailer w _ _ => writeRetry d w r s
  | .readLane => readRetry d r.cmd s

/-- DRIVE_RETRY (R106, R107). -/
def execDriveRetry (d : DestNo) (s : State) : Host.Outcome State Fault Refusal := onResponse d s.quiet (retryFor d)

/-! ## Loss of a destination (R94) -/

/-- The aborts of a lost destination, each clip's enlistment and settling check at its turn (R94). -/
def lossAborts (d : DestNo) (cs : List Nat) : List Task := cs.flatMap fun c => [.abort c d, .enlist c]

/-- A destination becomes LOST: its request is cleared and its drive link restarted, its live copies are aborted in
ascending clip number, its SUPPLY jobs end, its arbiter is reset and DEST_LOST is raised (R94).  `f` sets the drive's
presence and capacity with the change of state. -/
def enterLost (d : DestNo) (detail : Detail) (f : DestPort → DestPort) (s : State) : Work :=
  let s1 := (s.moveDest d fun x =>
      { f x with state := .lost, outstanding := none, abandoned := false, timer := false }).restartDrive d
  (s1.modDest d fun x => { x with rl := ReadLane.empty }).andNow
    (lossAborts d (s.liveClipsOn d) ++ supplyMessages d (s.dest d).rl.jobs ++ [.lostEnd d detail])

/-- RESPONSE_TIMER_EXPIRY (R79); a timer that is stopped does not expire (notes/assumptions/10.md). -/
def execResponseTimerExpiry (d : DestNo) (s : State) : Host.Outcome State Fault Refusal :=
  if !(s.dest d).timer then .next s.quiet
  else if s.isServing d then event (enterLost d .driveTimeout id s.quiet)
  else .next ((s.quiet.clearDrive d).restartDrive d)

/-! ## Drives arriving and leaving (R80, R81) -/

/-- The drive leaves the port (R81). -/
def DestPort.driveGone (x : DestPort) : DestPort := { x with present := false, capacity := none, outSinceIn := true }

/-- DRIVE_OUT (R81). -/
def execDriveOut (d : DestNo) (s : State) : Host.Outcome State Fault Refusal :=
  match (s.dest d).state with
  | .absent => .next s.quiet
  | .unbound => .next ((s.quiet.clearDrive d).moveDest d fun x => { x.driveGone with state := .absent })
  | .active => event (enterLost d .driveRemoved DestPort.driveGone s.quiet)
  | .full => event (enterLost d .driveRemoved DestPort.driveGone s.quiet)
  | .lost =>
    if (s.dest d).present then .next (s.quiet.moveDest d DestPort.driveGone)
    else .next (s.quiet.modDest d DestPort.driveGone)

/-- The link restart of the first DRIVE_IN after a DRIVE_OUT (R80). -/
def State.firstIn (d : DestNo) (s : State) : State :=
  if (s.dest d).outSinceIn then (s.modDest d fun x => { x with outSinceIn := false }).restartDrive d else s

/-- The presence and capacity DRIVE_IN records (R80). -/
def DestPort.driveHere (capacity : Nat) (x : DestPort) : DestPort :=
  { x with present := true, capacity := some capacity }

/-- DRIVE_IN in UNBOUND or LOST: the capacity recorded, announced when presence or capacity changes (R75, R80). -/
def State.recordDrive (d : DestNo) (capacity : Nat) (s : State) : State :=
  if (s.dest d).present && decide ((s.dest d).capacity = some capacity) then s
  else s.moveDest d (DestPort.driveHere capacity)

/-- DRIVE_IN of another capacity at a destination in use: the loss of the old drive, then the new drive (R80). -/
def replaceDrive (d : DestNo) (capacity : Nat) (s : State) : Work :=
  let w := enterLost d .driveRemoved id s
  ⟨w.state, w.now ++ [.newDrive d capacity], w.later⟩

/-- DRIVE_IN (R80). -/
def execDriveIn (d : DestNo) (capacity : Nat) (s : State) : Host.Outcome State Fault Refusal :=
  let s' := s.quiet.firstIn d
  match (s.dest d).state with
  | .absent => .next (s'.moveDest d fun x => { x.driveHere capacity with state := .unbound })
  | .unbound => .next (s'.recordDrive d capacity)
  | .lost => .next (s'.recordDrive d capacity)
  | .active => if (s.dest d).capacity = some capacity then .next s' else event (replaceDrive d capacity s')
  | .full => if (s.dest d).capacity = some capacity then .next s' else event (replaceDrive d capacity s')

end Sys2Proof.Machine
end

