-- ==== Sys2Proof/Machine/FaultCommands.lean ====
section
/-! DEFINITION. Machine/FaultCommands.lean: FAULT_READ, FAULT_CLEAR and FAULT_ROUTE (section 10.4). -/

namespace Sys2Proof.Machine

/-- FAULT_READ (R159). -/
def execFaultRead (tag : Byte) (s : State) : Host.Outcome State Fault Refusal :=
  s.quiet.request tag 0x38 fun _ s => .tell s.faults.bytes s

/-- FAULT_CLEAR ruled on (R160). -/
def ruleFaultClear (cls : Nat) (s : State) : Ruling :=
  match classOf cls with
  | none => .refuse .badParam
  | some c =>
    let faults := s.faults.clear c
    .tell (faults.flagBytes ++ faults.captureBytes) { s with faults := faults }

/-- FAULT_CLEAR (R160). -/
def execFaultClear (tag : Byte) (cls : Nat) (s : State) : Host.Outcome State Fault Refusal :=
  s.quiet.request tag 0x39 fun _ s => ruleFaultClear cls s

/-- FAULT_ROUTE ruled on (R161). -/
def ruleFaultRoute (cls route : Nat) (s : State) : Ruling :=
  match classOf cls, routeOf route with
  | some c, some r =>
    let faults := s.faults.setRoute c r
    .tell faults.routeBytes { s with faults := faults }
  | _, _ => .refuse .badParam

/-- FAULT_ROUTE (R161). -/
def execFaultRoute (tag : Byte) (cls route : Nat) (s : State) : Host.Outcome State Fault Refusal :=
  s.quiet.request tag 0x3A fun _ s => ruleFaultRoute cls route s

end Sys2Proof.Machine
end

