-- ==== Sys2Proof/Machine/JobCommands.lean ====
section
/-! DEFINITION. Machine/JobCommands.lean: the requests that act on jobs, and CLIP_ADD (chapter 1). -/

namespace Sys2Proof.Machine

/-- A request that names a job: BAD_PARAM for a number of 16 or more, NO_SUCH for a FREE record, else `f` (R15). -/
def onJob (n : Nat) (s : State) (f : JobNo → Ruling) : Ruling :=
  match jobOf n with
  | none => .refuse .badParam
  | some j => if (s.job j).state = .free then .refuse .noSuch else f j

/-! ## JOB_OPEN (R5) -/

/-- The lowest-numbered FREE job record (R5). -/
def State.freeJobRecord (s : State) : Option JobNo := allJobs.find? fun j => decide ((s.job j).state = .free)

/-- A job opened on a PRESENT port: the record becomes LOADING with the port's identity, the port BOUND with its
released-identity memory emptied (R5). -/
def State.openJob (j : JobNo) (p : PortNo) (s : State) : State :=
  (s.moveJob j fun _ =>
      { Job.free with state := .loading, identity := (s.port p).identity, boundPort := some p }).movePort
    p fun x => { x with state := .bound, boundJob := some j, released := none }

/-- JOB_OPEN ruled on (R5). -/
def ruleJobOpen (n : Nat) (s : State) : Ruling :=
  match portOf n with
  | none => .refuse .noSuch
  | some p =>
    if !(s.port p).enabled then .refuse .noSuch
    else match (s.port p).state with
      | .empty => .refuse .noCard
      | .mounting => .refuse .wrongState
      | .unreadable => .refuse .wrongState
      | .bound => .refuse .wrongState
      | .present =>
        if ((s.port p).identity.bind s.jobHolding).isSome then .refuse .wrongState
        else match s.freeJobRecord with
          | none => .refuse .tableFull
          | some j => .tell [Bytes.u8 j.val] (s.openJob j p)

/-- JOB_OPEN (R5). -/
def execJobOpen (tag : Byte) (port : Nat) (s : State) : Host.Outcome State Fault Refusal :=
  s.quiet.request tag 0x20 fun _ s => ruleJobOpen port s

/-! ## CLIP_ADD (R6) -/

/-- An extent within its ranges: a count of 1 to 2^24 (R4, R6). -/
def Extent.inRange (e : Extent) : Bool := decide (1 ≤ e.count ∧ e.count ≤ 16777216)

/-- An entry is well formed when none of R6's conditions holds. -/
def ClipEntry.inForm (e : ClipEntry) : Bool :=
  decide (e.length < 1099511627776) && decide (e.extents.length ≤ 64) && e.extents.all Extent.inRange
    && decide (e.length = 0 ↔ e.extents = [])
    && decide (e.length ≤ (e.extents.map (·.count)).sum * sectorBytes) && decide (e.token.length ≤ 48)

/-- An extent's last sector lies below a capacity (R6). -/
def Extent.below (capacity : Nat) (e : Extent) : Bool := decide (e.start + e.count - 1 < capacity)

/-- The record of a clip as it is added (R6). -/
def Clip.added (j : JobNo) (e : ClipEntry) : Clip :=
  { job := j, state := .listed, length := e.length, extents := e.extents, token := e.token, sum := none,
    unstable := false, mstatus := .none, prior := none, copies := Vector.replicate 4 none }

/-- Clip records filled and their numbers appended to the job's list, in entry order (R6). -/
def State.addClips (j : JobNo) (numbers : List Nat) (entries : List ClipEntry) (s : State) : State :=
  ((numbers.zip entries).foldl (fun s (c, e) => s.setClip c (Clip.added j e)) s).modJob j fun x =>
    { x with clips := x.clips ++ numbers }

/-- The `want` lowest-numbered free clip records, fewer when there are not so many (R6). -/
def State.freeClipNumbers (want : Nat) (s : State) : List Nat :=
  Table.freeFrom (s.clips.map Prod.fst) clipCount 0 want

/-- CLIP_ADD ruled on (R6). -/
def ruleClipAdd (n : Nat) (entries : List ClipEntry) (s : State) : Ruling :=
  match jobOf n with
  | none => .refuse .badParam
  | some j =>
    if entries.length = 0 ∨ 32 < entries.length ∨ !entries.all ClipEntry.inForm then .refuse .badParam
    else if (s.job j).state = .free then .refuse .noSuch
    else if !entries.all fun e => e.extents.all (Extent.below ((s.job j).identity.elim 0 (·.capacity))) then
      .refuse .badParam
    else if (s.job j).state ≠ .loading then .refuse .wrongState
    else
      let numbers := s.freeClipNumbers entries.length
      if numbers.length < entries.length then .refuse .tableFull
      else .tell (Bytes.u8 numbers.length :: numbers.flatMap (Bytes.le 2)) (s.addClips j numbers entries)

/-- CLIP_ADD (R6). -/
def execClipAdd (tag : Byte) (job : Nat) (entries : List ClipEntry) (s : State) : Host.Outcome State Fault Refusal :=
  s.quiet.request tag 0x21 fun _ s => ruleClipAdd job entries s

/-! ## JOB_START (R7, R139, R140) -/

/-- The snapshot the plan gives (R139). -/
def Plan.snapshot (p : Plan) : Snapshot := { r := p.r, mirrors := p.withRole .mirror, spares := p.withRole .spare }

/-- The ACTIVE destinations among the plan's mirrors and spares (R140). -/
def State.activePlanned (s : State) : Nat :=
  ((s.plan.withRole .mirror ++ s.plan.withRole .spare).filter s.isActive).length

/-- The quota a request gives: 0 asks for 256, any other value is clamped into 16 to 1024 (R7). -/
def quotaOf (asked : Nat) : Nat := if asked = 0 then defaultQuota else min 1024 (max 16 asked)

/-- A job started: snapshot, quota and urgent flag, then RUNNING at the first LISTED clip, or DRAINING when no clip is
LISTED (R7, R40). -/
def startJob (j : JobNo) (quota : Nat) (urgent : Bool) (s : State) : Work :=
  let s' := s.modJob j fun x => { x with snapshot := some s.plan.snapshot, quota := quota, urgent := urgent }
  if s'.anyListed j then
    ((s'.standAtFirst j).moveJob j fun x => { x with state := .running }).andNow [.proceed j]
  else s'.andNow [.toDraining j]

/-- JOB_START ruled on (R7). -/
def ruleJobStart (n quota urgent : Nat) (s : State) : Ruling :=
  onJob n s fun j =>
    if (s.job j).state ≠ .loading ∨ (s.job j).clips = [] then .refuse .wrongState
    else if (s.job j).boundPort.isNone then .refuse .noCard
    else if s.activePlanned < s.plan.r then .refuse .wrongState
    else .take (Bytes.le 2 (quotaOf quota)) (startJob j (quotaOf quota) (decide (urgent ≠ 0)) s)

/-- JOB_START (R7). -/
def execJobStart (tag : Byte) (job quota urgent : Nat) (s : State) : Host.Outcome State Fault Refusal :=
  s.quiet.request tag 0x22 fun _ s => ruleJobStart job quota urgent s

/-! ## JOB_PAUSE and JOB_RESUME (R8, R9) -/

/-- JOB_PAUSE ruled on (R8).  DESIGN CHOICE: where the job already stands at a unit boundary, the pause takes effect and its
JOB_CHANGE is queued before the reply, as R38 and R176 say; R8 has the reply of a RUNNING job's pause given before the
pause takes effect (notes/assumptions/36.md). -/
def ruleJobPause (n : Nat) (s : State) : Ruling :=
  onJob n s fun j =>
    match (s.job j).state with
    | .running => .tell [] (s.askPause .host j)
    | .paused => .tell [] (s.modJob j fun x => { x with pauseCause := some .host })
    | .pulled => .tell [] (s.modJob j fun x => { x with resumeTarget := some .paused, pauseCause := some .host })
    | .free => .refuse .noSuch
    | .loading => .refuse .wrongState
    | .draining => .refuse .wrongState
    | .held => .refuse .wrongState
    | .reporting => .refuse .wrongState
    | .released => .refuse .wrongState

/-- JOB_PAUSE (R8). -/
def execJobPause (tag : Byte) (job : Nat) (s : State) : Host.Outcome State Fault Refusal :=
  s.quiet.request tag 0x23 fun _ s => ruleJobPause job s

/-- A PAUSED job resumed: RUNNING, or DRAINING when no clip is READING or LISTED (R9, R40). -/
def resumePaused (j : JobNo) (s : State) : Work :=
  if s.anyToRead j then
    (s.moveJob j fun x => { x with state := .running, pauseCause := none }).andNow [.proceed j]
  else s.andNow [.toDraining j]

/-- JOB_RESUME ruled on (R9). -/
def ruleJobResume (n : Nat) (s : State) : Ruling :=
  onJob n s fun j =>
    match (s.job j).state with
    | .paused => .take [] (resumePaused j s)
    | .running =>
      if (s.job j).pausePending then
        .tell [] (s.modJob j fun x => { x with pausePending := false, pauseCause := none })
      else .tell [] s
    | .pulled =>
      if (s.job j).resumeTarget = some .paused then
        .tell [] (s.modJob j fun x => { x with resumeTarget := some .running, pauseCause := none })
      else .tell [] s
    | .free => .refuse .noSuch
    | .loading => .refuse .wrongState
    | .draining => .refuse .wrongState
    | .held => .refuse .wrongState
    | .reporting => .refuse .wrongState
    | .released => .refuse .wrongState

/-- JOB_RESUME (R9). -/
def execJobResume (tag : Byte) (job : Nat) (s : State) : Host.Outcome State Fault Refusal :=
  s.quiet.request tag 0x24 fun _ s => ruleJobResume job s

/-! ## JOB_ABANDON and JOB_CLOSE (R10, R11) -/

/-- Is a reader item a piece of this job's unit in flight? -/
def ReaderWork.ofJob (j : JobNo) : ReaderWork → Bool
  | .job j' _ _ => decide (j' = j)
  | .supply _ _ _ _ _ => false
  | .sector _ _ => false

/-- A job abandoned: its live copies aborted, its reader work withdrawn, its place on the wait list given up; its slots,
and those its clips leave without a destination, are then freed in ascending order, and the record, the clips and the
port follow (R11). -/
def abandonJob (j : JobNo) (s : State) : Work :=
  let cs := (s.job j).clips
  let p := (s.job j).boundPort
  let s1 := cs.foldl (fun s c => s.abortCopies c) s
  let s2 := p.elim s1 fun p => s1.withdrawReads (ReaderWork.ofJob j) p
  let s3 := (s2.leaveWait (.job j)).modJob j fun x => { x with boundPort := none }
  let freed := (s3.ring.held.filter fun (n, x) => decide (x.owner = .job j) || (s3.orphansSince s).contains n).map
    Prod.fst
  ⟨s3, [.freeSlots freed, .abandoned j p], allDests.map .laneGo⟩

/-- JOB_ABANDON (R11). -/
def execJobAbandon (tag : Byte) (job : Nat) (s : State) : Host.Outcome State Fault Refusal :=
  s.quiet.request tag 0x25 fun _ s => onJob job s fun j => .take [] (abandonJob j s)

/-- May a job be closed: LOADING with no record DEFERRED or QUEUED, or RELEASED with no live copy (R10)? -/
def State.mayClose (s : State) (j : JobNo) : Bool :=
  match (s.job j).state with
  | .loading =>
    !(s.job j).clips.any fun c =>
      (s.clip? c).any fun x => decide (x.mstatus = .deferred ∨ x.mstatus = .queued)
  | .released => !s.hasLiveCopy j
  | .free => false
  | .running => false
  | .paused => false
  | .pulled => false
  | .draining => false
  | .held => false
  | .reporting => false

/-- JOB_CLOSE ruled on (R10). -/
def ruleJobClose (n : Nat) (s : State) : Ruling :=
  onJob n s fun j =>
    if s.mayClose j then .tell [] (s.freeJob j (s.job j).boundPort) else .refuse .wrongState

/-- JOB_CLOSE (R10). -/
def execJobClose (tag : Byte) (job : Nat) (s : State) : Host.Outcome State Fault Refusal :=
  s.quiet.request tag 0x26 fun _ s => ruleJobClose job s

/-- JOB_QUERY (R18). -/
def execJobQuery (tag : Byte) (job : Nat) (s : State) : Host.Outcome State Fault Refusal :=
  s.quiet.request tag 0x27 fun _ s => onJob job s fun j => .tell (s.jobBytes j) s

end Sys2Proof.Machine
end

