-- ==== Sys2Proof/Machine/LinkCommands.lean ====
section
/-! DEFINITION. Machine/LinkCommands.lean: the link controller's own requests, its timer and its bulk-in pipe, and the
two resets (chapter 11; R20, R44, R56, R74, R96, R111, R142, R151, R165, R185). -/

namespace Sys2Proof.Machine

/-! ## IDENTIFY and STATUS -/

/-- IDENTIFY (R178). -/
def execIdentify (tag : Byte) (s : State) : Host.Outcome State Fault Refusal :=
  s.quiet.request tag 0x01 fun _ s => .tell s.identifyBytes s

/-- The notice-overflow flag cleared once a STATUS payload is formed (R179). -/
def State.clearOverflow (s : State) : State := { s with link := { s.link with overflow := false } }

/-- STATUS (R179). -/
def execStatus (tag : Byte) (s : State) : Host.Outcome State Fault Refusal :=
  s.quiet.request tag 0x02 fun _ s => .tell s.statusBytes s.clearOverflow

/-! ## The stall timer and the bulk-in pipe -/

/-- STALL_TIMER_EXPIRY (R171); a timer that is stopped does not expire (notes/assumptions/10.md). -/
def execStallTimerExpiry (s : State) : Host.Outcome State Fault Refusal :=
  if s.link.stall then
    .next { s.quiet with link := { s.link with parser := .hunt, buf := [], stall := false } }
  else .next s.quiet

/-- The place a frame gives back as it leaves the queue (R176, R177). -/
def Link.release (l : Link) : FrameOwner → Link
  | .reply e => { l with table := l.table.set e none }
  | .busy => { l with refusal := none }
  | .notice => l

/-- FRAME_TAKEN_BULK_IN (R176): the USB port takes the oldest frame whole; with none waiting nothing happens. -/
def execFrameTakenBulkIn (s : State) : Host.Outcome State Fault Refusal :=
  match s.link.outq with
  | [] => .next s.quiet
  | f :: rest =>
    .next (({ s.quiet with link := { s.link with outq := rest }.release f.owner }).emitLine
      (.bulkIn (frameBytes f.kind f.tag f.payload)))

/-! ## Soft reset -/

/-- A card port after soft reset (R44): a seated card is identified again, an EMPTY port stays EMPTY. -/
def CardPort.softReset (x : CardPort) : CardPort :=
  let y : CardPort :=
    { x with
      identity := none, boundJob := none, fifo := [], abandoned := x.outstanding.isSome, released := none }
  if !x.enabled then x
  else if x.state = .empty then { y with identityTimer := false, lamp := .off }
  else { y with state := .mounting, identityTimer := true, lamp := .amber }

/-- The link restart of a port whose card is identified again (R44). -/
def State.portRestart (s : State) (p : PortNo) : List LineOut :=
  if (s.port p).enabled ∧ (s.port p).state ≠ .empty then [.restartReader p] else []

/-- A destination port after soft reset (R96). -/
def DestPort.softReset (x : DestPort) : DestPort :=
  { x with
    abandoned := x.outstanding.isSome, wq := Vector.replicate 16 [], cq := [], lane := Lane.empty
    rl := ReadLane.empty, arb := Arbiter.reset }

/-- The fault unit after soft reset: the routes are kept (R165). -/
def FaultUnit.softReset (u : FaultUnit) : FaultUnit := { FaultUnit.reset with routes := u.routes }

/-- The link controller after soft reset: the RESET reply alone in its queue and in entry 0 (R180, R185). -/
def Link.softReset (tag : Byte) : Link :=
  { Link.reset with
    table := (Vector.replicate 8 none).set 0 (some ⟨tag, resetCode, true⟩)
    outq := [replyFrame (.reply 0) tag .ok []] }

/-- The soft reset, in every block (R20, R44, R56, R74, R96, R111, R142, R151, R165, R180, R185). -/
def State.softReset (tag : Byte) (s : State) : State :=
  { ports := s.ports.map CardPort.softReset
    jobs := Vector.replicate 16 Job.free
    clips := []
    ring := Ring.reset
    dests := s.dests.map DestPort.softReset
    plan := s.plan
    manifest := Manifest.reset
    faults := s.faults.softReset
    link := Link.softReset tag
    lines := allPorts.flatMap s.portRestart
    pending := s.pending }

/-- RESET (R180): admitted whatever the outstanding-request table holds. -/
def execReset (tag : Byte) (s : State) : Host.Outcome State Fault Refusal := .next (s.softReset tag)

/-! ## Power-on reset -/

/-- The ports a strap position enables (R23). -/
def strapEnables : Strap → PortNo → Bool
  | .fourPort, p => decide (p.val < 4)
  | .eightPort, _ => true

/-- A card port after power-on reset (R44): MOUNTING when its reader reports a card seated, else EMPTY. -/
def portAtPowerOn (strap : Strap) (seated : List PortNo) (p : PortNo) : CardPort :=
  if strapEnables strap p && seated.contains p then
    { CardPort.idle true with state := .mounting, identityTimer := true, lamp := .amber }
  else CardPort.idle (strapEnables strap p)

/-- The reader links of the enabled ports and the four drive links restarted (R44, R96). -/
def powerOnRestarts (strap : Strap) : List LineOut :=
  (allPorts.filter (strapEnables strap)).map .restartReader ++ allDests.map .restartDrive

/-- POWER_ON_RESET (R20, R23, R44, R74, R96, R142, R151, R165, R185).  The waiting commands are the model's and stay. -/
def execPowerOnReset (strap : Strap) (seated : List PortNo) (s : State) : Host.Outcome State Fault Refusal :=
  .next
    { State.reset with
      ports := Vector.ofFn fun p => portAtPowerOn strap seated p
      lines := powerOnRestarts strap
      pending := s.pending }

end Sys2Proof.Machine
end

