-- ==== Sys2Proof/Machine/ManifestCommands.lean ====
section
/-! DEFINITION. Machine/ManifestCommands.lean: MANIFEST_READ (section 9.3). -/

namespace Sys2Proof.Machine

/-- The clip of a removed record becomes TAKEN, unless the record is detached (R147). -/
def State.takeRecord (s : State) (r : Record) : State :=
  if r.detached then s else s.modClip r.clip fun x => { x with mstatus := .taken }

/-- The deferred clip at the head of the list enters the queue (R145). -/
def State.enterDeferred (s : State) : State :=
  match s.manifest.deferred with
  | [] => s
  | c :: rest => ({ s with manifest := { s.manifest with deferred := rest } }).enqueueRecord c

/-- Deferred clips enter the queue for `n` freed places, until the list is empty (R145). -/
def State.refill : Nat → State → State
  | 0, s => s
  | n + 1, s => s.enterDeferred.refill n

/-- The jobs that had a clip's status set to TAKEN by these records, in ascending order (R147). -/
def releasedJobs (records : List Record) : List JobNo :=
  allJobs.filter fun j => records.any fun r => decide (r.job = j) && !r.detached

/-- The payload of a MANIFEST_READ reply (R182). -/
def State.manifestBytes (s : State) (records : List Record) : List Byte :=
  Bytes.u8 records.length :: (Bytes.le 2 s.manifest.queue.length ++ Bytes.le 2 s.manifest.deferred.length)
    ++ records.flatMap Record.bytes

/-- MANIFEST_READ ruled on (R147). -/
def ruleManifestRead (count : Nat) (s : State) : Ruling :=
  let records := s.manifest.queue.take (min count 8)
  let s1 : State := { s with manifest := { s.manifest with queue := s.manifest.queue.drop records.length } }
  let s2 := (records.foldl State.takeRecord s1).refill records.length
  .take (s2.manifestBytes records) (s2.andNow ((releasedJobs records).map .release))

/-- MANIFEST_READ (R147). -/
def execManifestRead (tag : Byte) (count : Nat) (s : State) : Host.Outcome State Fault Refusal :=
  s.quiet.request tag 0x30 fun _ s => ruleManifestRead count s

end Sys2Proof.Machine
end

