-- ==== Sys2Proof/Machine/PlanCommands.lean ====
section
/-! DEFINITION. Machine/PlanCommands.lean: PLAN_SET, PLAN_LOCK and PLAN_QUERY (chapter 8). -/

namespace Sys2Proof.Machine

/-- The four roles by their codes, none when a code is outside its list (R134, R181). -/
def rolesOf (r0 r1 r2 r3 : Nat) : Option (Vector Role 4) := do
  let a ← roleOf r0
  let b ← roleOf r1
  let c ← roleOf r2
  let d ← roleOf r3
  some #v[a, b, c, d]

/-- PLAN_SET ruled on (R134). -/
def rulePlanSet (count r0 r1 r2 r3 : Nat) (s : State) : Ruling :=
  match rolesOf r0 r1 r2 r3 with
  | none => .refuse .badParam
  | some roles =>
    if count = 0 ∨ 4 < count then .refuse .badParam
    else if s.plan.lock then .refuse .locked
    else
      let plan : Plan := { s.plan with r := count, roles := roles }
      if (plan.withRole .mirror).length < count then .refuse .badParam
      else .tell plan.bytes { s with plan := plan }

/-- PLAN_SET (R134, R135). -/
def execPlanSet (tag : Byte) (count r0 r1 r2 r3 : Nat) (s : State) : Host.Outcome State Fault Refusal :=
  s.quiet.request tag 0x08 fun _ s => rulePlanSet count r0 r1 r2 r3 s

/-- PLAN_LOCK ruled on (R137). -/
def rulePlanLock (s : State) : Ruling :=
  if s.plan.lock then .tell s.plan.lockBytes s
  else if (s.plan.withRole .mirror).length < s.plan.r then .refuse .wrongState
  else
    let plan : Plan := { s.plan with lock := true }
    .tell plan.lockBytes { s with plan := plan }

/-- PLAN_LOCK (R137). -/
def execPlanLock (tag : Byte) (s : State) : Host.Outcome State Fault Refusal :=
  s.quiet.request tag 0x09 fun _ s => rulePlanLock s

/-- PLAN_QUERY (R136). -/
def execPlanQuery (tag : Byte) (s : State) : Host.Outcome State Fault Refusal :=
  s.quiet.request tag 0x0A fun _ s => .tell s.planBytes s

end Sys2Proof.Machine
end

