-- ==== Sys2Proof/Machine/Parser.lean ====
section
/-! DEFINITION. Machine/Parser.lean: the frame parser, and what a complete frame brings about (R169–R174). -/

namespace Sys2Proof.Machine

open Bytes

/-- The meaning of a request that has passed its form check (R174, R182).  A command that is no request crosses no
frame. -/
def requestMeaning (i : Instr) (s : State) : Host.Outcome State Fault Refusal :=
  match i with
  | .powerOnReset _ _ => .next s
  | .bulkOutByte _ => .next s
  | .stallTimerExpiry => .next s
  | .frameTakenBulkIn => .next s
  | .identify tag => execIdentify tag s
  | .status tag => execStatus tag s
  | .reset tag => execReset tag s
  | .planSet tag n a b c d => execPlanSet tag n a b c d s
  | .planLock tag => execPlanLock tag s
  | .planQuery tag => execPlanQuery tag s
  | .destBind tag p a n t sp u0 t0 => execDestBind tag p a n t sp u0 t0 s
  | .destUnbind tag p => execDestUnbind tag p s
  | .destQuery tag p => execDestQuery tag p s
  | .sectorRead tag p a n => execSectorRead tag p a n s
  | .jobOpen tag p => execJobOpen tag p s
  | .clipAdd tag j es => execClipAdd tag j es s
  | .jobStart tag j q u => execJobStart tag j q u s
  | .jobPause tag j => execJobPause tag j s
  | .jobResume tag j => execJobResume tag j s
  | .jobAbandon tag j => execJobAbandon tag j s
  | .jobClose tag j => execJobClose tag j s
  | .jobQuery tag j => execJobQuery tag j s
  | .clipQuery tag k => execClipQuery tag k s
  | .clipExclude tag c => execClipExclude tag c s
  | .clipRetry tag c => execClipRetry tag c s
  | .copyAdd tag c d => execCopyAdd tag c d s
  | .manifestRead tag n => execManifestRead tag n s
  | .faultRead tag => execFaultRead tag s
  | .faultClear tag c => execFaultClear tag c s
  | .faultRoute tag c r => execFaultRoute tag c r s
  | .readerSlotSeated _ => .next s
  | .cardIn _ _ _ => .next s
  | .identityTimerExpiry _ => .next s
  | .cardOut _ => .next s
  | .readerSlotNotSeated _ => .next s
  | .readerData _ _ => .next s
  | .readerError _ => .next s
  | .readerTimerExpiry _ => .next s
  | .driveDone _ _ => .next s
  | .driveRetry _ => .next s
  | .driveFail _ => .next s
  | .driveIn _ _ => .next s
  | .driveOut _ => .next s
  | .responseTimerExpiry _ => .next s

/-- A request refused by its form.  A malformed RESET holds an entry only when one is free; with the table full it is
discarded (R174, R180). -/
def refuseForm (code : Nat) (tag : Byte) (st : Status) (s : State) : Host.Outcome State Fault Refusal :=
  if code = resetCode ∧ s.link.freeEntry.isNone then .next s else s.request tag code fun _ _ => .refuse st

/-- A complete frame of class request: admitted, checked for form and handed on (R173, R174). -/
def admitRequest (code : Nat) (tag : Byte) (payload : List Byte) (s : State) : Host.Outcome State Fault Refusal :=
  match decodeRequest code tag payload with
  | .good i => requestMeaning i s
  | .unknown => refuseForm code tag .unknown s
  | .malformed => refuseForm code tag .malformed s

/-- A frame with an agreeing check taken by the class in its kind byte: a request is offered for admission, any other
class is discarded (R167, R172). -/
def takeFrame (kind tag : Byte) (payload : List Byte) (s : State) : Host.Outcome State Fault Refusal :=
  if kind.toNat < 64 then admitRequest kind.toNat tag payload s else .next s

/-- The LINK_CHECK occurrence (R152, R170). -/
def linkCheck : Occurrence :=
  { cls := .linkCheck, job := none, clip := none, dest := none, port := none, detail := .frameCheck }

/-- The parser's fields set (R166). -/
def State.setParser (st : ParserState) (buf : List Byte) (stall : Bool) (s : State) : State :=
  { s with link := { s.link with parser := st, buf := buf, stall := stall } }

/-- The parser back in HUNT with nothing in its buffer. -/
def State.hunt (s : State) : State := s.setParser .hunt [] false

/-- The payload length a header announces (R167). -/
def headerLength (buf : List Byte) : Nat := ofLe ((buf.drop 2).take 2)

/-- The end of HEAD (R170): a length over 4096 ends the frame, 0 goes to CHECK, any other to BODY. -/
def endHead (buf : List Byte) (s : State) : State :=
  if maxPayload < headerLength buf then s.hunt
  else if headerLength buf = 0 then s.setParser .check buf true
  else s.setParser .body buf true

/-- The end of CHECK (R170): the frame is taken when its check agrees, else LINK_CHECK is raised. -/
def endCheck (buf : List Byte) (s : State) : Host.Outcome State Fault Refusal :=
  let n := 4 + headerLength buf
  if buf.drop n = be 2 (crc (buf.take n)).toNat then
    match buf with
    | kind :: tag :: _ :: _ :: rest => takeFrame kind tag (rest.take (headerLength buf)) s.hunt
    | _ => .next s.hunt
  else .next (s.hunt.raise linkCheck)

/-- One byte of the bulk-out pipe (R169, R170). -/
def takeByte (b : Byte) (s : State) : Host.Outcome State Fault Refusal :=
  let buf := s.link.buf ++ [b]
  match s.link.parser with
  | .hunt => if b = 0xB5 then .next (s.setParser .mark [] false) else .next s
  | .mark =>
    if b = 0x4A then .next (s.setParser .head [] true)
    else if b = 0xB5 then .next s
    else .next s.hunt
  | .head => if buf.length < 4 then .next (s.setParser .head buf true) else .next (endHead buf s)
  | .body =>
    if buf.length < 4 + headerLength buf then .next (s.setParser .body buf true)
    else .next (s.setParser .check buf true)
  | .check => if buf.length < 6 + headerLength buf then .next (s.setParser .check buf true) else endCheck buf s

/-- BULK_OUT_BYTE (R169). -/
def execBulkOutByte (b : Byte) (s : State) : Host.Outcome State Fault Refusal := takeByte b s.quiet

end Sys2Proof.Machine
end

