-- ==== Sys2Proof/Machine/Dispatch.lean ====
section
/-! DEFINITION. Machine/Dispatch.lean: each command of the table to its meaning. -/

namespace Sys2Proof.Machine

def exec (i : Instr) (s : State) : Host.Outcome State Fault Refusal :=
  match i with
  | .powerOnReset strap seated => Sys2Proof.Machine.execPowerOnReset strap seated s
  | .bulkOutByte b => Sys2Proof.Machine.execBulkOutByte b s
  | .stallTimerExpiry => Sys2Proof.Machine.execStallTimerExpiry s
  | .frameTakenBulkIn => Sys2Proof.Machine.execFrameTakenBulkIn s
  | .identify tag => Sys2Proof.Machine.execIdentify tag s
  | .status tag => Sys2Proof.Machine.execStatus tag s
  | .reset tag => Sys2Proof.Machine.execReset tag s
  | .planSet tag count role0 role1 role2 role3 => Sys2Proof.Machine.execPlanSet tag count role0 role1 role2 role3 s
  | .planLock tag => Sys2Proof.Machine.execPlanLock tag s
  | .planQuery tag => Sys2Proof.Machine.execPlanQuery tag s
  | .destBind tag port areaStart area strip spare firstUnit firstTrailer => Sys2Proof.Machine.execDestBind tag port areaStart area strip spare firstUnit firstTrailer s
  | .destUnbind tag port => Sys2Proof.Machine.execDestUnbind tag port s
  | .destQuery tag port => Sys2Proof.Machine.execDestQuery tag port s
  | .sectorRead tag port start count => Sys2Proof.Machine.execSectorRead tag port start count s
  | .jobOpen tag port => Sys2Proof.Machine.execJobOpen tag port s
  | .clipAdd tag job entries => Sys2Proof.Machine.execClipAdd tag job entries s
  | .jobStart tag job quota urgent => Sys2Proof.Machine.execJobStart tag job quota urgent s
  | .jobPause tag job => Sys2Proof.Machine.execJobPause tag job s
  | .jobResume tag job => Sys2Proof.Machine.execJobResume tag job s
  | .jobAbandon tag job => Sys2Proof.Machine.execJobAbandon tag job s
  | .jobClose tag job => Sys2Proof.Machine.execJobClose tag job s
  | .jobQuery tag job => Sys2Proof.Machine.execJobQuery tag job s
  | .clipQuery tag key => Sys2Proof.Machine.execClipQuery tag key s
  | .clipExclude tag clip => Sys2Proof.Machine.execClipExclude tag clip s
  | .clipRetry tag clip => Sys2Proof.Machine.execClipRetry tag clip s
  | .copyAdd tag clip dest => Sys2Proof.Machine.execCopyAdd tag clip dest s
  | .manifestRead tag count => Sys2Proof.Machine.execManifestRead tag count s
  | .faultRead tag => Sys2Proof.Machine.execFaultRead tag s
  | .faultClear tag cls => Sys2Proof.Machine.execFaultClear tag cls s
  | .faultRoute tag cls route => Sys2Proof.Machine.execFaultRoute tag cls route s
  | .readerSlotSeated p => Sys2Proof.Machine.execReaderSlotSeated p s
  | .cardIn p media capacity => Sys2Proof.Machine.execCardIn p media capacity s
  | .identityTimerExpiry p => Sys2Proof.Machine.execIdentityTimerExpiry p s
  | .cardOut p => Sys2Proof.Machine.execCardOut p s
  | .readerSlotNotSeated p => Sys2Proof.Machine.execReaderSlotNotSeated p s
  | .readerData p bytes => Sys2Proof.Machine.execReaderData p bytes s
  | .readerError p => Sys2Proof.Machine.execReaderError p s
  | .readerTimerExpiry p => Sys2Proof.Machine.execReaderTimerExpiry p s
  | .driveDone d bytes => Sys2Proof.Machine.execDriveDone d bytes s
  | .driveRetry d => Sys2Proof.Machine.execDriveRetry d s
  | .driveFail d => Sys2Proof.Machine.execDriveFail d s
  | .driveIn d capacity => Sys2Proof.Machine.execDriveIn d capacity s
  | .driveOut d => Sys2Proof.Machine.execDriveOut d s
  | .responseTimerExpiry d => Sys2Proof.Machine.execResponseTimerExpiry d s

end Sys2Proof.Machine
end

