-- ==== Sys2Proof/Safety.lean ====
section
/-! DEFINITION. Safety.lean: what the claims about the engine are stated in.

`Completes` says that a command answers a next state.  The other predicates are the invariants the manual states for
the engine's records; each is kept by every step, from any state. -/

namespace Sys2Proof.Machine

/-- A command or an event answers a next state. -/
def Completes (o : Host.Outcome State Fault Refusal) : Prop := ∃ t, o = .next t

/-- A command or an event answers a next state that satisfies `P`. -/
def LeadsTo (o : Host.Outcome State Fault Refusal) (P : State → Prop) : Prop := ∃ t, o = .next t ∧ P t

/-- A property every step keeps: if the step answers a next state, that state has it too. -/
def KeptByStep (P : State → Prop) : Prop := ∀ s t, P s → step s = .next t → P t

/-- The alarm line stands at the level R156 gives, and the class of a captured occurrence is flagged (R154). -/
def FaultUnit.Sound (u : FaultUnit) : Prop :=
  u.alarm = u.formAlarm ∧ ∀ o, u.capture = some o → u.flag o.cls = true

/-- An arbiter's rotation list holds each of the 17 write requesters once, and its write-grant count is 0 to 3 (R97). -/
def Arbiter.Sound (a : Arbiter) : Prop := a.rotation.Perm allWriters ∧ a.grants ≤ 3

/-- A binding's bump pointers stand between their starts and their ends (R75, R87). -/
def Binding.Sound (b : Binding) : Prop :=
  b.firstUnit ≤ b.nextUnit ∧ b.nextUnit ≤ b.dataUnits ∧ b.firstTrailer ≤ b.nextTrailer ∧ b.nextTrailer ≤ b.strip

/-- A destination port's arbiter, binding and catch-up lane keep within their rules (R60, R75, R97). -/
def DestPort.Sound (x : DestPort) : Prop :=
  x.arb.Sound ∧ (∀ b, x.binding = some b → b.Sound) ∧ x.lane.held ≤ laneLimit

/-- Every slot is either once on the free list or held, and not both (R58, R59); the table of held slots is in its
canonical form. -/
def Ring.Sound (r : Ring) : Prop :=
  Table.wf r.held = true ∧ (r.freeList ++ r.held.map Prod.fst).Perm (List.range slotCount)

/-- At most 32 notices stand in the outbound queue (R177). -/
def Link.Sound (l : Link) : Prop := l.noticesQueued ≤ noticePlaces

/-- The manifest queue holds at most 512 records (R144). -/
def Manifest.Sound (m : Manifest) : Prop := m.queue.length ≤ manifestPlaces

/-- No STAGED slot has an empty pending set (R58). -/
def State.StagedAreNeeded (s : State) : Prop :=
  ∀ n y, (n, y) ∈ s.ring.held → y.state = .staged → y.pending ≠ []

/-- The held-slot count of a requester (R60). -/
def State.heldCount (s : State) : Requester → Nat
  | .job j => (s.job j).held
  | .lane d => (s.dest d).lane.held

/-- The ring is sound, every requester's held-slot count is the number of slots it owns, and a FREE job record counts
none (R1, R60). -/
def State.CountsAgree (s : State) : Prop :=
  s.ring.Sound ∧ (∀ r, s.heldCount r = (s.ring.held.filter fun (_, y) => decide (y.owner = r)).length)
    ∧ ∀ j, (s.job j).state = .free → (s.job j).held = 0

/-- Bound ports and their jobs name each other: a port is BOUND to a job exactly when the job's bound port is that port
(R21); a FREE job record names no port (R1), and a BOUND port is enabled and names a job (R21, R23). -/
def State.BindingsAgree (s : State) : Prop :=
  (∀ p j, ((s.port p).state = .bound ∧ (s.port p).boundJob = some j) ↔ (s.job j).boundPort = some p)
    ∧ (∀ j, (s.job j).state = .free → (s.job j).boundPort = none)
    ∧ ∀ p, (s.port p).state = .bound → (s.port p).enabled = true ∧ (s.port p).boundJob.isSome

/-- Every port's lamp value is the one R43 forms. -/
def State.LampsFormed (s : State) : Prop := ∀ p, (s.port p).lamp = s.formLamp p

/-- No catch-up lane holds a copy: none waits for its turn and none is current (R120). -/
def State.LanesIdle (s : State) : Prop := ∀ d, (s.dest d).lane.copies = [] ∧ (s.dest d).lane.current = none

/-- The bytes of the bulk-out pipe taken one after the other, stopping where one does not answer a next state. -/
def feedBytes : List Byte → State → Host.Outcome State Fault Refusal
  | [], s => .next s
  | b :: bs, s =>
    match exec (.bulkOutByte b) s with
    | .next t => feedBytes bs t
    | .fault r => .fault r
    | .refused r => .refused r

/-- The parser between frames: in HUNT with an empty buffer and the stall timer stopped (R169, R170). -/
def Link.Hunting (l : Link) : Prop := l.parser = .hunt ∧ l.buf = [] ∧ l.stall = false

/-! ## What a request leaves in the link controller -/

/-- The state with a request taken into entry `e`, its reply owed (R173). -/
def State.owing (s : State) (e : EntryNo) (tag : Byte) (code : Nat) : State :=
  { s with link := { s.link with table := s.link.table.set e (some ⟨tag, code, false⟩) } }

/-- The state with a request taken into entry `e` and answered at once: its entry is queued and its reply stands at the
tail of the outbound queue (R173, R176).  Nothing else differs. -/
def State.answered (s : State) (e : EntryNo) (tag : Byte) (code : Nat) (st : Status) (payload : List Byte) : State :=
  { s with
    link :=
      { s.link with
        table := s.link.table.set e (some ⟨tag, code, true⟩)
        outq := s.link.outq ++ [replyFrame (.reply e) tag st payload] } }

/-- From `s` to `t` the link controller took a request into entry `e` and answered it OK with `payload`; before the
reply it queued at most notices (R163, R176).  Parser and refusal place are as they were. -/
def Link.AnswersTo (l m : Link) (e : EntryNo) (tag : Byte) (code : Nat) (payload : List Byte) : Prop :=
  m.table = l.table.set e (some ⟨tag, code, true⟩) ∧ m.parser = l.parser ∧ m.buf = l.buf ∧ m.stall = l.stall
    ∧ m.refusal = l.refusal
    ∧ ∃ notices, (∀ f ∈ notices, f.owner = .notice)
        ∧ m.outq = l.outq ++ notices ++ [replyFrame (.reply e) tag .ok payload]

/-- From `l` to `m` the link controller queued at most notices (R163, R177). -/
def Link.OnlyNotices (l m : Link) : Prop :=
  m.table = l.table ∧ m.parser = l.parser ∧ m.buf = l.buf ∧ m.stall = l.stall ∧ m.refusal = l.refusal
    ∧ ∃ notices, (∀ f ∈ notices, f.owner = .notice) ∧ m.outq = l.outq ++ notices

/-! ## What lamps, arbiters and reader links leave alone -/

/-- The same card port, but for its lamp and the request it may have issued. -/
def CardPort.SameCard (x y : CardPort) : Prop :=
  y.enabled = x.enabled ∧ y.state = x.state ∧ y.identity = x.identity ∧ y.boundJob = x.boundJob ∧ y.fifo = x.fifo
    ∧ y.identityTimer = x.identityTimer ∧ y.released = x.released

/-- The same destination port, but for the request it may have issued and the arbiter's turn. -/
def DestPort.SameDrive (x y : DestPort) : Prop :=
  y.present = x.present ∧ y.capacity = x.capacity ∧ y.outSinceIn = x.outSinceIn ∧ y.state = x.state
    ∧ y.binding = x.binding ∧ y.wq = x.wq ∧ y.cq = x.cq ∧ y.lane = x.lane ∧ y.rl.jobs = x.rl.jobs
    ∧ y.rl.sum = x.rl.sum ∧ y.arb.lock = x.arb.lock

/-- The blocks that neither lamps nor links touch are the same. -/
def State.SameBooks (s t : State) : Prop :=
  t.jobs = s.jobs ∧ t.clips = s.clips ∧ t.ring = s.ring ∧ t.plan = s.plan ∧ t.manifest = s.manifest
    ∧ t.faults = s.faults ∧ t.pending = s.pending

/-- The end of an event after its last effect: the lamps formed, then the arbiters and the reader links served (R32,
R99, R164). -/
def State.closeEvent (s : State) : State := s.refreshLamps.serveLinks

end Sys2Proof.Machine
end

