-- ==== Sys2Proof/Certificates/Slice0/Obligations.lean ====
section
/-! DEFINITION. Obligations.lean: the statements for the provers.

`s.link.freeEntry = some e` reads: the outstanding-request table has a free entry, `e` is the lowest-numbered one.
`s.quiet` is `s` with nothing on the lines, which is how every command begins; `answered` is a request taken into its
entry and answered at once; `closeEvent` is the end of an event after its last effect: lamps, arbiters, reader
links. -/

open Sys2Proof Sys2Proof.Machine

/-! ## The queue of commands, and the frames of the control link -/

/-- One step is the command at the front of the queue, run on the state with the rest of the queue.  An empty queue
leaves the block as it is: the model's choice, notes/assumptions/2.md. -/
def Obligations.StepRunsFrontCommand : Prop :=
  (∀ (c : Instr) (q : List Instr) (s : State), step { s with pending := c :: q } = exec c { s with pending := q })
    ∧ ∀ s : State, s.pending = [] → step s = .next s

/-- The frame of every well-formed request, sent byte by byte to a parser that stands between frames, brings about
exactly that request (sections 11.2 to 11.4, 11.7). -/
def Obligations.FrameRunsItsRequest : Prop :=
  ∀ (i : Instr) (bytes : List Byte) (s : State), i.wellFormed = true → requestFrame i = some bytes → s.link.Hunting →
    feedBytes bytes s = exec i s

/-- The layouts of section 11.7 lose no field: what the engine reads from the code, tag and payload of a well-formed
request is that request, and the payload fits a frame. -/
def Obligations.RequestsReadAsWritten : Prop :=
  ∀ (i : Instr) (code : Nat) (tag : Byte) (payload : List Byte), i.wellFormed = true →
    encodeRequest i = some (code, tag, payload) →
      decodeRequest code tag payload = .good i ∧ code < 64 ∧ payload.length ≤ 4096

/-- Words of section 11.7 written out, one for each family of requests, and the CRC's worked values (R168). -/
def Obligations.RequestWords : Prop :=
  Bytes.crc [0x31, 0x32, 0x33, 0x34, 0x35, 0x36, 0x37, 0x38, 0x39] = 0x29B1#16
    ∧ frameBytes 0x01 0x05 [] = [0xB5, 0x4A, 0x01, 0x05, 0x00, 0x00, 0x19, 0x84]
    ∧ decodeRequest 0x01 5 [] = .good (.identify 5)
    ∧ decodeRequest 0x08 1 [2, 1, 1, 2, 0] = .good (.planSet 1 2 1 1 2 0)
    ∧ decodeRequest 0x10 2 [3, 1, 2, 0, 0, 0, 0, 4, 0, 1, 0, 0, 0, 0, 1, 0, 0, 7, 0, 9, 0, 0, 0, 0, 0, 5, 0, 0, 0]
        = .good (.destBind 2 3 513 65540 256 7 9 5)
    ∧ decodeRequest 0x18 3 [7, 0, 0, 1, 0, 0, 0, 8] = .good (.sectorRead 3 7 65536 8)
    ∧ decodeRequest 0x21 4 [2, 1, 10, 0, 0, 0, 0, 1, 2, 0x41, 0x42, 5, 0, 0, 0, 0, 0, 1, 0, 0, 0]
        = .good (.clipAdd 4 2 [⟨10, [0x41, 0x42], [⟨5, 1⟩]⟩])
    ∧ decodeRequest 0x22 5 [3, 0x10, 0x01, 0] = .good (.jobStart 5 3 272 0)
    ∧ decodeRequest 0x28 6 [1, 0x50, 0x7A, 0x76, 0x60, 10, 0, 0, 0, 0]
        = .good (.clipQuery 6 (.byTag 0x507A7660 10))
    ∧ decodeRequest 0x2B 7 [0x34, 0x02, 1] = .good (.copyAdd 7 564 1)
    ∧ decodeRequest 0x30 8 [8] = .good (.manifestRead 8 8)
    ∧ decodeRequest 0x3A 9 [8, 3] = .good (.faultRoute 9 8 3)

/-- With all eight entries in use, a request other than RESET is turned away: a BUSY reply with its tag takes an empty
refusal place and joins the queue; with the place full nothing happens.  No other state changes (section 11.4). -/
def FullTableTurnsRequestsAway : Prop :=
  ∀ (i : Instr) (code : Nat) (tag : Byte) (payload : List Byte) (s : State),
    encodeRequest i = some (code, tag, payload) → code ≠ 0x03 → (∀ e : EntryNo, (s.link.table[e]).isSome) →
      exec i s = .next
        (if s.link.refusal.isSome then s.quiet
         else
          { s.quiet with
            link := { s.link with refusal := some tag, outq := s.link.outq ++ [⟨.busy, 0x48, tag, []⟩] } })

/-- The requests of fixed layout with their payload lengths (section 11.7). -/
def fixedLayouts : List (Nat × Nat) :=
  [(0x01, 0), (0x02, 0), (0x03, 0), (0x08, 5), (0x09, 0), (0x0A, 0), (0x10, 29), (0x11, 1), (0x12, 1), (0x18, 8),
   (0x20, 1), (0x22, 4), (0x23, 1), (0x24, 1), (0x25, 1), (0x26, 1), (0x27, 1), (0x29, 2), (0x2A, 2), (0x2B, 3),
   (0x30, 1), (0x38, 0), (0x39, 1), (0x3A, 2)]

/-- The form checks of a complete request frame: a code that section 11.7 does not list is answered UNKNOWN, a payload
of another length than its code's fixed layout MALFORMED, from the request's entry; nothing else changes.  A malformed
RESET that finds no entry free changes nothing (sections 11.4, 11.6). -/
def BadFormsAreAnswered : Prop :=
  (∀ (code : Nat) (tag : Byte) (payload : List Byte) (s : State) (e : EntryNo), s.link.freeEntry = some e →
      (code ∉ fixedLayouts.map Prod.fst ∧ code ≠ 0x21 ∧ code ≠ 0x28 →
        admitRequest code tag payload s = .next (s.answered e tag code .unknown []))
      ∧ ∀ n, (code, n) ∈ fixedLayouts → payload.length ≠ n →
          admitRequest code tag payload s = .next (s.answered e tag code .malformed []))
    ∧ ∀ (tag : Byte) (payload : List Byte) (s : State), s.link.freeEntry = none → payload ≠ [] →
        admitRequest 0x03 tag payload s = .next s

/-- What a request meets before its owner: a full table, and the form check (sections 11.4, 11.6, 11.7). -/
def Obligations.RequestsAreAdmitted : Prop := FullTableTurnsRequestsAway ∧ BadFormsAreAnswered

/-- HUNT and MARK, byte by byte (R169): in HUNT every byte but 0xB5 is discarded, and 0xB5 goes to MARK; in MARK 0x4A
begins a frame with an empty buffer and the stall timer started, 0xB5 stays, any other byte goes back to HUNT. Nothing
else changes, and no fault is raised. -/
def HuntAndMark : Prop :=
  ∀ (b : Byte) (s : State), s.link.buf = [] → s.link.stall = false →
    (s.link.parser = .hunt →
      exec (.bulkOutByte b) s = .next
        { s.quiet with link := { s.link with parser := if b = 0xB5 then .mark else .hunt } })
    ∧ (s.link.parser = .mark →
      exec (.bulkOutByte b) s = .next
        { s.quiet with
          link :=
            { s.link with
              parser := if b = 0x4A then .head else if b = 0xB5 then .mark else .hunt
              stall := decide (b = 0x4A) } })

/-- The payload length in the header of a frame buffer: the third and fourth bytes, least significant first. -/
def announced (buf : List Byte) : Nat := (buf.getD 2 0).toNat + 256 * (buf.getD 3 0).toNat

/-- HEAD, BODY and CHECK, byte by byte (section 11.3): each byte joins the buffer and restarts the timer; the fourth
byte of HEAD ends the frame (a length over 4096), or leads to CHECK (0) or BODY; the last payload byte leads to CHECK;
a frame whose check disagrees is discarded and raises LINK_CHECK with no objects and detail frame check; one that
agrees but is no request is discarded. -/
def FramesAreCollected : Prop :=
  ∀ (b : Byte) (s : State),
    let buf := s.link.buf ++ [b]
    let stay (p : ParserState) : State := { s.quiet with link := { s.link with parser := p, buf := buf, stall := true } }
    let hunt : State := { s.quiet with link := { s.link with parser := .hunt, buf := [], stall := false } }
    (s.link.parser = .head →
      (buf.length < 4 → exec (.bulkOutByte b) s = .next (stay .head))
      ∧ (buf.length = 4 →
          exec (.bulkOutByte b) s = .next
            (if 4096 < announced buf then hunt else if announced buf = 0 then stay .check else stay .body)))
    ∧ (s.link.parser = .body →
        exec (.bulkOutByte b) s = .next (if buf.length < 4 + announced buf then stay .body else stay .check))
    ∧ (s.link.parser = .check →
      (buf.length < 6 + announced buf → exec (.bulkOutByte b) s = .next (stay .check))
      ∧ (buf.length = 6 + announced buf →
          (buf.drop (4 + announced buf) ≠ Bytes.be 2 (Bytes.crc (buf.take (4 + announced buf))).toNat →
            exec (.bulkOutByte b) s = .next (hunt.raise ⟨.linkCheck, none, none, none, none, .frameCheck⟩))
          ∧ (buf.drop (4 + announced buf) = Bytes.be 2 (Bytes.crc (buf.take (4 + announced buf))).toNat →
              64 ≤ (buf.getD 0 0).toNat → exec (.bulkOutByte b) s = .next hunt)))

/-- STALL_TIMER_EXPIRY (section 11.3): the frame in progress is discarded, the parser goes to HUNT and the timer
stops; no reply, no fault.  An expiry that finds the timer stopped changes nothing: the model's choice,
notes/assumptions/10.md. -/
def StallTimerDiscardsTheFrame : Prop :=
  ∀ s : State,
    exec .stallTimerExpiry s = .next
      (if s.link.stall then { s.quiet with link := { s.link with parser := .hunt, buf := [], stall := false } }
       else s.quiet)

/-- FRAME_TAKEN_BULK_IN (sections 11.4, 11.5): the oldest frame leaves the queue and stands on the pipe; a reply frees
its entry, the BUSY reply empties the refusal place.  With no frame waiting nothing happens. -/
def BulkInTakesTheOldestFrame : Prop :=
  ∀ s : State,
    (s.link.outq = [] → exec .frameTakenBulkIn s = .next s.quiet)
    ∧ ∀ (f : OutFrame) (rest : List OutFrame), s.link.outq = f :: rest →
        exec .frameTakenBulkIn s = .next
          { s with
            lines := [.bulkIn (frameBytes f.kind f.tag f.payload)]
            link :=
              { s.link with
                outq := rest
                table := match f.owner with
                  | .reply e => s.link.table.set e none
                  | .busy => s.link.table
                  | .notice => s.link.table
                refusal := if f.owner = .busy then none else s.link.refusal } }

/-- The link's own events: a byte of the bulk-out pipe in each parser state, the stall timer's expiry, and a frame
taken from the bulk-in pipe (sections 11.3 to 11.5). -/
def Obligations.LinkTakesAndGivesBytes : Prop :=
  HuntAndMark ∧ FramesAreCollected ∧ StallTimerDiscardsTheFrame ∧ BulkInTakesTheOldestFrame

/-! ## IDENTIFY, STATUS and the two resets -/

/-- IDENTIFY (R178): OK, with "BREDSHOLT" and "WEZPIN OE16" in ASCII, each zero-padded to 16 bytes, revision 1, the
number of enabled card ports and 4 destination ports; nothing else changes. -/
def Obligations.IdentifyAnswers : Prop :=
  ∀ (tag : Byte) (s : State) (e : EntryNo), s.link.freeEntry = some e →
    exec (.identify tag) s = .next (s.quiet.answered e tag 0x01 .ok
      ([0x42, 0x52, 0x45, 0x44, 0x53, 0x48, 0x4F, 0x4C, 0x54, 0, 0, 0, 0, 0, 0, 0,
        0x57, 0x45, 0x5A, 0x50, 0x49, 0x4E, 0x20, 0x4F, 0x45, 0x31, 0x36, 0, 0, 0, 0, 0,
        1, BitVec.ofNat 8 (allPorts.filter fun p => (s.port p).enabled).length, 4]))

/-- STATUS (section 11.6): OK, with the 56 bytes of its table formed from every block at the moment the request is
taken, this request counted among the outstanding ones; then the notice-overflow flag is cleared.  Nothing else
changes. -/
def Obligations.StatusAnswers : Prop :=
  ∀ (tag : Byte) (s : State) (e : EntryNo), s.link.freeEntry = some e →
    let two (x : Nat) : List Byte := [BitVec.ofNat 8 x, BitVec.ofNat 8 (x / 256)]
    let inUse := (allEntries.filter fun f => decide (f = e) || (s.link.table[f]).isSome).length
    let notices := (s.link.outq.filter fun f => decide (f.owner = .notice)).length
    let slots (x : SlotState) := (s.ring.held.filter fun y => decide (y.2.state = x)).length
    let payload : List Byte :=
      [BitVec.ofNat 8 inUse, if s.link.overflow then 1 else 0, BitVec.ofNat 8 notices]
        ++ allPorts.map (fun p => if (s.port p).enabled then BitVec.ofNat 8 (s.port p).state.code else 255)
        ++ allPorts.map (fun p => BitVec.ofNat 8 (s.port p).lamp.code)
        ++ allDests.map (fun d => BitVec.ofNat 8 (s.dest d).state.code)
        ++ allJobs.map (fun j => BitVec.ofNat 8 (s.job j).state.code)
        ++ two s.ring.freeList.length ++ two (slots .filling) ++ two (slots .staged)
        ++ [BitVec.ofNat 8 s.ring.waitList.length]
        ++ allDests.map (fun d => BitVec.ofNat 8 (s.dest d).lane.held)
        ++ two s.manifest.queue.length ++ two s.manifest.deferred.length
        ++ [if s.faults.alarm then 1 else 0, BitVec.ofNat 8 (allPorts.filter fun p => (s.port p).enabled).length]
    payload.length = 56
      ∧ ∃ t, exec (.status tag) s = .next t
          ∧ t = (let a := s.quiet.answered e tag 0x02 .ok payload
                 { a with link := { a.link with overflow := false } })

/-- RESET, in any state of the table (chapter 1, "Reset"; sections 2.9, 4.12, 5.9, 6.6, 8.6, 9.5, 10.7, 11.6, 11.8).
The model's choices in it: the commands waiting stay (notes/assumptions/27.md), a port's memory of a DRIVE_OUT is kept
with its drive (7.md), and what the count of summed bytes and an empty lane hold (33.md).  The rules give the rest:
every job FREE, no clip, every slot FREE in rising order, plan kept, manifest empty, flags and capture and alarm
cleared with the routes kept, the RESET reply alone in the queue and in entry 0; seated cards of enabled ports
identified again; destinations keep drive, binding and state, with queues, lanes and arbiter empty and an outstanding
request abandoned. -/
def Obligations.SoftResetInEveryBlock : Prop :=
  ∀ (tag : Byte) (s : State), ∃ t, exec (.reset tag) s = .next t
    ∧ (∀ j, t.job j = Job.free) ∧ t.clips = []
    ∧ t.ring = { freeList := List.range 2048, held := [], waitList := [] }
    ∧ t.plan = s.plan ∧ t.manifest = { queue := [], deferred := [] } ∧ t.pending = s.pending
    ∧ (∀ c, t.faults.flag c = false ∧ t.faults.route c = s.faults.route c)
    ∧ t.faults.capture = none ∧ t.faults.alarm = false
    ∧ t.link =
      { parser := .hunt, buf := [], stall := false, table := #v[some ⟨tag, 0x03, true⟩, none, none, none, none, none, none, none]
        refusal := none, outq := [⟨.reply 0, 0x40, tag, []⟩], overflow := false }
    ∧ (∀ p, t.port p =
        if (s.port p).enabled then
          { s.port p with
            state := if (s.port p).state = .empty then .empty else .mounting
            identity := none, boundJob := none, fifo := [], abandoned := (s.port p).outstanding.isSome
            identityTimer := decide ((s.port p).state ≠ .empty), released := none
            lamp := if (s.port p).state = .empty then .off else .amber }
        else s.port p)
    ∧ (∀ d, t.dest d =
        { s.dest d with
          abandoned := (s.dest d).outstanding.isSome, wq := Vector.replicate 16 [], cq := [], lane := Lane.empty
          rl := ReadLane.empty, arb := { rotation := allWriters, lock := none, grants := 0 } })
    ∧ ∀ o, o ∈ t.lines ↔ ∃ p, o = .restartReader p ∧ (s.port p).enabled = true ∧ (s.port p).state ≠ .empty

/-- POWER_ON_RESET (chapter 1, "Reset"; sections 2.9, 4.12, 5.9, 6.6, 8.6, 9.5, 10.7, 11.8).  The model's choices in
it: the commands waiting stay (notes/assumptions/27.md), and what the count of summed bytes and an empty lane hold
(33.md).  The rules give the rest: the strap enables CP0–CP3
or all eight ports; an enabled port with a card seated is MOUNTING with its identity timer running, any other EMPTY;
the plan is R = 2 with every role OFF and unlocked; routes are the defaults; everything else is empty; every enabled
reader link and every drive link is restarted. -/
def Obligations.PowerOnInEveryBlock : Prop :=
  ∀ (strap : Strap) (seated : List PortNo) (s : State), ∃ t, exec (.powerOnReset strap seated) s = .next t
    ∧ (∀ j, t.job j = Job.free) ∧ t.clips = []
    ∧ t.ring = { freeList := List.range 2048, held := [], waitList := [] }
    ∧ t.plan = { r := 2, roles := #v[.off, .off, .off, .off], lock := false }
    ∧ t.manifest = { queue := [], deferred := [] } ∧ t.pending = s.pending
    ∧ t.faults =
      { flags := Vector.replicate 9 false
        routes := #v[.quiet, .quiet, .notice, .notice, .alarm, .notice, .alarm, .notice, .alarm]
        capture := none, alarm := false }
    ∧ t.link =
      { parser := .hunt, buf := [], stall := false, table := Vector.replicate 8 none, refusal := none, outq := []
        overflow := false }
    ∧ (∀ p : PortNo,
        let enabled := decide (strap = .eightPort) || decide (p.val < 4)
        let mounting := enabled && seated.contains p
        t.port p =
          { enabled := enabled, state := if mounting then .mounting else .empty, identity := none, boundJob := none
            fifo := [], outstanding := none, abandoned := false, identityTimer := mounting, readerTimer := false
            released := none, lamp := if mounting then .amber else .off }
        ∧ (.restartReader p ∈ t.lines ↔ enabled = true))
    ∧ ∀ d, .restartDrive d ∈ t.lines
        ∧ (t.dest d).present = false ∧ (t.dest d).capacity = none ∧ (t.dest d).state = .absent
        ∧ (t.dest d).binding = none ∧ (t.dest d).outstanding = none ∧ (t.dest d).abandoned = false
        ∧ (t.dest d).timer = false ∧ (∀ w, (t.dest d).queue w = []) ∧ (t.dest d).lane = Lane.empty
        ∧ (t.dest d).rl = ReadLane.empty ∧ (t.dest d).arb = { rotation := allWriters, lock := none, grants := 0 }

/-! ## The offload plan -/

/-- PLAN_SET (R134): its three refusals in order, and the plan it leaves; the lock is not touched. -/
def PlanSetRules : Prop :=
  ∀ (tag : Byte) (n r0 r1 r2 r3 : Nat) (s : State) (e : EntryNo), s.link.freeEntry = some e →
    let roles := [r0, r1, r2, r3]
    let answer (st : Status) : Host.Outcome State Fault Refusal := .next (s.quiet.answered e tag 0x08 st [])
    let run := exec (.planSet tag n r0 r1 r2 r3) s
    (n = 0 ∨ 4 < n ∨ (∃ r ∈ roles, 2 < r) → run = answer .badParam)
    ∧ (1 ≤ n → n ≤ 4 → (∀ r ∈ roles, r ≤ 2) →
        (s.plan.lock = true → run = answer .locked)
        ∧ (s.plan.lock = false →
            (roles.count 1 < n → run = answer .badParam)
            ∧ (n ≤ roles.count 1 →
                ∃ a b c d, roleOf r0 = some a ∧ roleOf r1 = some b ∧ roleOf r2 = some c ∧ roleOf r3 = some d
                  ∧ run = .next
                    { s.quiet.answered e tag 0x08 .ok
                        [BitVec.ofNat 8 n, BitVec.ofNat 8 r0, BitVec.ofNat 8 r1, BitVec.ofNat 8 r2, BitVec.ofNat 8 r3] with
                      plan := { r := n, roles := #v[a, b, c, d], lock := false } })))

/-- The plan as PLAN_LOCK and PLAN_QUERY carry it: R, the four roles and the lock. -/
def planReport (p : Plan) (lock : Bool) : List Byte :=
  [BitVec.ofNat 8 p.r, BitVec.ofNat 8 p.roles[0].code, BitVec.ofNat 8 p.roles[1].code, BitVec.ofNat 8 p.roles[2].code,
   BitVec.ofNat 8 p.roles[3].code, if lock then 1 else 0]

/-- The number of ports of a role whose destination satisfies a test. -/
def rolesCounted (s : State) (r : Role) (test : DestState → Bool) : Nat :=
  (allDests.filter fun d => decide (s.plan.roles[d] = r) && test (s.dest d).state).length

/-- PLAN_LOCK (R137): the lock becomes set when the mirrors number at least R; with fewer it is refused; with the lock
set nothing changes. -/
def PlanLockRules : Prop :=
  ∀ (tag : Byte) (s : State) (e : EntryNo), s.link.freeEntry = some e →
    let run := exec (.planLock tag) s
    let ok := s.quiet.answered e tag 0x09 .ok (planReport s.plan true)
    (s.plan.lock = true → run = .next ok)
    ∧ (s.plan.lock = false →
        (s.plan.r ≤ rolesCounted s .mirror (fun _ => true) → run = .next { ok with plan := { s.plan with lock := true } })
        ∧ (rolesCounted s .mirror (fun _ => true) < s.plan.r → run = .next (s.quiet.answered e tag 0x09 .wrongState [])))

/-- The two requests that change the plan (sections 8.2, 8.4). -/
def Obligations.PlanRequestRules : Prop := PlanSetRules ∧ PlanLockRules

/-- PLAN_QUERY (R136): OK with the plan and its three counts; nothing changes. -/
def PlanQueryAnswers : Prop :=
  ∀ (tag : Byte) (s : State) (e : EntryNo), s.link.freeEntry = some e →
    exec (.planQuery tag) s = .next (s.quiet.answered e tag 0x0A .ok
      (planReport s.plan s.plan.lock
        ++ [BitVec.ofNat 8 (rolesCounted s .mirror fun _ => true),
            BitVec.ofNat 8 (rolesCounted s .mirror fun x => decide (x = .active)),
            BitVec.ofNat 8 (rolesCounted s .spare fun x => decide (x = .active))]))

/-- The plan lock, once set, stays set until power-on reset, and the plan with it (section 8.4): no step from a state
with the lock set changes the plan unless it is a POWER_ON_RESET. -/
def LockedPlanStays : Prop :=
  ∀ s t : State, s.plan.lock = true → step s = .next t →
    (∀ strap seated rest, s.pending ≠ .powerOnReset strap seated :: rest) → t.plan = s.plan

/-- The strap is sampled at power-on reset and at no other time (section 2.1): no other step enables or disables a
port. -/
def StrapStays : Prop :=
  ∀ s t : State, step s = .next t → (∀ strap seated rest, s.pending ≠ .powerOnReset strap seated :: rest) →
    ∀ p, (t.port p).enabled = (s.port p).enabled

/-- What only power-on reset changes: a locked plan and the strap (sections 2.1, 8.4). -/
def Obligations.StrapAndLockedPlanStay : Prop := LockedPlanStays ∧ StrapStays

/-! ## Faults -/

/-- An occurrence as replies and notices carry it: class, severity, job, clip, destination, port and detail. -/
def occurrenceReport (x : Occurrence) : List Byte :=
  let clip := x.clip.getD 0xFFFF
  [BitVec.ofNat 8 x.cls.code.val, BitVec.ofNat 8 x.cls.severity.code, BitVec.ofNat 8 ((x.job.map (·.val)).getD 255),
   BitVec.ofNat 8 clip, BitVec.ofNat 8 (clip / 256), BitVec.ofNat 8 ((x.dest.map (·.val)).getD 255),
   BitVec.ofNat 8 ((x.port.map (·.val)).getD 255), BitVec.ofNat 8 x.detail.code]

/-- The capture record as replies carry it. -/
def captureReport (o : Option Occurrence) : List Byte :=
  match o with
  | none => [1, 0, 0, 0, 0, 0, 0, 0, 0]
  | some x => 0 :: occurrenceReport x

/-- FAULT_READ (R159): OK with nine flags, nine routes, the capture and the alarm line; nothing changes. -/
def Obligations.FaultReadAnswers : Prop :=
  ∀ (tag : Byte) (s : State) (e : EntryNo), s.link.freeEntry = some e →
    exec (.faultRead tag) s = .next (s.quiet.answered e tag 0x38 .ok
      ((List.finRange 9).map (fun c => if s.faults.flags[c] then 1 else 0)
        ++ (List.finRange 9).map (fun c => BitVec.ofNat 8 (s.faults.routes[c]).code)
        ++ captureReport s.faults.capture ++ [if s.faults.alarm then 1 else 0]))

/-- The alarm line stands asserted exactly while some class is flagged and routed ALARM (R156). -/
def AlarmFormed (u : FaultUnit) : Prop := u.alarm = true ↔ ∃ c, u.flag c = true ∧ u.route c = .alarm

/-- FAULT_CLEAR (R160): BAD_PARAM for a code of 9 or more; else the flag of the class is cleared, a capture of that
class emptied, the alarm line re-formed, and nothing else changed but for the reply with flags and capture. -/
def FaultClearRules : Prop :=
  ∀ (tag : Byte) (n : Nat) (s : State) (e : EntryNo), s.link.freeEntry = some e →
    (9 ≤ n → exec (.faultClear tag n) s = .next (s.quiet.answered e tag 0x39 .badParam []))
    ∧ ∀ c : FaultClass, c.code.val = n →
        ∃ u, exec (.faultClear tag n) s = .next
            { s.quiet.answered e tag 0x39 .ok
                ((List.finRange 9).map (fun x => if u.flags[x] then 1 else 0) ++ captureReport u.capture) with faults := u }
          ∧ u.flag c = false ∧ (∀ x, x ≠ c → u.flag x = s.faults.flag x) ∧ u.routes = s.faults.routes
          ∧ u.capture = (s.faults.capture.filter fun o => decide (o.cls ≠ c)) ∧ AlarmFormed u

/-- FAULT_ROUTE (R161): BAD_PARAM for a class of 9 or more or a route of 4 or more; else the class's route becomes the
one named, the alarm line is re-formed, and nothing else changes but for the reply with the routes. -/
def FaultRouteRules : Prop :=
  ∀ (tag : Byte) (n r : Nat) (s : State) (e : EntryNo), s.link.freeEntry = some e →
    (9 ≤ n ∨ 4 ≤ r → exec (.faultRoute tag n r) s = .next (s.quiet.answered e tag 0x3A .badParam []))
    ∧ ∀ (c : FaultClass) (x : Route), c.code.val = n → x.code = r →
        ∃ u, exec (.faultRoute tag n r) s = .next
            { s.quiet.answered e tag 0x3A .ok ((List.finRange 9).map fun k => BitVec.ofNat 8 (u.routes[k]).code) with
              faults := u }
          ∧ u.route c = x ∧ (∀ y, y ≠ c → u.route y = s.faults.route y) ∧ u.flags = s.faults.flags
          ∧ u.capture = s.faults.capture ∧ AlarmFormed u

/-- The two requests that change the fault unit (section 10.4). -/
def Obligations.FaultRequestRules : Prop := FaultClearRules ∧ FaultRouteRules

/-- A fault occurrence (sections 10.1 to 10.3): its flag is set and no other changes; the capture takes it when it is
empty, or when it holds a recovered fault and a lasting one is offered; the alarm line is re-formed; routes, clips,
destinations, plan, manifest and every slot stay as they are. -/
def OccurrenceIsTaken : Prop :=
  ∀ (s : State) (o : Occurrence),
    let t := s.raise o
    t.faults.flag o.cls = true ∧ (∀ c, c ≠ o.cls → t.faults.flag c = s.faults.flag c)
    ∧ t.faults.capture =
        (match s.faults.capture with
         | none => some o
         | some h => if h.cls.severity = .recovered ∧ o.cls.severity = .lasting then some o else some h)
    ∧ AlarmFormed t.faults ∧ t.faults.routes = s.faults.routes
    ∧ t.clips = s.clips ∧ t.dests = s.dests ∧ t.ports = s.ports ∧ t.plan = s.plan ∧ t.manifest = s.manifest
    ∧ t.ring.held = s.ring.held ∧ t.ring.freeList = s.ring.freeList ∧ s.link.OnlyNotices t.link

/-- Job `j` has something left to read at its read position: a LISTED clip, or units of a READING one. -/
def ReadsOn (s : State) (j : JobNo) : Prop :=
  ∃ c x, (s.job j).clips[(s.job j).readPos.clip]? = some c ∧ s.clip? c = some x
    ∧ (x.state = .listed ∨ (x.state = .reading ∧ 0 < x.length))

/-- The HOLD route (section 10.3): at an occurrence of a class routed HOLD, a RUNNING job has its pause-pending flag
set with cause HOLD and is PAUSED at once when no slot is being filled for it; a PULLED job that was to run again is
to be PAUSED again, with cause HOLD; every other job is as it was.  A job whose clip is ending at that very event
keeps the flag until that end: notes/assumptions/18.md. -/
def HoldStopsTheIntake : Prop :=
  ∀ (s : State) (o : Occurrence) (j : JobNo), s.faults.route o.cls = .hold →
    let x := s.job j
    let filling := ∃ n y, (n, y) ∈ s.ring.held ∧ y.state = .filling ∧ y.owner = .job j
    (x.state = .running →
      (filling ∨ ¬ReadsOn s j → (s.raise o).job j = { x with pausePending := true, pauseCause := some .hold })
      ∧ (¬filling → ReadsOn s j →
          (s.raise o).job j = { x with state := .paused, pausePending := false, pauseCause := some .hold }))
    ∧ (x.state = .pulled → x.resumeTarget = some .running →
        (s.raise o).job j = { x with resumeTarget := some .paused, pauseCause := some .hold })
    ∧ (x.state ≠ .running → ¬(x.state = .pulled ∧ x.resumeTarget = some .running) → (s.raise o).job j = x)

/-- A fault occurrence, and what the HOLD route does to the jobs (sections 10.1 to 10.3). -/
def Obligations.OccurrencesAndTheHoldRoute : Prop := OccurrenceIsTaken ∧ HoldStopsTheIntake

/-- `m` is the link controller `l` handed one notice (section 11.5): its frame is the last of the queue, or, with 32
notices queued already, it is dropped and the overflow flag set. -/
def Noticed (l m : Link) (kind : Byte) (payload : List Byte) : Prop :=
  m = if (l.outq.filter fun f => decide (f.owner = .notice)).length < 32 then
        { l with outq := l.outq ++ [⟨.notice, kind, 0, payload⟩] }
      else { l with overflow := true }

/-- What the routes send (section 10.3): NOTICE a FAULT_RAISED with the occurrence and its captured mark, set when the
occurrence now stands in the capture record, whether or not its flag was set before; QUIET and ALARM nothing.  None of
the three changes a job. -/
def RoutesSendNotices : Prop :=
  ∀ (s : State) (o : Occurrence),
    let t := s.raise o
    let taken := s.faults.capture = none
      ∨ ∃ h, s.faults.capture = some h ∧ h.cls.severity = .recovered ∧ o.cls.severity = .lasting
    (s.faults.route o.cls = .notice →
      (taken → Noticed s.link t.link 0x85 (occurrenceReport o ++ [1]))
      ∧ (¬taken → Noticed s.link t.link 0x85 (occurrenceReport o ++ [0])) ∧ t.jobs = s.jobs ∧ t.ring = s.ring)
    ∧ (s.faults.route o.cls = .quiet ∨ s.faults.route o.cls = .alarm →
        t.link = s.link ∧ t.jobs = s.jobs ∧ t.ring = s.ring)

/-- Whenever the capture is not empty the flag of its class is set, and the alarm line stands at the level its rule
gives: every step keeps both (sections 10.2, 10.3). -/
def Obligations.FaultUnitStaysSound : Prop := KeptByStep fun s => s.faults.Sound

/-! ## Destinations: bindings, drives and allocation -/

/-- A live copy stands on destination `d`. -/
def LiveCopyOn (s : State) (d : DestNo) : Prop :=
  ∃ c x k, (c, x) ∈ s.clips ∧ x.copies[d] = some k ∧ k.state.live = true

/-- A destination is in use: ACTIVE or FULL. -/
def InUse (x : DestPort) : Prop := x.state = .active ∨ x.state = .full

/-- DEST_BIND (section 5.4): its refusals in their order. -/
def DestBindRefusals : Prop :=
  ∀ (tag : Byte) (n a area strip spare u0 t0 : Nat) (s : State) (e : EntryNo), s.link.freeEntry = some e →
    let run := exec (.destBind tag n a area strip spare u0 t0) s
    let answer (st : Status) : Host.Outcome State Fault Refusal := .next (s.quiet.answered e tag 0x10 st [])
    (4 ≤ n → run = answer .noSuch)
    ∧ ∀ d : DestNo, d.val = n →
        ((s.dest d).present = false → run = answer .wrongState)
        ∧ ((s.dest d).present = true →
            (InUse (s.dest d) → s.plan.lock = true → run = answer .locked)
            ∧ (InUse (s.dest d) → s.plan.lock = false → LiveCopyOn s d → run = answer .wrongState)
            ∧ (¬(InUse (s.dest d) ∧ s.plan.lock = true) → ¬(InUse (s.dest d) ∧ LiveCopyOn s d) →
                (strip = 0 ∨ 65536 < strip ∨ 4096 < spare ∨ (s.dest d).capacity.getD 0 < a + area ∨ area ≤ strip
                  ∨ (area - strip) / 2048 < 1 ∨ (area - strip) / 2048 ≤ spare ∨ (area - strip) / 2048 - spare < u0
                  ∨ strip < t0) → run = answer .badParam))

/-- DEST_BIND taken, with no read job at the port (section 5.4): the binding and its pointers, ACTIVE, the drive as it
was; an outstanding request is abandoned, and then the arbiter stands in its reset state; the reply carries D and C;
the other ports and blocks as they were. -/
def DestBindTaken : Prop :=
  ∀ (tag : Byte) (d : DestNo) (a area strip spare u0 t0 : Nat) (s : State) (e : EntryNo), s.link.freeEntry = some e →
    let x := s.dest d
    let units := (area - strip) / 2048
    x.present = true → (∃ sectors, x.capacity = some sectors ∧ a + area ≤ sectors) →
    (InUse x → s.plan.lock = false ∧ ¬LiveCopyOn s d) → x.rl.jobs = [] →
    1 ≤ strip → strip ≤ 65536 → spare ≤ 4096 → strip < area → spare < units → u0 ≤ units - spare → t0 ≤ strip →
      ∃ t, exec (.destBind tag d.val a area strip spare u0 t0) s = .next t
        ∧ (t.dest d).state = .active
        ∧ (t.dest d).binding = some
            { areaStart := a, area := area, strip := strip, spare := spare, firstUnit := u0, firstTrailer := t0
              nextUnit := u0, nextTrailer := t0 }
        ∧ (t.dest d).present = true ∧ (t.dest d).capacity = x.capacity ∧ (t.dest d).lane = x.lane
        ∧ (∀ w, (t.dest d).queue w = x.queue w)
        ∧ (x.outstanding.isSome → (t.dest d).outstanding = x.outstanding ∧ (t.dest d).abandoned = true
            ∧ (t.dest d).arb = Arbiter.reset)
        ∧ (∀ f, f ≠ d → (s.dest f).SameDrive (t.dest f)) ∧ (∀ p, (s.port p).SameCard (t.port p)) ∧ s.SameBooks t
        ∧ s.link.AnswersTo t.link e tag 0x10 (Bytes.le 6 units ++ Bytes.le 6 (units - spare))

/-- DEST_UNBIND (section 5.4): its refusals in order; taken, with no read job at the port, the binding is absent, the
destination UNBOUND with a drive present and ABSENT without, the arbiter in its reset state, an outstanding request
abandoned, everything else as it was. -/
def DestUnbindRules : Prop :=
  ∀ (tag : Byte) (n : Nat) (s : State) (e : EntryNo), s.link.freeEntry = some e →
    let run := exec (.destUnbind tag n) s
    let answer (st : Status) : Host.Outcome State Fault Refusal := .next (s.quiet.answered e tag 0x11 st [])
    (4 ≤ n → run = answer .noSuch)
    ∧ ∀ d : DestNo, d.val = n →
        let x := s.dest d
        (x.state = .absent ∨ x.state = .unbound → run = answer .wrongState)
        ∧ (InUse x → s.plan.lock = true → run = answer .locked)
        ∧ (InUse x → s.plan.lock = false → LiveCopyOn s d → run = answer .wrongState)
        ∧ (x.state = .lost ∨ (InUse x ∧ s.plan.lock = false ∧ ¬LiveCopyOn s d) → x.rl.jobs = [] →
            ∃ t, run = .next t
              ∧ t.dest d =
                { x with
                  state := if x.present then .unbound else .absent, binding := none
                  abandoned := x.outstanding.isSome, arb := Arbiter.reset }
              ∧ (∀ f, f ≠ d → (s.dest f).SameDrive (t.dest f)) ∧ (∀ p, (s.port p).SameCard (t.port p)) ∧ s.SameBooks t
              ∧ s.link.AnswersTo t.link e tag 0x11 [])

/-! ### Units that a lane sources again -/

/-- The lowest-numbered ACTIVE destination but `d`, none of `out`, with a VERIFIED copy of the clip (section 7.3). -/
def NextSource (s : State) (d : DestNo) (x : Clip) (out : List DestNo) (e : DestNo) : Prop :=
  let fits (f : DestNo) : Prop :=
    f ≠ d ∧ f ∉ out ∧ (s.dest f).state = .active ∧ ∃ k, x.copies[f] = some k ∧ k.state = .verified
  fits e ∧ ∀ f, f < e → ¬fits f

/-- Slot `n` is the one lane `d` fills with unit `k` of clip `c`, and `i` its item in CQ. -/
def Fills (s : State) (d : DestNo) (n c k : Nat) (y : Slot) (i : Item) : Prop :=
  s.slot? n = some y ∧ y.state = .filling ∧ y.owner = .lane d ∧ y.clip = c ∧ y.unit = k
    ∧ ∃ before after, (s.dest d).cq = before ++ i :: after ∧ i.kind = .data n
      ∧ ∀ z, z ∈ before ∨ z ∈ after → z.kind ≠ .data n

/-- From `s` to `t` the unit of slot `n` is sourced again from destination `e`: the slot is empty, its item is `i`, a
SUPPLY job for it joins the tail of the read lane of `e`, and the card-only mark is clear. -/
def SourcedFrom (s t : State) (d : DestNo) (n c k : Nat) (y : Slot) (i i' : Item) (e : DestNo) : Prop :=
  t.slot? n = some { y with data := [] } ∧ (t.dest d).cq = ((s.dest d).cq.map fun z => if z = i then i' else z)
    ∧ (t.dest d).lane = { (s.dest d).lane with cardOnly := false, sum := none }
    ∧ (t.dest e).rl.jobs = (s.dest e).rl.jobs ++ [.supply c k n d]

/-- The owner of a slot does not stand at its limit with a request (section 4.6): a job that is not RUNNING or is below
its quota, a lane without a standing request or below 8. -/
def NotStalled (s : State) : Requester → Prop
  | .job j => (s.job j).state = .running → (s.job j).held < (s.job j).quota
  | .lane f => (s.dest f).lane.standing.isSome → (s.dest f).lane.held < 8

/-- The two requests that end a binding, well-formed for a port with record `x`, each with its code, the payload of its
reply, and the binding and the state it leaves (section 5.4). -/
inductive Rebinds (x : DestPort) (tag : Byte) (d : DestNo) : Instr → Nat → List Byte → Option Binding → DestState → Prop
  | bind (a area strip spare u0 t0 sectors : Nat) : x.present = true → x.capacity = some sectors → a + area ≤ sectors →
      1 ≤ strip → strip ≤ 65536 → spare ≤ 4096 → strip < area → spare < (area - strip) / 2048 →
      u0 ≤ (area - strip) / 2048 - spare → t0 ≤ strip →
      Rebinds x tag d (.destBind tag d.val a area strip spare u0 t0) 0x10
        (Bytes.le 6 ((area - strip) / 2048) ++ Bytes.le 6 ((area - strip) / 2048 - spare))
        (some
          { areaStart := a, area := area, strip := strip, spare := spare, firstUnit := u0, firstTrailer := t0
            nextUnit := u0, nextTrailer := t0 })
        .active
  | unbind : x.state ≠ .absent → x.state ≠ .unbound →
      Rebinds x tag d (.destUnbind tag d.val) 0x11 [] none (if x.present then .unbound else .absent)

/-- DEST_BIND and DEST_UNBIND taken at a port whose read lane holds one SUPPLY job, for lane `f` (sections 5.4, 7.3): the
job ends, the binding and the state follow, an outstanding request is abandoned.  The port is excluded for the unit, and the
lane sources it again: from the card when it is bound and not excluded, else from the next VERIFIED copy; with neither,
and no slot waited for, the copy is suspended and the slot freed. -/
def RebindingMovesSupplies : Prop :=
  ∀ (s : State) (tag : Byte) (e : EntryNo) (d f : DestNo) (command : Instr) (code : Nat) (payload : List Byte)
    (b : Option Binding) (st : DestState) (c k n : Nat) (x : Clip) (y : Slot) (i : Item),
    s.link.freeEntry = some e → Rebinds (s.dest d) tag d command code payload b st →
    (InUse (s.dest d) → s.plan.lock = false ∧ ¬LiveCopyOn s d) → (s.dest d).rl.jobs = [.supply c k n f] → f ≠ d →
    s.clip? c = some x → Fills s f n c k y i →
      let rebound (t : State) : Prop :=
        (t.dest d).binding = b ∧ (t.dest d).state = st ∧ (t.dest d).rl.jobs = []
        ∧ ((s.dest d).outstanding.isSome →
            (t.dest d).outstanding = (s.dest d).outstanding ∧ (t.dest d).abandoned = true ∧ (t.dest d).arb = Arbiter.reset)
        ∧ t.plan = s.plan ∧ t.manifest = s.manifest ∧ t.faults = s.faults ∧ s.link.AnswersTo t.link e tag code payload
      let cardless := (s.job x.job).boundPort = none ∨ i.noCard = true
      (∀ p, (s.job x.job).boundPort = some p → i.noCard = false →
        ∃ t, exec command s = .next t ∧ rebound t ∧ t.jobs = s.jobs ∧ t.ring.freeList = s.ring.freeList
          ∧ t.slot? n = some { y with data := [] }
          ∧ (t.dest f).lane = { (s.dest f).lane with cardOnly := false, sum := none }
          ∧ (t.port p).fifo = (s.port p).fifo ++ ((unitPieces x k).map fun r => ⟨.supply f x.job c k n, r.1, r.2⟩))
      ∧ (∀ g, cardless → NextSource s f x (d :: i.noDests) g →
        ∃ t i', exec command s = .next t ∧ rebound t ∧ t.jobs = s.jobs ∧ t.ring.freeList = s.ring.freeList
          ∧ i'.clip = i.clip ∧ i'.kind = i.kind ∧ i'.retries = i.retries ∧ i'.noCard = i.noCard
          ∧ (∀ h, h ∈ i'.noDests ↔ h = d ∨ h ∈ i.noDests) ∧ SourcedFrom s t f n c k y i i' g)
      ∧ ∀ q, cardless → (∀ g, ¬NextSource s f x (d :: i.noDests) g) → x.copies[f] = some q → i.clip = c →
        (s.dest f).lane.copies = [c] → (s.dest f).lane.current = some c →
        s.ring.Sound → s.ring.waitList = [] → (∀ r, NotStalled s r) →
          ∃ t, exec command s = .next t ∧ rebound t ∧ t.copy? c f = some { q with suspended := true }
            ∧ t.slot? n = none ∧ n ∈ t.ring.freeList ∧ (∀ z ∈ (t.dest f).cq, z.kind ≠ .data n)
            ∧ (t.dest f).lane.copies = [] ∧ (t.dest f).lane.current = none

/-- DEST_BIND, refused and taken, DEST_UNBIND, and the supplies both move (sections 5.4, 7.3). -/
def Obligations.DestRequestRules : Prop :=
  DestBindRefusals ∧ DestBindTaken ∧ DestUnbindRules ∧ RebindingMovesSupplies

/-- The units of a clip of `length` bytes (section 1.6). -/
def clipUnits (length : Nat) : Nat := (length + 1048575) / 1048576

/-- A place for a copy of `n` units (section 5.6): a first attempt on an ACTIVE destination fits below C and below T,
else fills it; on a FULL one it finds no room; a repair fits below D and below T in either state, and a want of
trailers alone fills an ACTIVE destination. -/
def AllocationRules : Prop :=
  ∀ (x : DestPort) (b : Binding) (n : Nat), x.binding = some b →
    let D := (b.area - b.strip) / 2048
    let C := D - b.spare
    (x.state = .active →
      (b.nextUnit + n ≤ C ∧ b.nextTrailer < b.strip → x.allocate 1 n = .placed ⟨b.nextUnit, n⟩ b.nextTrailer)
      ∧ (C < b.nextUnit + n ∨ b.strip ≤ b.nextTrailer → x.allocate 1 n = .noRoom true))
    ∧ (x.state = .full → x.allocate 1 n = .noRoom false)
    ∧ (x.state = .active ∨ x.state = .full →
        (D < b.nextUnit + n → x.allocate 2 n = .noRoom false)
        ∧ (b.nextUnit + n ≤ D → b.nextTrailer < b.strip → x.allocate 2 n = .placed ⟨b.nextUnit, n⟩ b.nextTrailer)
        ∧ (b.nextUnit + n ≤ D → b.strip ≤ b.nextTrailer → x.allocate 2 n = .noRoom (decide (x.state = .active))))

/-- A plan copy on an ACTIVE mirror (sections 2.6, 5.6): placed, it is WRITING in its window and both pointers move
on; with no room it is NO_SPACE without a place, the destination becomes FULL and DEST_FULL is flagged, naming clip
and destination with detail no room.  No other copy, destination, slot or port changes. -/
def PlanCopyIsPlaced : Prop :=
  ∀ (s : State) (c : Nat) (d : DestNo) (x : Clip) (b : Binding), s.clip? c = some x → (s.dest d).state = .active →
    (s.dest d).binding = some b →
    let n := clipUnits x.length
    let C := (b.area - b.strip) / 2048 - b.spare
    let t := s.planCopy c d
    let copy (st : CopyState) (w : Option Window) (i : Option Nat) : Copy :=
      { state := st, origin := .plan, attempt := 1, window := w, trailer := i, written := 0, suspended := false
        readback := none }
    (∀ c' d', ¬(c' = c ∧ d' = d) → t.copy? c' d' = s.copy? c' d')
    ∧ (∀ d', d' ≠ d → t.dest d' = s.dest d') ∧ t.ports = s.ports ∧ t.ring.held = s.ring.held ∧ t.plan = s.plan
    ∧ t.manifest = s.manifest
    ∧ (b.nextUnit + n ≤ C ∧ b.nextTrailer < b.strip →
        t.copy? c d = some (copy .writing (some ⟨b.nextUnit, n⟩) (some b.nextTrailer))
        ∧ t.dest d =
          { s.dest d with
            binding := some { b with nextUnit := b.nextUnit + n, nextTrailer := b.nextTrailer + 1 } }
        ∧ t.faults = s.faults ∧ t.link = s.link ∧ t.jobs = s.jobs)
    ∧ (C < b.nextUnit + n ∨ b.strip ≤ b.nextTrailer →
        t.copy? c d = some (copy .noSpace none none) ∧ t.dest d = { s.dest d with state := .full }
        ∧ t.faults = s.faults.take ⟨.destFull, some x.job, some c, some d, none, .noRoom⟩)

/-- The places of copies: the pointers' rule, and a plan copy under it (sections 2.6, 5.6). -/
def Obligations.PlacesAreAllocated : Prop := AllocationRules ∧ PlanCopyIsPlaced

/-- DRIVE_IN at a destination that is not in use, or with the capacity already held (section 5.3): presence and
capacity recorded, ABSENT becomes UNBOUND, the first one after a DRIVE_OUT restarts the link, a change is announced;
nothing else changes. -/
def DriveInRules : Prop :=
  ∀ (d : DestNo) (capacity : Nat) (s : State),
    let x := s.dest d
    let y : DestPort :=
      { x with
        present := true, capacity := some capacity, outSinceIn := false
        state := if x.state = .absent then .unbound else x.state }
    x.state = .absent ∨ x.state = .unbound ∨ x.state = .lost ∨ x.capacity = some capacity →
    (x.state ≠ .absent → x.capacity = some capacity → x.present = true) →
      ∃ t, exec (.driveIn d capacity) s = .next t ∧ t.dest d = y ∧ (∀ f, f ≠ d → t.dest f = s.dest f)
        ∧ t.ports = s.ports ∧ s.SameBooks t ∧ t.lines = (if x.outSinceIn then [.restartDrive d] else [])
        ∧ t.link =
          (if x.state ≠ .absent ∧ x.capacity = some capacity then s.link
           else s.link.queueNotice ((Notice.destChange d).frame t))

/-- DRIVE_OUT at a destination that is not in use (section 5.3): ABSENT ignores it, UNBOUND becomes ABSENT with an
outstanding request cleared, LOST keeps state and binding; presence and capacity go, a change is announced, nothing
else changes. -/
def DriveOutRules : Prop :=
  ∀ (d : DestNo) (s : State),
    let x := s.dest d
    (x.state = .absent → exec (.driveOut d) s = .next s.quiet)
    ∧ (x.state = .unbound →
        ∃ t, exec (.driveOut d) s = .next t
          ∧ t.dest d =
            { x with
              present := false, capacity := none, outSinceIn := true, state := .absent, outstanding := none
              abandoned := false, timer := false }
          ∧ (∀ f, f ≠ d → t.dest f = s.dest f) ∧ t.ports = s.ports ∧ s.SameBooks t ∧ t.lines = []
          ∧ t.link = s.link.queueNotice ((Notice.destChange d).frame t))
    ∧ (x.state = .lost →
        ∃ t, exec (.driveOut d) s = .next t
          ∧ t.dest d = { x with present := false, capacity := none, outSinceIn := true }
          ∧ (∀ f, f ≠ d → t.dest f = s.dest f) ∧ t.ports = s.ports ∧ s.SameBooks t ∧ t.lines = []
          ∧ t.link = (if x.present then s.link.queueNotice ((Notice.destChange d).frame t) else s.link))

/-- RESPONSE_TIMER_EXPIRY at a destination that is not in use (section 5.2): the request is cleared and the link
restarted. A stopped timer does not expire: the model's choice, notes/assumptions/10.md. -/
def ResponseTimerRules : Prop :=
  ∀ (d : DestNo) (s : State),
    let x := s.dest d
    (x.timer = false → exec (.responseTimerExpiry d) s = .next s.quiet)
    ∧ (x.timer = true → ¬InUse x →
        ∃ t, exec (.responseTimerExpiry d) s = .next t
          ∧ t.dest d = { x with outstanding := none, abandoned := false, timer := false }
          ∧ (∀ f, f ≠ d → t.dest f = s.dest f) ∧ t.ports = s.ports ∧ s.SameBooks t ∧ t.link = s.link
          ∧ t.lines = [.restartDrive d])

/-- Presence and response timer at a destination that is not in use: DRIVE_IN, DRIVE_OUT and RESPONSE_TIMER_EXPIRY
(sections 5.2, 5.3). -/
def Obligations.DrivesComeAndGo : Prop := DriveInRules ∧ DriveOutRules ∧ ResponseTimerRules

/-- The commands that lose a destination in use (section 5.8), each with the detail of its DEST_LOST, and the presence
and capacity it leaves. -/
inductive Loses (x : DestPort) (d : DestNo) : Instr → Detail → Bool → Option Nat → Prop
  | out : Loses x d (.driveOut d) .driveRemoved false none
  | timer : x.timer = true → Loses x d (.responseTimerExpiry d) .driveTimeout x.present x.capacity
  | newDrive (n : Nat) : x.capacity ≠ some n → Loses x d (.driveIn d n) .driveRemoved true (some n)

/-- The loss of a destination in use on which no live copy stands and no read job waits (section 5.8): LOST, its
request cleared, its link restarted, its arbiter reset, its binding kept, DEST_LOST taken; clips, slots, plan,
manifest and the other ports stay, and the jobs too unless DEST_LOST is routed HOLD. -/
def Obligations.IdleDestinationIsLost : Prop :=
  ∀ (s : State) (d : DestNo) (i : Instr) (detail : Detail) (present : Bool) (capacity : Option Nat),
    Loses (s.dest d) d i detail present capacity → InUse (s.dest d) → ¬LiveCopyOn s d → (s.dest d).rl.jobs = [] →
      ∃ t, exec i s = .next t
        ∧ (t.dest d).state = .lost ∧ (t.dest d).present = present ∧ (t.dest d).capacity = capacity
        ∧ (t.dest d).outstanding = none ∧ (t.dest d).abandoned = false ∧ (t.dest d).timer = false
        ∧ (t.dest d).binding = (s.dest d).binding ∧ (t.dest d).arb = Arbiter.reset
        ∧ (t.dest d).lane = (s.dest d).lane ∧ (t.dest d).rl = ReadLane.empty ∧ .restartDrive d ∈ t.lines
        ∧ t.faults = s.faults.take ⟨.destLost, none, none, some d, none, detail⟩
        ∧ t.clips = s.clips ∧ t.plan = s.plan ∧ t.manifest = s.manifest ∧ t.ring.held = s.ring.held
        ∧ t.ring.freeList = s.ring.freeList ∧ t.pending = s.pending
        ∧ (s.faults.route .destLost ≠ .hold → t.jobs = s.jobs ∧ t.ring = s.ring)
        ∧ (∀ f, f ≠ d → (s.dest f).SameDrive (t.dest f)) ∧ ∀ p, (s.port p).SameCard (t.port p)

/-! ## Arbitration -/

/-- A write requester waits at the arbiter of `d` (section 6.1): the item at the head of its queue is a trailer, or a
write whose slot is STAGED. -/
def Waits (s : State) (d : DestNo) (w : Writer) : Prop :=
  ∃ i rest, (s.dest d).queue w = i :: rest
    ∧ (i.kind = .trailer ∨ ∃ n y, i.kind = .data n ∧ s.slot? n = some y ∧ y.state = .staged)

/-- A write requester is urgent: the queue of a job started urgent. -/
def IsUrgent (s : State) (w : Writer) : Prop := ∃ j, w = .wq j ∧ (s.job j).urgent = true

/-- `w` is the first of the rotation of `d` that satisfies `P`. -/
def FirstInTurn (s : State) (d : DestNo) (P : Writer → Prop) (w : Writer) : Prop :=
  P w ∧ ∃ before after, (s.dest d).arb.rotation = before ++ w :: after ∧ ∀ v ∈ before, ¬P v

/-- The arbiter's selection (sections 6.1, 6.2): none while a request is outstanding or the destination is not in use;
else the lock owner; the read lane when it waits and no writer waits or the count is 3; the first waiting urgent
writer of the rotation; the first waiting writer. -/
def Obligations.ArbiterChoosesInOrder : Prop :=
  ∀ (s : State) (d : DestNo),
    let x := s.dest d
    let readLane := ∃ a, x.rl.active = some a ∧ a.formed.isSome = true
    let first := readLane ∧ ((∀ w ∈ x.arb.rotation, ¬Waits s d w) ∨ 3 ≤ x.arb.grants)
    (x.outstanding.isSome ∨ ¬InUse x → s.select d = none)
    ∧ (x.outstanding = none → InUse x →
        (∀ w c, x.arb.lock = some (w, c) → s.select d = some (.writer w))
        ∧ (x.arb.lock = none →
            (first → s.select d = some .readLane)
            ∧ (¬first →
                (∀ w, FirstInTurn s d (fun v => Waits s d v ∧ IsUrgent s v) w → s.select d = some (.writer w))
        ∧ ((∀ v ∈ x.arb.rotation, ¬(Waits s d v ∧ IsUrgent s v)) →
                    (∀ w, FirstInTurn s d (Waits s d) w → s.select d = some (.writer w))
            ∧ ((∀ v ∈ x.arb.rotation, ¬Waits s d v) → s.select d = none)))))

/-- A grant to a write requester whose head item is a data write (sections 5.5, 6.2, 6.3): the WRITE of the slot's
unit at its place in the copy's window, zero-filled to whole sectors, is outstanding with the response timer started;
the requester moves to the end of the rotation and the count rises up to 3; the item stays at the head; nothing else
changes but the line. -/
def DataGrantIssuesTheUnit : Prop :=
  ∀ (s : State) (d : DestNo) (w : Writer) (i : Item) (rest : List Item) (n : Nat) (x : Clip) (k : Copy) (b : Binding)
    (win : Window) (y : Slot),
    s.select d = some (.writer w) → (s.dest d).queue w = i :: rest → i.kind = .data n → s.clip? i.clip = some x →
    x.copies[d] = some k → (s.dest d).binding = some b → k.window = some win → s.slot? n = some y →
      let cmd : DriveCmd :=
        { kind := .write, lba := b.areaStart + b.strip + 2048 * (win.first + y.unit), count := (y.byteCount + 511) / 512
          data := y.data ++ List.replicate ((y.data.length + 511) / 512 * 512 - y.data.length) 0 }
      s.arbitrate d =
        { s.setDest d
            { s.dest d with
              outstanding := some ⟨cmd, .data w i.clip k.attempt n⟩, abandoned := false, timer := true
              arb :=
                { rotation := (s.dest d).arb.rotation.filter (· ≠ w) ++ (s.dest d).arb.rotation.filter (· = w)
                  lock := (s.dest d).arb.lock, grants := min 3 ((s.dest d).arb.grants + 1) } } with
          lines := s.lines ++ [.drive d cmd] }

/-- A grant to a write requester whose head item is a trailer (sections 5.7, 6.3, 11.7): the WRITE of one sector at
the copy's trailer index, with the marker, clip number, card identity, L, S1, S2, F in sum order, window, attempt and
name token in their places, 512 bytes in all; the rotation and the count move as for any grant to a writer. -/
def TrailerGrantIssuesTheTrailer : Prop :=
  ∀ (s : State) (d : DestNo) (w : Writer) (i : Item) (rest : List Item) (x : Clip) (k : Copy) (b : Binding)
    (win : Window) (t : Nat) (sum : ClosedSum) (card : Identity),
    s.select d = some (.writer w) → (s.dest d).queue w = i :: rest → i.kind = .trailer → s.clip? i.clip = some x →
    x.copies[d] = some k → (s.dest d).binding = some b → k.window = some win → k.trailer = some t → x.sum = some sum →
    (s.job x.job).identity = some card → x.token.length ≤ 48 →
      ∃ sector : List Byte, sector.length = 512
        ∧ (∃ tail,
            sector = [0x57, 0x5A, 0x54, 0x31] ++ Bytes.le 2 i.clip ++ Bytes.le 8 card.media ++ Bytes.le 6 card.capacity
              ++ Bytes.le 5 x.length ++ Bytes.be 4 sum.s1 ++ Bytes.be 4 sum.s2 ++ Bytes.be 4 sum.f.toNat
              ++ Bytes.le 6 win.first ++ Bytes.le 4 win.count ++ [BitVec.ofNat 8 k.attempt]
              ++ [BitVec.ofNat 8 x.token.length] ++ x.token ++ tail
            ∧ ∀ z ∈ tail, z = 0)
        ∧ (s.arbitrate d).dest d =
            { s.dest d with
              outstanding := some ⟨⟨.write, b.areaStart + t, 1, sector⟩, .trailer w i.clip k.attempt⟩
              abandoned := false, timer := true
              arb :=
                { rotation := (s.dest d).arb.rotation.filter (· ≠ w) ++ (s.dest d).arb.rotation.filter (· = w)
                  lock := (s.dest d).arb.lock, grants := min 3 ((s.dest d).arb.grants + 1) } }
        ∧ (s.arbitrate d).lines = s.lines ++ [.drive d ⟨.write, b.areaStart + t, 1, sector⟩]
        ∧ (∀ f, f ≠ d → (s.arbitrate d).dest f = s.dest f) ∧ s.SameBooks (s.arbitrate d)
        ∧ (s.arbitrate d).ports = s.ports ∧ (s.arbitrate d).link = s.link

/-- A grant to the read lane (sections 6.2, 6.3, 7.1): the request it had formed is outstanding with the response timer
started and stands on the line, formed no longer, its retry count kept; the write-grant count is 0, the rotation and
the lock stay as they are; nothing else changes. -/
def ReadLaneGrantIssuesItsRequest : Prop :=
  ∀ (s : State) (d : DestNo) (step : ReadStep) (cmd : DriveCmd) (r : Nat),
    s.select d = some .readLane → (s.dest d).rl.active = some ⟨step, some cmd, r⟩ →
      s.arbitrate d =
        { s.setDest d
            { s.dest d with
              outstanding := some ⟨cmd, .readLane⟩, abandoned := false, timer := true
              rl := { (s.dest d).rl with active := some ⟨step, none, r⟩ }
              arb := { (s.dest d).arb with grants := 0 } } with
          lines := s.lines ++ [.drive d cmd] }

/-- A grant puts the requester's item, or the read lane's request, on the drive link (sections 5.5, 5.7, 6.2, 6.3). -/
def Obligations.GrantsIssueRequests : Prop :=
  DataGrantIssuesTheUnit ∧ TrailerGrantIssuesTheTrailer ∧ ReadLaneGrantIssuesItsRequest

/-- Every step keeps each destination's arbiter, binding and catch-up lane within their rules: the rotation list holds
each of the seventeen writers once and the count is 0 to 3, the bump pointers stand between their starts and their
ends, and a lane holds at most 8 slots (sections 4.3, 5.1, 5.6, 6.1). -/
def Obligations.DestinationsStaySound : Prop := KeptByStep fun s => ∀ d, (s.dest d).Sound

/-! ## Responses of a drive -/

/-- A port with its outstanding request cleared and its response timer stopped (section 5.2). -/
def cleared (x : DestPort) : DestPort := { x with outstanding := none, abandoned := false, timer := false }

/-- A response to no request is ignored, and a response to an abandoned one only clears it (section 5.2): DONE, RETRY
and FAIL alike. -/
def LateResponsesOnlyClear : Prop :=
  ∀ (s : State) (d : DestNo) (i : Instr), (∃ bytes, i = .driveDone d bytes) ∨ i = .driveRetry d ∨ i = .driveFail d →
    ((s.dest d).outstanding = none → exec i s = .next s.quiet)
    ∧ ((s.dest d).outstanding.isSome → (s.dest d).abandoned = true →
        exec i s = .next (s.quiet.setDest d (cleared (s.dest d))).closeEvent)

/-- DRIVE_RETRY, the first seven times (section 6.5): the write item stays at the head of its queue with its count one
higher, and the read lane's request stands formed again with its count one higher; rotation, lock, slot and copy stay
as they are, and the next selection follows. -/
def Obligations.DriveRetryRules : Prop :=
  ∀ (s : State) (d : DestNo) (r : DriveRequest), (s.dest d).outstanding = some r → (s.dest d).abandoned = false →
    (∀ w i rest, (∃ c a n, r.serves = .data w c a n) ∨ (∃ c a, r.serves = .trailer w c a) →
      (s.dest d).queue w = i :: rest → i.retries < 7 →
        exec (.driveRetry d) s = .next
          (s.quiet.setDest d
            ((cleared (s.dest d)).setQueue w ({ i with retries := i.retries + 1 } :: rest))).closeEvent)
    ∧ ∀ a, r.serves = .readLane → (s.dest d).rl.active = some a → a.retries < 7 →
        exec (.driveRetry d) s = .next
          (s.quiet.setDest d
            { cleared (s.dest d) with
              rl := { (s.dest d).rl with active := some ⟨a.step, some r.cmd, a.retries + 1⟩ } }).closeEvent

/-- DONE to a data WRITE whose copy is still WRITING with the same attempt, while other destinations need the slot
(sections 4.9, 5.7, 6.4): the item leaves its queue, the units written rise by one, the slot's pending set loses the
destination, and the copy's last write gives the lock to its queue; then the next selection. -/
def DataWriteDone : Prop :=
  ∀ (s : State) (d : DestNo) (bytes : List Byte) (cmd : DriveCmd) (w : Writer) (c a n : Nat) (i : Item)
    (rest : List Item) (x : Clip) (k : Copy) (y : Slot),
    (s.dest d).outstanding = some ⟨cmd, .data w c a n⟩ → (s.dest d).abandoned = false →
    (s.dest d).queue w = i :: rest → s.clip? c = some x → x.copies[d] = some k → k.state = .writing → k.attempt = a →
    s.slot? n = some y → (y.pending.filter (· ≠ d)) ≠ [] →
      exec (.driveDone d bytes) s = .next
        (State.closeEvent
          (((s.quiet.setDest d
              (let z := (cleared (s.dest d)).setQueue w rest
               if k.written + 1 = clipUnits x.length then { z with arb := { z.arb with lock := some (w, c) } } else z)).setClip
            c { x with copies := x.copies.set d (some { k with written := k.written + 1 }) }).modSlot
            n fun y => { y with pending := y.pending.filter (· ≠ d) }))

/-- DONE to the last WRITE a slot waited for (sections 4.2, 4.6, 4.9, 5.7): with no requester waiting for a slot and an
owner that does not stand at its limit, the slot joins the tail of the free list, the owner's held count falls by one,
and the copy has one more unit written; its last write gives the lock to its queue. -/
def LastWriterFreesTheSlot : Prop :=
  ∀ (s : State) (d : DestNo) (bytes : List Byte) (cmd : DriveCmd) (w : Writer) (c a n : Nat) (i : Item)
    (rest : List Item) (x : Clip) (k : Copy) (y : Slot),
    (s.dest d).outstanding = some ⟨cmd, .data w c a n⟩ → (s.dest d).abandoned = false →
    (s.dest d).queue w = i :: rest → s.clip? c = some x → x.copies[d] = some k → k.state = .writing → k.attempt = a →
    s.slot? n = some y → (y.pending.filter (· ≠ d)) = [] → NotStalled s y.owner → s.ring.waitList = [] →
      let fewer (f : DestNo) : Lane :=
        if y.owner = .lane f then { (s.dest f).lane with held := (s.dest f).lane.held - 1 } else (s.dest f).lane
      ∃ t, exec (.driveDone d bytes) s = .next t
        ∧ t.ring = { freeList := s.ring.freeList ++ [n], held := Table.erase n s.ring.held, waitList := [] }
        ∧ (∀ l, t.job l = if y.owner = .job l then { s.job l with held := (s.job l).held - 1 } else s.job l)
        ∧ t.copy? c d = some { k with written := k.written + 1 }
        ∧ (∀ c' d', ¬(c' = c ∧ d' = d) → t.copy? c' d' = s.copy? c' d')
        ∧ (t.dest d).queue w = rest ∧ (∀ v, v ≠ w → (t.dest d).queue v = (s.dest d).queue v)
        ∧ (t.dest d).binding = (s.dest d).binding ∧ (t.dest d).lane = fewer d
        ∧ (t.dest d).arb.lock = (if k.written + 1 = clipUnits x.length then some (w, c) else (s.dest d).arb.lock)
        ∧ (∀ f, f ≠ d → ({ s.dest f with lane := fewer f }).SameDrive (t.dest f))
        ∧ (∀ p, (s.port p).SameCard (t.port p)) ∧ t.plan = s.plan ∧ t.manifest = s.manifest ∧ t.faults = s.faults

/-- DONE to a data WRITE, while others need its slot and as the last that did (sections 4.6, 4.9, 5.7, 6.4). -/
def Obligations.DataWritesAreCounted : Prop := DataWriteDone ∧ LastWriterFreesTheSlot

/-- A DONE to the last WRITE that slot `n`, owned by job `j`, waited for, at the head of queue `w` of `d`. -/
def LastWrite (s : State) (d : DestNo) (w : Writer) (c n : Nat) (j : JobNo) : Prop :=
  ∃ cmd a i rest x k y, (s.dest d).outstanding = some ⟨cmd, .data w c a n⟩ ∧ (s.dest d).abandoned = false
    ∧ (s.dest d).queue w = i :: rest ∧ s.clip? c = some x ∧ x.copies[d] = some k ∧ k.state = .writing ∧ k.attempt = a
    ∧ s.slot? n = some y ∧ y.pending.filter (· ≠ d) = [] ∧ y.owner = .job j

/-- Job `j` stands between units with nothing to hold it: no slot is being filled for it and it waits for none. -/
def AtRest (s : State) (j : JobNo) : Prop :=
  (∀ n y, (n, y) ∈ s.ring.held → ¬(y.state = .filling ∧ y.owner = .job j)) ∧ Requester.job j ∉ s.ring.waitList

/-- A RUNNING job waits at its quota (section 4.4). -/
def AtQuota (s : State) (j : JobNo) : Prop :=
  (s.job j).state = .running ∧ (s.job j).boundPort.isSome ∧ (s.job j).held = (s.job j).quota ∧ 0 < (s.job j).quota
    ∧ AtRest s j

/-- The slot a requester is given for unit `u` of clip `b`, whose record is `z` (sections 4.1, 4.4). -/
def freshSlot (r : Requester) (b : Nat) (z : Clip) (u : Nat) : Slot :=
  { state := .filling, owner := r, clip := b, unit := u, byteCount := min (z.length - u * 1048576) 1048576, pending := []
    data := [] }

/-- A slot freed while a job heads the wait list and no other slot is free (section 4.6): that job, below its quota, is
given it for the unit at its read position, and the unit's pieces join its port's FIFO; a former owner at its quota
joins the tail of the wait list. -/
def FreedSlotServesAJob : Prop :=
  ∀ (s : State) (d : DestNo) (bytes : List Byte) (w : Writer) (c n b : Nat) (j l : JobNo) (q : PortNo) (z : Clip)
    (wait : List Requester),
    LastWrite s d w c n j → s.ring.freeList = [] → s.ring.waitList = .job l :: wait → Requester.job l ∉ wait → l ≠ j →
    (s.job l).state = .running → (s.job l).boundPort = some q → (s.job l).held < (s.job l).quota →
    (∀ m y, (m, y) ∈ s.ring.held → ¬(y.state = .filling ∧ y.owner = .job l)) →
    (s.job l).clips[(s.job l).readPos.clip]? = some b → s.clip? b = some z →
    NotStalled s (.job j) ∨ AtQuota s j →
      let u := (s.job l).readPos.unit
      ∃ t, exec (.driveDone d bytes) s = .next t
        ∧ t.slot? n = some (freshSlot (.job l) b z u) ∧ (∀ m, m ≠ n → t.slot? m = s.slot? m) ∧ t.ring.freeList = []
        ∧ (NotStalled s (.job j) → t.ring.waitList = wait) ∧ (AtQuota s j → t.ring.waitList = wait ++ [.job j])
        ∧ (t.port q).fifo = (s.port q).fifo ++ ((unitPieces z u).map fun r => ⟨.job l b u, r.1, r.2⟩)
        ∧ t.job l = { s.job l with held := (s.job l).held + 1 }
        ∧ t.job j = { s.job j with held := (s.job j).held - 1 } ∧ (∀ i, i ≠ l → i ≠ j → t.job i = s.job i)
        ∧ (∀ p, p ≠ q → (s.port p).SameCard (t.port p)) ∧ (∀ f, f ≠ d → (s.dest f).SameDrive (t.dest f))
        ∧ t.plan = s.plan ∧ t.manifest = s.manifest ∧ t.faults = s.faults

/-- A slot freed with no requester waiting, whose owner waits at its quota (section 4.6): the owner is given the slot at
the head of the free list for the unit at its read position, and its held-slot count is what it was. -/
def FreedSlotReturnsToItsOwner : Prop :=
  ∀ (s : State) (d : DestNo) (bytes : List Byte) (w : Writer) (c n b m : Nat) (j : JobNo) (q : PortNo) (z : Clip)
    (more : List Nat),
    LastWrite s d w c n j → s.ring.waitList = [] → AtQuota s j → (s.job j).boundPort = some q →
    s.ring.freeList ++ [n] = m :: more → (s.job j).clips[(s.job j).readPos.clip]? = some b → s.clip? b = some z →
      let u := (s.job j).readPos.unit
      ∃ t, exec (.driveDone d bytes) s = .next t
        ∧ t.slot? m = some (freshSlot (.job j) b z u) ∧ (n ≠ m → t.slot? n = none)
        ∧ (∀ i, i ≠ m → i ≠ n → t.slot? i = s.slot? i) ∧ t.ring.freeList = more ∧ t.ring.waitList = []
        ∧ (t.port q).fifo = (s.port q).fifo ++ ((unitPieces z u).map fun r => ⟨.job j b u, r.1, r.2⟩)
        ∧ t.jobs = s.jobs ∧ (∀ p, p ≠ q → (s.port p).SameCard (t.port p))
        ∧ (∀ f, f ≠ d → (s.dest f).SameDrive (t.dest f)) ∧ t.plan = s.plan ∧ t.manifest = s.manifest
        ∧ t.faults = s.faults

/-- A slot freed while a lane heads the wait list with the card as the source of its copy's last unit (sections 4.4,
4.6, 7.3): the lane is given the slot, its item joins CQ, and the unit's supply pieces join the port's FIFO. -/
def FreedSlotServesALane : Prop :=
  ∀ (s : State) (d f : DestNo) (bytes : List Byte) (w : Writer) (c n b u : Nat) (j : JobNo) (q : PortNo) (z : Clip)
    (wait : List Requester),
    LastWrite s d w c n j → NotStalled s (.job j) → s.ring.freeList = [] → s.ring.waitList = .lane f :: wait →
    Requester.lane f ∉ wait → f ≠ d → (s.dest f).lane.current = some b → (s.dest f).lane.standing = some (u, .card) →
    (s.dest f).lane.held < 8 → s.clip? b = some z → (s.job z.job).boundPort = some q → u + 1 = clipUnits z.length →
      ∃ t, exec (.driveDone d bytes) s = .next t
        ∧ t.slot? n = some (freshSlot (.lane f) b z u) ∧ (∀ m, m ≠ n → t.slot? m = s.slot? m) ∧ t.ring.freeList = []
        ∧ t.ring.waitList = wait
        ∧ (t.dest f).cq = (s.dest f).cq ++ [Item.new b (.data n)]
        ∧ (t.dest f).lane =
          { (s.dest f).lane with standing := none, nextUnit := u + 1, held := (s.dest f).lane.held + 1 }
        ∧ (t.port q).fifo = (s.port q).fifo ++ ((unitPieces z u).map fun r => ⟨.supply f z.job b u n, r.1, r.2⟩)
        ∧ t.job j = { s.job j with held := (s.job j).held - 1 } ∧ (∀ i, i ≠ j → t.job i = s.job i)
        ∧ (∀ p, p ≠ q → (s.port p).SameCard (t.port p)) ∧ t.plan = s.plan ∧ t.manifest = s.manifest
        ∧ t.faults = s.faults

/-- The service of waiting requesters when a slot is freed (sections 4.4, 4.6). -/
def Obligations.FreedSlotsServeRequesters : Prop :=
  FreedSlotServesAJob ∧ FreedSlotReturnsToItsOwner ∧ FreedSlotServesALane

/-- DONE to a trailer WRITE (sections 5.7, 6.4, 7.1): the item leaves, the lock ends, and the copy's VERIFY job joins
the tail of the read lane; with the lane idle it is active at once, its copy VERIFYING and its FLUSH formed, else the
copy is WRITTEN and waits. -/
def Obligations.TrailerDoneStartsVerification : Prop :=
  ∀ (s : State) (d : DestNo) (bytes : List Byte) (cmd : DriveCmd) (w : Writer) (c a : Nat) (i : Item)
    (rest : List Item) (x : Clip) (k : Copy),
    (s.dest d).outstanding = some ⟨cmd, .trailer w c a⟩ → (s.dest d).abandoned = false →
    (s.dest d).queue w = i :: rest → s.clip? c = some x → x.copies[d] = some k → k.state = .writing → k.attempt = a →
    ((s.dest d).rl.active = none ↔ (s.dest d).rl.jobs = []) →
      let idle := (s.dest d).rl.active.isNone
      let z := (cleared (s.dest d)).setQueue w rest
      exec (.driveDone d bytes) s = .next
        (State.closeEvent
          ((s.quiet.setDest d
              { z with
                arb := { z.arb with lock := none }
                rl :=
                  { z.rl with
                    jobs := z.rl.jobs ++ [.verify c]
                    active := if idle then some ⟨.flush, some ⟨.flush, 0, 0, []⟩, 0⟩ else z.rl.active } }).setClip
            c { x with copies := x.copies.set d (some { k with state := if idle then .verifying else .written }) }))

/-- DONE to the FLUSH or to a unit READ of a VERIFY job (sections 3.6, 7.1): the FLUSH starts the sum unit for the
clip, each unit's bytes are fed to it, and the READ of the next unit of the window, or of the trailer after the last,
is formed at its place through the binding. -/
def VerifyReadsTheWindowInOrder : Prop :=
  ∀ (s : State) (d : DestNo) (bytes : List Byte) (cmd : DriveCmd) (c r k : Nat) (more : List ReadJob) (x : Clip)
    (copy : Copy) (b : Binding) (win : Window) (t : Nat) (u : SumUnit),
    (s.dest d).outstanding = some ⟨cmd, .readLane⟩ → (s.dest d).abandoned = false →
    (s.dest d).rl.jobs = .verify c :: more → s.clip? c = some x → x.copies[d] = some copy →
    (s.dest d).binding = some b → copy.window = some win → copy.trailer = some t →
      let next (k : Nat) : ActiveRead :=
        if k < win.count then
          { step := .unit k
            formed := some
              { kind := .read, lba := b.areaStart + b.strip + 2048 * (win.first + k)
                count := (min (x.length - k * 1048576) 1048576 + 511) / 512, data := [] }
            retries := 0 }
        else { step := .trailer, formed := some ⟨.read, b.areaStart + t, 1, []⟩, retries := 0 }
      let go (k : Nat) (sum : SumUnit) : State :=
        s.quiet.setDest d
          { cleared (s.dest d) with rl := { jobs := .verify c :: more, active := some (next k), sum := some sum } }
      (cmd.kind = .flush → (s.dest d).rl.active = some ⟨.flush, none, r⟩ →
        exec (.driveDone d bytes) s = .next (go 0 ⟨x.length, ⟨1, 0⟩, 0⟩).closeEvent)
      ∧ (cmd.kind = .read → bytes.length = cmd.count * 512 → (s.dest d).rl.active = some ⟨.unit k, none, r⟩ →
          (s.dest d).rl.sum = some u → exec (.driveDone d bytes) s = .next (go (k + 1) (u.feed bytes)).closeEvent)

/-- The sector of a trailer read back holds, at the offsets of section 11.7, the marker, the clip number, L, S1, S2 and
F in sum order, and the window of the copy. -/
def TrailerMatches (sector : List Byte) (c length : Nat) (sum : ClosedSum) (w : Window) : Prop :=
  sector.take 4 = [0x57, 0x5A, 0x54, 0x31] ∧ (sector.drop 4).take 2 = Bytes.le 2 c
    ∧ (sector.drop 20).take 5 = Bytes.le 5 length ∧ (sector.drop 25).take 4 = Bytes.be 4 sum.s1
    ∧ (sector.drop 29).take 4 = Bytes.be 4 sum.s2 ∧ (sector.drop 33).take 4 = Bytes.be 4 sum.f.toNat
    ∧ (sector.drop 37).take 6 = Bytes.le 6 w.first ∧ (sector.drop 43).take 4 = Bytes.le 4 w.count

/-- A readback that agrees, the decision of a verification (sections 7.1, 7.2, 7.6, 9.2): the copy is VERIFIED with
its readback sum; a READ clip whose VERIFIED copies now number at least R becomes SECURED, and its record joins the
tail of a manifest queue with room. -/
def AgreeingReadbackSecures : Prop :=
  ∀ (s : State) (d : DestNo) (bytes : List Byte) (cmd : DriveCmd) (c r : Nat) (x : Clip) (k : Copy) (win : Window)
    (u : SumUnit) (sum : ClosedSum) (snap : Snapshot),
    (s.dest d).outstanding = some ⟨cmd, .readLane⟩ → (s.dest d).abandoned = false → cmd.kind = .read →
    bytes.length = cmd.count * 512 → (s.dest d).rl.jobs = [.verify c] →
    (s.dest d).rl.active = some ⟨.trailer, none, r⟩ → (s.dest d).rl.sum = some u → s.clip? c = some x →
    x.copies[d] = some k → k.window = some win → k.state = .verifying → x.sum = some sum → x.state = .read →
    (s.job x.job).snapshot = some snap → u.close.s1 = sum.s1 → u.close.s2 = sum.s2 →
    TrailerMatches bytes c x.length sum win → s.LanesIdle → (∀ (f : DestNo) (q : Copy), x.copies[f] = some q → q.suspended = false) →
    s.manifest.queue.length < 512 → snap.r ≤ x.verifiedCount + 1 →
      ∃ t m, exec (.driveDone d bytes) s = .next t
        ∧ t.copy? c d = some { k with state := .verified, readback := some u.close }
        ∧ t.clipState? c = some .secured ∧ t.manifest = { s.manifest with queue := s.manifest.queue ++ [m] }
        ∧ m.clip = c ∧ m.kind = .secured ∧ m.job = x.job ∧ m.sum = some sum ∧ m.detached = false
        ∧ (∀ c', c' ≠ c → t.clip? c' = s.clip? c') ∧ (∀ l, l ≠ x.job → t.job l = s.job l)
        ∧ (∀ f, f ≠ d → (s.dest f).SameDrive (t.dest f)) ∧ t.ring = s.ring ∧ t.plan = s.plan ∧ t.faults = s.faults

/-- The trailer check at the DONE of a trailer READ (sections 7.1, 11.7): it compares the fields at their offsets and
nothing else of the sector. -/
def TrailerCheckComparesItsFields : Prop :=
  ∀ (sector : List Byte) (c length : Nat) (sum : ClosedSum) (w : Window),
    trailerAgrees sector c length sum w = true ↔ TrailerMatches sector c length sum w

/-- A VERIFY job's reads, its trailer check, and the decision when its readback agrees (sections 3.6, 7.1, 7.2, 7.6,
9.2, 11.7). -/
def Obligations.VerificationRules : Prop :=
  VerifyReadsTheWindowInOrder ∧ TrailerCheckComparesItsFields ∧ AgreeingReadbackSecures

/-- No other destination has read work, and every slot is still needed when `d` leaves the slots of clip `c`: a STAGED
one of the clip by another destination, one a lane fills by an item of another copy. -/
def OthersAtRest (s : State) (c : Nat) (d : DestNo) : Prop :=
  (∀ e, e ≠ d → (s.dest e).rl.jobs = [])
    ∧ ∀ m y, (m, y) ∈ s.ring.held →
        (y.state = .staged → y.clip = c → ∃ f ∈ y.pending, f ≠ d)
        ∧ (y.state = .filling → ∀ f, y.owner = .lane f →
            ∃ i ∈ (s.dest f).cq, i.kind = .data m ∧ ¬(i.clip = c ∧ f = d))

/-- A failed first attempt becomes a repair (sections 6.5, 7.2): a data WRITE answered FAIL while its clip is being
read, with every lane and read lane idle and every slot still needed elsewhere.  COPY_REPAIR is taken; the copy is
QUEUED again with attempt 2 and no place, alone in its destination's lane; its items and the lock are gone. -/
def FailedWriteBecomesARepair : Prop :=
  ∀ (s : State) (d : DestNo) (cmd : DriveCmd) (w : Writer) (c n : Nat) (x : Clip) (k : Copy),
    (s.dest d).outstanding = some ⟨cmd, .data w c 1 n⟩ → (s.dest d).abandoned = false → s.clip? c = some x →
    x.copies[d] = some k → k.state = .writing → k.attempt = 1 → x.state = .reading → (s.job x.job).state = .running →
    s.LanesIdle → (s.dest d).rl.jobs = [] → OthersAtRest s c d →
      ∃ t, exec (.driveFail d) s = .next t
        ∧ t.copy? c d = some
            { state := .queued, origin := .repair, attempt := 2, window := none, trailer := none, written := 0
              suspended := false, readback := none }
        ∧ (t.dest d).lane.copies = [c] ∧ (t.dest d).binding = (s.dest d).binding
        ∧ (∀ w, ∀ i ∈ (t.dest d).queue w, i.clip ≠ c) ∧ (∀ v, (t.dest d).arb.lock ≠ some (v, c))
        ∧ t.faults = s.faults.take ⟨.copyRepair, some x.job, some c, some d, none, .driveFail⟩
        ∧ (∀ b, b ≠ c → t.clip? b = s.clip? b) ∧ t.plan = s.plan ∧ t.manifest = s.manifest
        ∧ t.ring.freeList = s.ring.freeList

/-- A job's snapshot names at most the four destinations as spares (section 8.3). -/
def SparesFit (x : Job) : Prop := ∀ snap, x.snapshot = some snap → snap.spares.length ≤ 4

/-- The commands by which the attempt of the copy `k` of clip `c` (record `x`) on `d` fails (sections 6.5, 7.1, 7.2),
each with the detail of its fault and the readback sum it leaves in the copy: FAIL, or the RETRY that finds the item's
count at 7, to a data write or a trailer write; the same to a request of its VERIFY job, and a READ answered with a
wrong byte count; and a readback whose sum, or whose trailer alone, disagrees. -/
inductive FailsAttempt (s : State) (d : DestNo) (c : Nat) (x : Clip) (k : Copy) : Instr → Detail → Option ClosedSum → Prop
  | write (cmd : DriveCmd) (w : Writer) (i : Item) (rest : List Item) (serves : Serves) (command : Instr) (detail : Detail) :
      (∃ n, serves = .data w c k.attempt n) ∨ serves = .trailer w c k.attempt →
      (s.dest d).outstanding = some ⟨cmd, serves⟩ → (s.dest d).queue w = i :: rest → k.state = .writing →
      (s.dest d).rl.jobs = [] →
      (command = .driveFail d ∧ detail = .driveFail) ∨ (command = .driveRetry d ∧ detail = .driveRetry ∧ i.retries = 7) →
      FailsAttempt s d c x k command detail k.readback
  | verify (cmd : DriveCmd) (step : ReadStep) (r : Nat) (command : Instr) (detail : Detail) :
      (s.dest d).outstanding = some ⟨cmd, .readLane⟩ → (s.dest d).rl.jobs = [.verify c] →
      (s.dest d).rl.active = some ⟨step, none, r⟩ → k.state = .verifying →
      (command = .driveFail d ∧ detail = .driveFail) ∨ (command = .driveRetry d ∧ detail = .driveRetry ∧ r = 7)
        ∨ (∃ bytes : List Byte, command = .driveDone d bytes ∧ detail = .driveFail ∧ cmd.kind = .read
            ∧ bytes.length ≠ cmd.count * 512) →
      FailsAttempt s d c x k command detail
        (if step = .trailer then (s.dest d).rl.sum.map (·.close) else k.readback)
  | readback (cmd : DriveCmd) (r : Nat) (u : SumUnit) (sum : ClosedSum) (win : Window) (bytes : List Byte) (detail : Detail) :
      (s.dest d).outstanding = some ⟨cmd, .readLane⟩ → (s.dest d).rl.jobs = [.verify c] →
      (s.dest d).rl.active = some ⟨.trailer, none, r⟩ → k.state = .verifying → cmd.kind = .read →
      bytes.length = cmd.count * 512 → (s.dest d).rl.sum = some u → x.sum = some sum → k.window = some win →
      (¬(u.close.s1 = sum.s1 ∧ u.close.s2 = sum.s2) ∧ detail = .sumMismatch)
        ∨ (u.close.s1 = sum.s1 ∧ u.close.s2 = sum.s2 ∧ ¬TrailerMatches bytes c x.length sum win
            ∧ detail = .trailerMismatch) →
      FailsAttempt s d c x k (.driveDone d bytes) detail (some u.close)

/-- A lane that takes nothing up: it holds no copy, or its current copy, another than that of clip `c`, has a request
for a slot standing. -/
def LaneWaits (s : State) (c : Nat) (f : DestNo) : Prop :=
  ∃ b, (s.dest f).lane.current = some b ∧ b ≠ c ∧ (s.clip? b).isSome ∧ (s.dest f).lane.standing.isSome
    ∧ c ∉ (s.dest f).lane.copies

/-- A failed attempt 1, whatever fails it, while the destination's lane is busy with another copy and every slot of the
clip is still needed elsewhere (sections 6.5, 7.1, 7.2): COPY_REPAIR is taken with the detail of the failure; the copy
is QUEUED with origin REPAIR and attempt 2 and without place, behind the copies of its lane; its items, its lock and
its VERIFY job are gone. -/
def FailedAttemptBecomesARepair : Prop :=
  ∀ (s : State) (d : DestNo) (c : Nat) (x : Clip) (k : Copy) (i : Instr) (detail : Detail) (sum : Option ClosedSum),
    FailsAttempt s d c x k i detail sum → (s.dest d).abandoned = false → s.clip? c = some x → x.copies[d] = some k →
    k.attempt = 1 → LaneWaits s c d → OthersAtRest s c d →
      ∃ t, exec i s = .next t
        ∧ t.copy? c d = some
            { state := .queued, origin := .repair, attempt := 2, window := none, trailer := none, written := 0
              suspended := false, readback := none }
        ∧ (t.dest d).lane = { (s.dest d).lane with copies := (s.dest d).lane.copies ++ [c] }
        ∧ (t.dest d).rl.jobs = [] ∧ (t.dest d).binding = (s.dest d).binding
        ∧ (∀ w, ∀ z ∈ (t.dest d).queue w, z.clip ≠ c) ∧ (∀ v, (t.dest d).arb.lock ≠ some (v, c))
        ∧ t.faults = s.faults.take ⟨.copyRepair, some x.job, some c, some d, none, detail⟩
        ∧ (∀ b e, ¬(b = c ∧ e = d) → t.copy? b e = s.copy? b e) ∧ t.plan = s.plan ∧ t.manifest = s.manifest
        ∧ t.ring.freeList = s.ring.freeList

/-- A failed first attempt becomes a repair: a write while its clip is being read, and any attempt of any copy
(sections 6.5, 7.1, 7.2). -/
def Obligations.FailedAttemptsBecomeRepairs : Prop := FailedWriteBecomesARepair ∧ FailedAttemptBecomesARepair

/-- The copies of clip `x` that are live or VERIFIED, that on `d` left out, counted. -/
def liveOrVerifiedBeside (x : Clip) (d : DestNo) : Nat :=
  (allDests.filter fun e => decide (e ≠ d) && match x.copies[e] with
    | some k => decide (k.state ≠ .noSpace ∧ k.state ≠ .failed ∧ k.state ≠ .aborted)
    | none => false).length

/-- A spare that may be enlisted for clip `x` (section 7.5): ACTIVE, without a copy of the clip, or with one in
NO_SPACE, FAILED or ABORTED. -/
def Qualifies (s : State) (x : Clip) (e : DestNo) : Prop :=
  (s.dest e).state = .active
    ∧ ∀ k, x.copies[e] = some k → k.state = .noSpace ∨ k.state = .failed ∨ k.state = .aborted

/-- A failed attempt 2 of a copy of a READ clip, whatever fails it, while the lanes are busy with other copies and every
slot is still needed (sections 7.1, 7.2, 7.5): the copy is FAILED and keeps its place, with the readback sum its
failure leaves; COPY_FAILED is taken with the detail.  With the clip one short of R after it, the lowest-numbered spare
that qualifies gets a QUEUED copy with origin SPARE and attempt 1, behind the copies of its lane; with the clip not short, or
no spare that qualifies, no other copy changes. -/
def FailedRepairEnlistsASpare : Prop :=
  ∀ (s : State) (d : DestNo) (c : Nat) (x : Clip) (k : Copy) (i : Instr) (detail : Detail) (sum : Option ClosedSum)
    (snap : Snapshot),
    FailsAttempt s d c x k i detail sum → (s.dest d).abandoned = false → s.clip? c = some x → x.copies[d] = some k →
    k.attempt = 2 → x.state = .read → (s.job x.job).snapshot = some snap → (∀ f, LaneWaits s c f) → OthersAtRest s c d →
    d ∉ snap.spares → snap.spares.length ≤ 4 →
      let failed : Copy := { k with state := .failed, readback := sum }
      ∃ t, exec i s = .next t
        ∧ t.copy? c d = some failed
        ∧ t.faults = s.faults.take ⟨.copyFailed, some x.job, some c, some d, none, detail⟩
        ∧ (∀ w, ∀ z ∈ (t.dest d).queue w, z.clip ≠ c) ∧ (t.dest d).rl.jobs = [] ∧ t.ring.freeList = s.ring.freeList
        ∧ (∀ b, b ≠ c → t.clip? b = s.clip? b) ∧ t.plan = s.plan ∧ t.manifest = s.manifest
        ∧ (∀ e before after, liveOrVerifiedBeside x d + 1 = snap.r → snap.spares = before ++ e :: after → Qualifies s x e →
            (∀ f ∈ before, ¬Qualifies s x f) →
              t.copy? c e = some
                { state := .queued, origin := .spare, attempt := 1, window := none, trailer := none, written := 0
                  suspended := false, readback := none }
              ∧ (t.dest e).lane = { (s.dest e).lane with copies := (s.dest e).lane.copies ++ [c] }
              ∧ ∀ f, f ≠ d → f ≠ e → t.copy? c f = x.copies[f])
        ∧ (snap.r ≤ liveOrVerifiedBeside x d ∨ (∀ e ∈ snap.spares, ¬Qualifies s x e) →
            (∀ f, f ≠ d → t.copy? c f = x.copies[f]) ∧ ∀ f, (t.dest f).lane = (s.dest f).lane)

/-- Spare enlistment alone, for any shortfall (section 7.5): a READING or READ clip whose live and VERIFIED copies
number fewer than R, with no spare that qualifies, is left as it is; a clip with R of them, or in another state, is left
as it is too; in every case no copy but those of qualifying spares changes, and each changed copy is QUEUED with
origin SPARE and attempt 1. -/
def EnlistmentTakesQualifyingSpares : Prop :=
  ∀ (s : State) (c : Nat) (x : Clip) (snap : Snapshot), s.clip? c = some x → (s.job x.job).snapshot = some snap →
    let t := (Task.run (.enlist c) s).state
    let count := (allDests.filter fun e => match x.copies[e] with
      | some k => decide (k.state ≠ .noSpace ∧ k.state ≠ .failed ∧ k.state ≠ .aborted)
      | none => false).length
    (∀ b e, t.copy? b e ≠ s.copy? b e →
      b = c ∧ e ∈ snap.spares ∧ Qualifies s x e ∧ (x.state = .reading ∨ x.state = .read) ∧ count < snap.r
        ∧ t.copy? b e = some
            { state := .queued, origin := .spare, attempt := 1, window := none, trailer := none, written := 0
              suspended := false, readback := none })
    ∧ (x.state = .reading ∨ x.state = .read → count < snap.r → ∀ e before after, snap.spares = before ++ e :: after →
        Qualifies s x e → (∀ f ∈ before, ¬Qualifies s x f) → t.copy? c e ≠ s.copy? c e)
    ∧ t.ring = s.ring ∧ t.jobs = s.jobs ∧ t.ports = s.ports ∧ t.faults = s.faults

/-- A failed second attempt, and spare enlistment (sections 7.1, 7.2, 7.5). -/
def Obligations.FailedRepairsEnlistSpares : Prop := FailedRepairEnlistsASpare ∧ EnlistmentTakesQualifyingSpares

/-! ## Cards and readers -/

/-- SECTOR_READ (section 2.5): its refusals in order; taken, its item joins the tail of the port's FIFO and its reply
is owed from its entry; then the reader link is served. -/
def SectorReadRules : Prop :=
  ∀ (tag : Byte) (n start count : Nat) (s : State) (e : EntryNo), s.link.freeEntry = some e →
    let run := exec (.sectorRead tag n start count) s
    let answer (st : Status) : Host.Outcome State Fault Refusal := .next (s.quiet.answered e tag 0x18 st [])
    (8 ≤ n → run = answer .noSuch)
    ∧ ∀ p : PortNo, p.val = n →
        let x := s.port p
        (x.enabled = false → run = answer .noSuch)
        ∧ (x.enabled = true →
            (count = 0 ∨ 8 < count → run = answer .badParam)
            ∧ (1 ≤ count → count ≤ 8 →
                (x.state = .empty → run = answer .noCard)
        ∧ (x.state = .mounting ∨ x.state = .unreadable → run = answer .wrongState)
                ∧ ∀ card, x.state = .present ∨ x.state = .bound → x.identity = some card →
                    (card.capacity < start + count → run = answer .badParam)
            ∧ (start + count ≤ card.capacity →
                        run = .next (State.closeEvent
                          ((s.quiet.owing e tag 0x18).setPort p
                            { x with fifo := x.fifo ++ [⟨.sector e tag, start, count⟩] })))))

/-- A change of one port's card alone: its lamp as R43 forms it, one CARD_CHANGE, nothing else. -/
def OnlyPort (s t : State) (p : PortNo) (x : CardPort) : Prop :=
  t.port p = { x with lamp := t.formLamp p } ∧ (∀ q, q ≠ p → t.port q = s.port q) ∧ s.SameBooks t
    ∧ t.dests = s.dests ∧ t.lines = [] ∧ t.link = s.link.queueNotice ((Notice.cardChange p).frame t)

/-- READER_SLOT_SEATED and IDENTITY_TIMER_EXPIRY (section 2.3): an insertion at an EMPTY enabled port takes it to
MOUNTING with the timer started, at any other it is ignored; the expiry in MOUNTING leaves the port UNREADABLE.  An
expiry in any other state, or with the timer stopped, changes nothing: the model's choice, notes/assumptions/10.md. -/
def InsertionAndIdentityTimer : Prop :=
  ∀ (s : State) (p : PortNo),
    let x := s.port p
    (x.enabled = true → x.state = .empty →
      ∃ t, exec (.readerSlotSeated p) s = .next t
        ∧ OnlyPort s t p { x with state := .mounting, identity := none, identityTimer := true })
    ∧ (x.enabled = false ∨ x.state ≠ .empty → exec (.readerSlotSeated p) s = .next s.quiet)
    ∧ (x.enabled = true → x.state = .mounting → x.identityTimer = true →
      ∃ t, exec (.identityTimerExpiry p) s = .next t
        ∧ OnlyPort s t p { x with state := .unreadable, identityTimer := false })
    ∧ (x.enabled = false ∨ x.state ≠ .mounting ∨ x.identityTimer = false →
      exec (.identityTimerExpiry p) s = .next s.quiet)

/-- Job `j` holds the card identity. -/
def Holds (s : State) (j : JobNo) (card : Identity) : Prop :=
  (s.job j).state ≠ .free ∧ (s.job j).identity = some card

/-- CARD_IN without a job to bind to (section 2.3): ignored at a disabled or UNREADABLE port, and with the identity
already held; at an EMPTY or MOUNTING port whose card no job holds, or only jobs with a bound port, the port is
PRESENT with the identity and its timer stopped, and nothing else changes but its lamp and requests issued. -/
def CardInUnbound : Prop :=
  ∀ (s : State) (p : PortNo) (media capacity : Nat),
    let x := s.port p
    let card : Identity := ⟨media, capacity⟩
    (x.enabled = false ∨ x.state = .unreadable → exec (.cardIn p media capacity) s = .next s.quiet)
    ∧ (x.enabled = true → x.state = .present ∨ x.state = .bound → x.identity = some card →
        exec (.cardIn p media capacity) s = .next s.quiet)
    ∧ (x.enabled = true → x.state = .empty ∨ x.state = .mounting →
        (∀ j, Holds s j card → (s.job j).boundPort.isSome) →
          ∃ t, exec (.cardIn p media capacity) s = .next t
            ∧ (t.port p).state = .present ∧ (t.port p).identity = some card ∧ (t.port p).boundJob = none
            ∧ (t.port p).identityTimer = false ∧ (t.port p).released = x.released ∧ (t.port p).fifo = x.fifo
            ∧ (∀ q, q ≠ p → (s.port q).SameCard (t.port q)) ∧ (∀ d, (s.dest d).SameDrive (t.dest d))
            ∧ s.SameBooks t ∧ s.link.OnlyNotices t.link ∧ t.LampsFormed)

/-- A card's way to PRESENT or UNREADABLE while no job waits for it (section 2.3). -/
def Obligations.CardsArriveUnbound : Prop := InsertionAndIdentityTimer ∧ CardInUnbound

/-- CARD_IN of the card of a job with no bound port (section 2.3), with no lane at work and no copy of the job
suspended: the port is BOUND to the job and the job's bound port is this port; a LOADING or REPORTING job is otherwise
as it was, a PULLED one that was to be paused is PAUSED with its resume target absent, a RELEASED one gives the port's
memory its identity. -/
def Obligations.CardInBinds : Prop :=
  ∀ (s : State) (p : PortNo) (media capacity : Nat) (j : JobNo),
    let x := s.port p
    let y := s.job j
    let card : Identity := ⟨media, capacity⟩
    x.enabled = true → x.state = .empty ∨ x.state = .mounting → Holds s j card → (∀ i, Holds s i card → i = j) →
    y.boundPort = none → s.clips.length ≤ 4096 → s.LanesIdle →
    (∀ c ∈ y.clips, ∀ (d : DestNo) (k : Copy), s.copy? c d = some k → k.suspended = false) →
    y.state = .loading ∨ y.state = .reporting ∨ y.state = .released
      ∨ (y.state = .pulled ∧ y.resumeTarget = some .paused) →
      ∃ t, exec (.cardIn p media capacity) s = .next t
        ∧ (t.port p).state = .bound ∧ (t.port p).identity = some card ∧ (t.port p).boundJob = some j
        ∧ (t.port p).identityTimer = false
        ∧ (t.port p).released = (if y.state = .released then some card else x.released)
        ∧ t.job j =
          (if y.state = .pulled then { y with boundPort := some p, state := .paused, resumeTarget := none }
           else { y with boundPort := some p })
        ∧ (∀ i, i ≠ j → t.job i = s.job i) ∧ (∀ q, q ≠ p → (s.port q).SameCard (t.port q))
        ∧ (∀ d, (s.dest d).SameDrive (t.dest d)) ∧ t.clips = s.clips ∧ t.ring = s.ring ∧ t.plan = s.plan
        ∧ t.manifest = s.manifest ∧ t.faults = s.faults ∧ s.link.OnlyNotices t.link ∧ t.LampsFormed

/-- The two removals: CARD_OUT and the slot's change to not seated. -/
def IsRemoval (p : PortNo) (i : Instr) : Prop := i = .cardOut p ∨ i = .readerSlotNotSeated p

/-- A removal at a port that is not BOUND (section 2.4): nothing at a disabled or an EMPTY port but the end of an
event; else the port is EMPTY, identity, memory and timer gone, its FIFO empty when a card was PRESENT, each owed
sector read there answered NO_CARD and an outstanding request abandoned. -/
def RemovalUnbound : Prop :=
  ∀ (s : State) (p : PortNo) (i : Instr), IsRemoval p i →
    let x := s.port p
    (x.enabled = false → exec i s = .next s.quiet)
    ∧ (x.enabled = true → x.state = .empty → exec i s = .next s.quiet.closeEvent)
    ∧ (x.enabled = true → x.state = .mounting ∨ x.state = .unreadable ∨ x.state = .present → x.fifo.length ≤ 4096 →
        ∃ t, exec i s = .next t
          ∧ (t.port p).state = .empty ∧ (t.port p).identity = none ∧ (t.port p).released = none
          ∧ (t.port p).identityTimer = false
          ∧ (x.state = .present → (t.port p).fifo = []
              ∧ (x.outstanding.isSome → (t.port p).outstanding = x.outstanding ∧ (t.port p).abandoned = true)
              ∧ ∀ e tag start count code, ⟨.sector e tag, start, count⟩ ∈ x.fifo →
                  s.link.table[e] = some ⟨tag, code, false⟩ → replyFrame (.reply e) tag .noCard [] ∈ t.link.outq)
          ∧ (∀ q, q ≠ p → (s.port q).SameCard (t.port q)) ∧ (∀ d, (s.dest d).SameDrive (t.dest d))
          ∧ s.SameBooks t ∧ t.LampsFormed)

/-- From `s` to `t` job `j` has lost the card of port `p` (section 2.4): its bound port is absent.  A RUNNING or PAUSED job is
PULLED at its checkpoint, the slot it was filling is freed, its resume target follows its state and its pause-pending
flag, and CARD_PULLED is taken, naming port, job and clip; any other job keeps every other field and no fault is
raised. -/
def LosesItsCard (s t : State) (j : JobNo) (p : PortNo) : Prop :=
  let y := s.job j
  (y.state = .running ∨ y.state = .paused →
      t.job j =
        { y with
          boundPort := none, state := .pulled, pausePending := false
          resumeTarget := some (if y.state = .running ∧ y.pausePending = false then .running else .paused)
          readPos := y.checkpoint.pos, live := y.checkpoint.sums, summed := y.checkpoint.pos.unit * 1048576
          held := if (s.fillingOf (.job j)).isSome then y.held - 1 else y.held }
      ∧ t.ring.freeList = s.ring.freeList ++ (s.fillingOf (.job j)).toList
      ∧ t.faults = s.faults.take
          ⟨.cardPulled, some j, y.clips[y.checkpoint.pos.clip]?, none, some p, .cardRemoved⟩)
    ∧ (y.state ≠ .running → y.state ≠ .paused →
        t.job j = { y with boundPort := none } ∧ t.faults = s.faults ∧ t.ring = s.ring)

/-- A removal at a port BOUND to a job, with no supply work in its FIFO and no requester waiting for a slot (section
2.4): the port is EMPTY and the job has lost its card. -/
def RemovalPullsTheJob : Prop :=
  ∀ (s : State) (p : PortNo) (i : Instr) (j : JobNo), IsRemoval p i →
    let x := s.port p
    x.enabled = true → x.state = .bound → x.boundJob = some j → (∀ w ∈ x.fifo, ∃ c k, w.work = .job j c k) →
    s.ring.Sound → s.ring.waitList = [] → s.faults.route .cardPulled ≠ .hold →
      ∃ t, exec i s = .next t
        ∧ (t.port p).state = .empty ∧ (t.port p).identity = none ∧ (t.port p).boundJob = none
        ∧ (t.port p).fifo = [] ∧ (t.port p).released = none
        ∧ (x.outstanding.isSome → (t.port p).outstanding = x.outstanding ∧ (t.port p).abandoned = true)
        ∧ LosesItsCard s t j p
        ∧ (∀ l, l ≠ j → t.job l = s.job l)
        ∧ (∀ q, q ≠ p → (s.port q).SameCard (t.port q)) ∧ (∀ d, (s.dest d).SameDrive (t.dest d))
        ∧ t.clips = s.clips ∧ t.plan = s.plan ∧ t.manifest = s.manifest ∧ t.LampsFormed

/-- From `s` to `t` another card has come to port `p`, which held one: the identity is `card`, the memory and the FIFO
are empty, a request that was outstanding is abandoned, and the other ports and the lamps are as they should be. -/
def AnotherCardAt (s t : State) (p : PortNo) (card : Identity) : Prop :=
  (t.port p).identity = some card ∧ (t.port p).released = none ∧ (t.port p).identityTimer = false
    ∧ (t.port p).fifo = []
    ∧ ((s.port p).outstanding.isSome →
        (t.port p).outstanding = (s.port p).outstanding ∧ (t.port p).abandoned = true)
    ∧ (∀ q, q ≠ p → (s.port q).SameCard (t.port q)) ∧ (∀ d, (s.dest d).SameDrive (t.dest d)) ∧ t.LampsFormed

/-- CARD_IN with another identity at a PRESENT port (sections 2.3, 2.4): the card held is removed, its sector reads
answered NO_CARD, and the new one arrives.  The port is PRESENT with it when no job waits for it, and BOUND to the LOADING
or REPORTING job that does.  That the arrival passes through MOUNTING is the model's choice (notes/assumptions/11.md). -/
def AnotherCardIsPresent : Prop :=
  ∀ (s : State) (p : PortNo) (media capacity : Nat) (old : Identity),
    let x := s.port p
    let card : Identity := ⟨media, capacity⟩
    x.enabled = true → x.state = .present → x.identity = some old → old ≠ card → x.fifo.length ≤ 4096 →
      ((∀ j, Holds s j card → (s.job j).boundPort.isSome) →
        ∃ t, exec (.cardIn p media capacity) s = .next t
          ∧ AnotherCardAt s t p card ∧ (t.port p).state = .present ∧ (t.port p).boundJob = none ∧ s.SameBooks t
          ∧ (∀ e tag start count code, ⟨.sector e tag, start, count⟩ ∈ x.fifo →
              s.link.table[e] = some ⟨tag, code, false⟩ → replyFrame (.reply e) tag .noCard [] ∈ t.link.outq)
          ∧ (x.fifo = [] → s.LampsFormed → (s.link.outq.filter fun f => decide (f.owner = .notice)).length + 3 ≤ 32 →
              let change (st : Byte) (identity : List Byte) (lamp : Byte) : OutFrame :=
                ⟨.notice, 0x81, 0, [BitVec.ofNat 8 p.val, st] ++ identity ++ [255, lamp]⟩
              t.link.outq = s.link.outq
                ++ [change 0 (0 :: List.replicate 14 0) 0, change 1 (0 :: List.replicate 14 0) 3,
                    change 2 (1 :: Bytes.le 8 media ++ Bytes.le 6 capacity) 3]))
      ∧ ∀ j, Holds s j card → (∀ i, Holds s i card → i = j) → (s.job j).boundPort = none → s.clips.length ≤ 4096 →
        s.LanesIdle →
        (∀ c ∈ (s.job j).clips, ∀ (d : DestNo) (k : Copy), s.copy? c d = some k → k.suspended = false) →
        (s.job j).state = .loading ∨ (s.job j).state = .reporting →
          ∃ t, exec (.cardIn p media capacity) s = .next t
            ∧ AnotherCardAt s t p card ∧ (t.port p).state = .bound ∧ (t.port p).boundJob = some j
            ∧ t.job j = { s.job j with boundPort := some p } ∧ (∀ i, i ≠ j → t.job i = s.job i) ∧ t.clips = s.clips
            ∧ t.ring = s.ring ∧ t.plan = s.plan ∧ t.manifest = s.manifest ∧ t.faults = s.faults

/-- CARD_IN with another identity at a port BOUND to a job (sections 2.3, 2.4), with no supply work in its FIFO and no
requester waiting for a slot: the job loses its card as by a removal, and the new card, for which no job waits, is
PRESENT. -/
def AnotherCardPullsTheJob : Prop :=
  ∀ (s : State) (p : PortNo) (media capacity : Nat) (old : Identity) (j : JobNo),
    let x := s.port p
    let card : Identity := ⟨media, capacity⟩
    x.enabled = true → x.state = .bound → x.boundJob = some j → x.identity = some old → old ≠ card →
    (∀ w ∈ x.fifo, ∃ c k, w.work = .job j c k) → s.ring.Sound → s.ring.waitList = [] →
    s.faults.route .cardPulled ≠ .hold → (∀ i, Holds s i card → i ≠ j ∧ (s.job i).boundPort.isSome) →
      ∃ t, exec (.cardIn p media capacity) s = .next t
        ∧ AnotherCardAt s t p card ∧ (t.port p).state = .present ∧ (t.port p).boundJob = none ∧ LosesItsCard s t j p
        ∧ (∀ l, l ≠ j → t.job l = s.job l) ∧ t.clips = s.clips ∧ t.plan = s.plan ∧ t.manifest = s.manifest

/-- Removal of a card, unbound and BOUND, by itself and by a card that takes its place (sections 2.3, 2.4). -/
def Obligations.RemovalRules : Prop :=
  RemovalUnbound ∧ RemovalPullsTheJob ∧ AnotherCardIsPresent ∧ AnotherCardPullsTheJob

/-- A failed attempt 1, 2 or 3 of a reader piece (section 2.2): an ERROR, DATA of another byte count than asked for,
or the reader timer's expiry, which first restarts the link.  The piece is issued again at once with the next attempt
number and the kind of the failure; nothing else changes. -/
def FailedAttemptIsReissued : Prop :=
  ∀ (s : State) (p : PortNo) (r : ReaderRequest), (s.port p).enabled = true → (s.port p).outstanding = some r →
    (s.port p).abandoned = false → r.attempt < 4 →
      let again (detail : Detail) (before : List LineOut) : State :=
        { s.setPort p
            { s.port p with
              outstanding := some ⟨r.item, r.attempt + 1, some detail⟩, abandoned := false, readerTimer := true } with
          lines := before ++ [.readReq p r.item.start r.item.count] }
      exec (.readerError p) s = .next (again .readerError [])
      ∧ (∀ bytes : List Byte, bytes.length ≠ r.item.count * 512 →
          exec (.readerData p bytes) s = .next (again .readerError []))
      ∧ ((s.port p).readerTimer = true →
          exec (.readerTimerExpiry p) s = .next (again .readerTimeout [.restartReader p]))

/-- A response that finds no request outstanding is discarded, one to an abandoned request only clears it, and a
disabled port takes none (sections 2.1, 2.2).  An expiry of a stopped timer changes nothing: the model's choice,
notes/assumptions/10.md. -/
def LateReaderResponses : Prop :=
  ∀ (s : State) (p : PortNo) (i : Instr), (∃ bytes, i = .readerData p bytes) ∨ i = .readerError p →
    ((s.port p).enabled = false ∨ (s.port p).outstanding = none → exec i s = .next s.quiet)
    ∧ ((s.port p).enabled = true → (s.port p).outstanding.isSome → (s.port p).abandoned = true →
        let x : CardPort := { s.port p with outstanding := none, abandoned := false, readerTimer := false }
        exec i s = .next (s.quiet.setPort p x).closeEvent
        ∧ ((s.port p).readerTimer = true →
            exec (.readerTimerExpiry p) s
              = .next (State.closeEvent { s.setPort p x with lines := [.restartReader p] })))
    ∧ ((s.port p).readerTimer = false → exec (.readerTimerExpiry p) s = .next s.quiet)

/-- Failed attempts of a reader piece, and responses of a drive and of a reader that find no request, or an abandoned one
(sections 2.1, 2.2, 5.2). -/
def Obligations.ResponsesWithoutEffect : Prop := FailedAttemptIsReissued ∧ LateResponsesOnlyClear ∧ LateReaderResponses

/-- The end of a sector read (sections 2.2, 2.5): DATA of the right size answers it OK with the bytes, after a failed
attempt with CARD_RETRY taken; its fourth failed attempt answers it READ_ERROR with CARD_FAULT taken.  The item leaves
the FIFO; no job, clip, slot or destination work changes. -/
def SectorReadEnds : Prop :=
  ∀ (s : State) (p : PortNo) (r : ReaderRequest) (e : EntryNo) (tag : Byte) (rest : List ReaderItem),
    (s.port p).enabled = true → (s.port p).outstanding = some r → (s.port p).abandoned = false →
    r.item.work = .sector e tag → (s.port p).fifo = r.item :: rest → s.link.table[e] = some ⟨tag, 0x18, false⟩ →
    (∀ c, s.faults.route c ≠ .hold) →
      let ends (i : Instr) (st : Status) (payload : List Byte) (u : FaultUnit) : Prop :=
        ∃ t, exec i s = .next t ∧ replyFrame (.reply e) tag st payload ∈ t.link.outq
          ∧ t.link.table = s.link.table.set e (some ⟨tag, 0x18, true⟩) ∧ (t.port p).fifo = rest
          ∧ (rest = [] → (t.port p).outstanding = none) ∧ t.faults = u ∧ t.jobs = s.jobs ∧ t.clips = s.clips
          ∧ t.ring = s.ring ∧ t.plan = s.plan ∧ t.manifest = s.manifest ∧ (∀ d, (s.dest d).SameDrive (t.dest d))
      let lost (detail : Detail) := s.faults.take ⟨.cardFault, none, none, none, some p, detail⟩
      (∀ bytes : List Byte, bytes.length = r.item.count * 512 →
        (r.lastFail = none → ends (.readerData p bytes) .ok bytes s.faults)
        ∧ ∀ detail, r.lastFail = some detail →
            ends (.readerData p bytes) .ok bytes (s.faults.take ⟨.cardRetry, none, none, none, some p, detail⟩))
      ∧ (r.attempt = 4 →
          ends (.readerError p) .readError [] (lost .readerError)
          ∧ ((s.port p).readerTimer = true → ends (.readerTimerExpiry p) .readError [] (lost .readerTimeout)))

/-- SECTOR_READ from its request to its end (sections 2.2, 2.5). -/
def Obligations.SectorReads : Prop := SectorReadRules ∧ SectorReadEnds

/-- DATA for a job's piece with more pieces of the unit behind it (sections 2.6, 3.6, 4.7): the clip's bytes of it
join the slot's and are fed to the job's live sums; then the next piece is issued. -/
def PieceJoinsTheUnit : Prop :=
  ∀ (s : State) (p : PortNo) (bytes : List Byte) (r : ReaderRequest) (rest : List ReaderItem) (j : JobNo) (c k n : Nat)
    (y : Slot),
    (s.port p).enabled = true → (s.port p).outstanding = some r → (s.port p).abandoned = false →
    bytes.length = r.item.count * 512 → r.item.work = .job j c k → r.lastFail = none →
    (s.port p).fifo = r.item :: rest → (∃ i ∈ rest, i.work = .job j c k) → s.fillingOf (.job j) = some n →
    s.slot? n = some y →
      let mine := bytes.take (y.byteCount - y.data.length)
      exec (.readerData p bytes) s = .next
        (State.closeEvent
          (((s.quiet.setPort p
              { s.port p with outstanding := none, abandoned := false, readerTimer := false, fifo := rest }).modSlot
            n fun y => { y with data := y.data ++ mine }).setJob
            j { s.job j with live := (s.job j).live.feed mine, summed := (s.job j).summed + mine.length }))

/-- DATA for the last piece of a unit that is not its clip's last (sections 2.6, 3.6, 4.8): the slot is STAGED for the
destinations whose plan copies are being written, an item of it joins the job's queue at each, and read position,
checkpoint and live sums move on to the next unit together. -/
def UnitEndStagesTheSlot : Prop :=
  ∀ (s : State) (p : PortNo) (bytes : List Byte) (r : ReaderRequest) (j : JobNo) (c k n : Nat) (x : Clip) (y : Slot)
    (rest : List ReaderItem),
    (s.port p).enabled = true → (s.port p).outstanding = some r → (s.port p).abandoned = false →
    bytes.length = r.item.count * 512 → r.item.work = .job j c k → r.lastFail = none →
    (s.port p).fifo = r.item :: rest → (∀ i ∈ rest, i.work ≠ .job j c k) → s.fillingOf (.job j) = some n →
    s.slot? n = some y → s.clip? c = some x → x.job = j → x.state = .reading → k + 1 < clipUnits x.length →
    (s.job j).state = .running → (s.job j).pausePending = false → (s.job j).clips[(s.job j).readPos.clip]? = some c →
    s.ring.Sound →
      let ds := x.destsWith fun q => decide (q.origin = .plan ∧ q.state = .writing)
      let mine := bytes.take (y.byteCount - y.data.length)
      let pos : Position := ⟨(s.job j).readPos.clip, k + 1⟩
      ds ≠ [] →
        ∃ t, exec (.readerData p bytes) s = .next t
          ∧ t.slot? n = some { y with state := .staged, pending := ds, data := y.data ++ mine }
          ∧ (t.job j).readPos = pos ∧ (t.job j).live = (s.job j).live.feed mine
          ∧ (t.job j).checkpoint = ⟨pos, (s.job j).live.feed mine⟩ ∧ (t.job j).state = .running
          ∧ (∀ d ∈ ds, (t.dest d).queue (.wq j) = (s.dest d).queue (.wq j) ++ [Item.new c (.data n)])
          ∧ (∀ d, d ∉ ds → (s.dest d).SameDrive (t.dest d)) ∧ (∀ l, l ≠ j → t.job l = s.job l)
          ∧ t.clips = s.clips ∧ t.plan = s.plan ∧ t.manifest = s.manifest ∧ t.faults = s.faults

/-- DATA for a piece of a job's unit: more to come, and the unit's last (sections 2.6, 3.6, 4.7, 4.8). -/
def Obligations.PiecesBecomeUnits : Prop := PieceJoinsTheUnit ∧ UnitEndStagesTheSlot

/-- The card sectors of runs laid end to end, in order. -/
def sectorsOfRuns (runs : List (Nat × Nat)) : List Nat := runs.flatMap fun r => (List.range r.2).map fun i => r.1 + i

/-- The pieces of a unit (section 2.6): of a clip whose extents hold its bytes, the pieces of unit k, laid end to end,
are the sectors from place 2048·k on of the extents laid end to end, as many as the unit's bytes take, in order; each
piece is a nonempty run of sectors inside one extent. -/
def Obligations.PiecesCoverTheUnit : Prop :=
  ∀ (x : Clip) (k : Nat), x.length ≤ (x.extents.map (·.count)).sum * 512 → k < clipUnits x.length →
    let sectors := (min (x.length - k * 1048576) 1048576 + 511) / 512
    sectorsOfRuns (unitPieces x k)
      = ((sectorsOfRuns (x.extents.map fun e => (e.start, e.count))).drop (2048 * k)).take sectors
    ∧ ((unitPieces x k).map Prod.snd).sum = sectors
    ∧ ∀ a n, (a, n) ∈ unitPieces x k → 1 ≤ n ∧ ∃ e ∈ x.extents, e.start ≤ a ∧ a + n ≤ e.start + e.count

/-- The clip list of job `j` holds at most 4096 numbers, none twice, and each clip of it is a clip of the job
(chapter 1, "The clip table"); at most 4096 clip records are in use. -/
def ListFits (s : State) (j : JobNo) : Prop :=
  s.clips.length ≤ 4096 ∧ (s.job j).clips.length ≤ 4096 ∧ (s.job j).clips.Nodup
    ∧ ∀ b ∈ (s.job j).clips, ∀ z, s.clip? b = some z → z.job = j

/-- DATA for the last piece of a clip's last unit (sections 2.6, 3.6, 4.8), with no lane at work: the clip is READ with
the sum of its bytes; the slot is STAGED for the destinations whose plan copies are being written, and its item and
then the trailer's join the job's queue at each.  With no clip of the job LISTED the job is DRAINING, past its list, and a
pending pause is gone; else it stands at its first LISTED clip, which has units and is READING, or is PAUSED before it
with its pending pause. -/
def LastUnitEndsTheClip : Prop :=
  ∀ (s : State) (p : PortNo) (bytes : List Byte) (r : ReaderRequest) (rest : List ReaderItem) (j : JobNo) (c k n : Nat)
    (x : Clip) (y : Slot),
    (s.port p).enabled = true → (s.port p).outstanding = some r → (s.port p).abandoned = false →
    bytes.length = r.item.count * 512 → r.item.work = .job j c k → r.lastFail = none →
    (s.port p).fifo = r.item :: rest → (∀ i ∈ rest, i.work ≠ .job j c k) → s.fillingOf (.job j) = some n →
    s.slot? n = some y → s.clip? c = some x → x.job = j → c ∈ (s.job j).clips → x.state = .reading →
    clipUnits x.length = k + 1 → (s.job j).state = .running → s.ring.Sound → s.LanesIdle →
    s.faults.route .destFull ≠ .hold → Requester.job j ∉ s.ring.waitList → SparesFit (s.job j) → ListFits s j →
    (∀ m z, (m, z) ∈ s.ring.held → z.state = .filling → z.owner = .job j → m = n) →
      let ds := x.destsWith fun q => decide (q.origin = .plan ∧ q.state = .writing ∧ q.suspended = false)
      let mine := bytes.take (y.byteCount - y.data.length)
      let sum := (s.job j).live.feed mine
      let stands (t : State) (i : Nat) : Prop :=
        (t.job j).readPos = ⟨i, 0⟩ ∧ (t.job j).checkpoint = ⟨⟨i, 0⟩, ⟨1, 0⟩⟩ ∧ (t.job j).live = ⟨1, 0⟩
      ds ≠ [] → (∀ (d : DestNo) (q : Copy), x.copies[d] = some q → q.suspended = false) →
        ∃ t, exec (.readerData p bytes) s = .next t
          ∧ t.clip? c = some { x with state := .read, sum := some (sum.close x.length) }
          ∧ t.slot? n = some { y with state := .staged, pending := ds, data := y.data ++ mine }
          ∧ (∀ d ∈ ds, (t.dest d).queue (.wq j)
              = (s.dest d).queue (.wq j) ++ [Item.new c (.data n), Item.new c .trailer])
          ∧ (∀ d, d ∉ ds → ∀ w, (t.dest d).queue w = (s.dest d).queue w) ∧ (∀ l, l ≠ j → t.job l = s.job l)
          ∧ t.plan = s.plan ∧ t.manifest = s.manifest
          ∧ ((∀ b ∈ (s.job j).clips, b ≠ c → s.clipState? b ≠ some .listed) →
              (t.job j).state = .draining ∧ (t.job j).pausePending = false ∧ (t.job j).pauseCause = none
              ∧ stands t (s.job j).clips.length ∧ (∀ b, b ≠ c → t.clip? b = s.clip? b) ∧ t.faults = s.faults)
          ∧ ∀ m b z, (s.job j).clips[m]? = some b → b ≠ c → s.clip? b = some z → z.state = .listed → 0 < z.length →
              (∀ i a, i < m → (s.job j).clips[i]? = some a → a = c ∨ s.clipState? a ≠ some .listed) →
                stands t m
                ∧ ((s.job j).pausePending = false →
                    (t.job j).state = .running ∧ t.clipState? b = some .reading)
                ∧ ((s.job j).pausePending = true →
                    (t.job j).state = .paused ∧ (t.job j).pausePending = false
                    ∧ (t.job j).pauseCause = (s.job j).pauseCause ∧ t.clip? b = some z)

/-- The fourth failed attempt of a job's piece (sections 2.2, 2.6), with lanes and read lanes at rest, no requester
waiting for a slot and CARD_FAULT not routed HOLD, in a job with no other clip LISTED or in work: CARD_FAULT is taken;
the clip is SOURCE_FAULT without a sum, its live copies ABORTED; the unit's pieces and the slot being filled are gone;
the job's reading is over and, nothing of it being in motion, it is HELD, past its list. -/
def SourceFaultEndsTheClip : Prop :=
  ∀ (s : State) (p : PortNo) (r : ReaderRequest) (rest : List ReaderItem) (j : JobNo) (c k n : Nat) (x : Clip) (y : Slot),
    (s.port p).enabled = true → (s.port p).outstanding = some r → (s.port p).abandoned = false → r.attempt = 4 →
    r.item.work = .job j c k → (s.port p).fifo = r.item :: rest → (s.job j).boundPort = some p →
    s.fillingOf (.job j) = some n → s.slot? n = some y → s.clip? c = some x → x.job = j → c ∈ (s.job j).clips →
    x.state = .reading → (s.job j).state = .running → s.ring.Sound → s.ring.waitList = [] → s.LanesIdle →
    (∀ d, (s.dest d).rl.jobs = []) → s.faults.route .cardFault ≠ .hold →
    (∀ i ∈ rest, ∀ d l k m, i.work ≠ .supply d l c k m) →
    (∀ m z, (m, z) ∈ s.ring.held →
      (z.state = .filling → z.owner = .job j → m = n) ∧ (z.clip = c → z.owner = .job j)) →
    (∀ b ∈ (s.job j).clips, b ≠ c → s.clipState? b ≠ some .listed
      ∧ ∀ (d : DestNo) (q : Copy), s.copy? b d = some q → q.state.live = false) →
      let past : Nat := (s.job j).clips.length
      ∃ t, exec (.readerError p) s = .next t
        ∧ t.clip? c = some
            { x with
              state := .sourceFault
              copies := x.copies.map fun q => q.map fun q => if q.state.live then { q with state := .aborted } else q }
        ∧ (∀ b, b ≠ c → t.clip? b = s.clip? b)
        ∧ t.faults = s.faults.take ⟨.cardFault, some j, some c, none, some p, .readerError⟩
        ∧ t.slot? n = none ∧ n ∈ t.ring.freeList ∧ t.ring.Sound
        ∧ (t.port p).fifo = (rest.filter fun i => match i.work with
            | .job l _ _ => decide (l ≠ j)
            | .supply _ _ _ _ _ => true
            | .sector _ _ => true)
        ∧ (t.job j).state = .held ∧ (t.job j).readPos = ⟨past, 0⟩ ∧ (t.job j).checkpoint = ⟨⟨past, 0⟩, ⟨1, 0⟩⟩
        ∧ (t.job j).live = ⟨1, 0⟩ ∧ (t.job j).pausePending = false ∧ (t.job j).pauseCause = none
        ∧ (∀ d w, ∀ i ∈ (t.dest d).queue w, i.clip = c → ∀ q, x.copies[d] = some q → q.state.live = false)
        ∧ (∀ l, l ≠ j → t.job l = s.job l) ∧ t.plan = s.plan ∧ t.manifest = s.manifest

/-- The two ends of a clip's read that a reader brings about (sections 2.6, 3.6, 4.8). -/
def Obligations.ClipReadsEnd : Prop := LastUnitEndsTheClip ∧ SourceFaultEndsTheClip

/-- DATA for the last supply piece of a lane's slot, while the lane has a request for its next slot standing (sections
2.7, 3.6, 7.3): the slot is STAGED for the lane's destination with the clip's bytes of the piece, which are also fed to the
lane's sum while its copy is taken wholly from the card; nothing else of the lane changes. -/
def SupplyPieceFillsTheSlot : Prop :=
  ∀ (s : State) (p : PortNo) (bytes : List Byte) (r : ReaderRequest) (rest : List ReaderItem) (d : DestNo) (j : JobNo)
    (c k n : Nat) (y : Slot),
    (s.port p).enabled = true → (s.port p).outstanding = some r → (s.port p).abandoned = false →
    bytes.length = r.item.count * 512 → r.item.work = .supply d j c k n → r.lastFail = none →
    (s.port p).fifo = r.item :: rest → s.slot? n = some y → (s.dest d).lane.standing.isSome →
    (s.dest d).lane.current = some c → (s.clip? c).isSome →
      let mine := bytes.take (y.byteCount - y.data.length)
      let l := (s.dest d).lane
      ∃ t, exec (.readerData p bytes) s = .next t
        ∧ ((∃ i ∈ rest, i.work = .supply d j c k n) → t.slot? n = some { y with data := y.data ++ mine })
        ∧ ((∀ i ∈ rest, i.work ≠ .supply d j c k n) →
            t.slot? n = some { y with state := .staged, pending := [d], data := y.data ++ mine })
        ∧ (∀ m, m ≠ n → t.slot? m = s.slot? m) ∧ (t.port p).fifo = rest
        ∧ (t.dest d).lane = (if l.cardOnly then { l with sum := l.sum.map fun u => u.feed mine } else l)
        ∧ (∀ f, f ≠ d → (s.dest f).SameDrive (t.dest f)) ∧ t.jobs = s.jobs ∧ t.clips = s.clips ∧ t.plan = s.plan
        ∧ t.manifest = s.manifest ∧ t.faults = s.faults

/-- The fourth failed attempt of a supply piece (sections 2.2, 2.7, 7.3), CARD_FAULT not routed HOLD, with another
source left: CARD_FAULT is taken, naming job, clip, destination and port; the unit's other pieces leave the FIFO, the
card is excluded for the unit, and the unit is sourced again from the next VERIFIED copy. -/
def FailedSupplyPieceIsResourced : Prop :=
  ∀ (s : State) (p : PortNo) (r : ReaderRequest) (rest : List ReaderItem) (d e : DestNo) (j : JobNo) (c k n : Nat) (x : Clip)
    (y : Slot) (i : Item),
    (s.port p).enabled = true → (s.port p).outstanding = some r → (s.port p).abandoned = false → r.attempt = 4 →
    r.item.work = .supply d j c k n → (s.port p).fifo = r.item :: rest → s.clip? c = some x → Fills s d n c k y i →
    NextSource s d x i.noDests e → s.faults.route .cardFault ≠ .hold →
      ∃ t, exec (.readerError p) s = .next t
        ∧ SourcedFrom s t d n c k y i { i with noCard := true } e
        ∧ (t.port p).fifo = rest.filter (fun z => decide (z.work ≠ .supply d j c k n))
        ∧ t.faults = s.faults.take ⟨.cardFault, some j, some c, some d, some p, .readerError⟩
        ∧ t.jobs = s.jobs ∧ t.clips.map Prod.fst = s.clips.map Prod.fst ∧ t.ring.freeList = s.ring.freeList
        ∧ t.plan = s.plan ∧ t.manifest = s.manifest

/-- A SUPPLY job that ends without its bytes, by FAIL, by the RETRY that finds its count at 7, or by a wrong byte count,
with no card bound (sections 6.5, 7.1, 7.3): its destination is excluded for the unit, and the unit is sourced again from
the next VERIFIED copy. -/
def FailedSupplyJobIsResourced : Prop :=
  ∀ (s : State) (d e g : DestNo) (cmd : DriveCmd) (r c k n : Nat) (more : List ReadJob) (x : Clip) (y : Slot) (i : Item)
    (command : Instr),
    (s.dest g).outstanding = some ⟨cmd, .readLane⟩ → (s.dest g).abandoned = false →
    (s.dest g).rl.jobs = .supply c k n d :: more → (s.dest g).rl.active = some ⟨.supply, none, r⟩ → s.clip? c = some x →
    Fills s d n c k y i → NextSource s d x (g :: i.noDests) e → (s.job x.job).boundPort = none →
    command = .driveFail g ∨ (command = .driveRetry g ∧ r = 7)
      ∨ (∃ bytes : List Byte, command = .driveDone g bytes ∧ cmd.kind = .read ∧ bytes.length ≠ cmd.count * 512) →
      ∃ t i', exec command s = .next t
        ∧ i'.clip = i.clip ∧ i'.kind = i.kind ∧ i'.retries = i.retries ∧ i'.noCard = i.noCard
        ∧ (∀ f, f ∈ i'.noDests ↔ f = g ∨ f ∈ i.noDests)
        ∧ SourcedFrom s t d n c k y i i' e ∧ (t.dest g).rl.jobs = more ∧ t.faults = s.faults
        ∧ t.jobs = s.jobs ∧ t.ring.freeList = s.ring.freeList ∧ t.plan = s.plan ∧ t.manifest = s.manifest

/-- The DONE of a SUPPLY job's READ, while the lane it serves has a request standing (sections 4.7, 7.1, 7.3): the slot
is STAGED for that lane's destination with the unit's bytes, and the job leaves the read lane. -/
def SupplyJobFillsTheSlot : Prop :=
  ∀ (s : State) (d g : DestNo) (cmd : DriveCmd) (r c k n b : Nat) (more : List ReadJob) (y : Slot) (bytes : List Byte),
    (s.dest g).outstanding = some ⟨cmd, .readLane⟩ → (s.dest g).abandoned = false → cmd.kind = .read →
    bytes.length = cmd.count * 512 → (s.dest g).rl.jobs = .supply c k n d :: more →
    (s.dest g).rl.active = some ⟨.supply, none, r⟩ → s.slot? n = some y → (s.dest d).lane.current = some b →
    (s.clip? b).isSome → (s.dest d).lane.standing.isSome →
      ∃ t, exec (.driveDone g bytes) s = .next t
        ∧ t.slot? n = some { y with state := .staged, pending := [d], data := bytes.take y.byteCount }
        ∧ (∀ m, m ≠ n → t.slot? m = s.slot? m) ∧ (t.dest g).rl.jobs = more ∧ (t.dest d).lane = (s.dest d).lane
        ∧ t.jobs = s.jobs ∧ t.faults = s.faults ∧ t.plan = s.plan ∧ t.manifest = s.manifest

/-- The two ways a lane's slot is filled, and what follows when one of them fails (sections 2.2, 2.7, 6.5, 7.1, 7.3). -/
def Obligations.SuppliesFillTheLanesSlots : Prop :=
  SupplyPieceFillsTheSlot ∧ FailedSupplyPieceIsResourced ∧ SupplyJobFillsTheSlot ∧ FailedSupplyJobIsResourced

/-- The slots of a requester that are held in `s` and no longer in `t`. -/
def freedOf (s t : State) (r : Requester) : List Nat :=
  (s.ring.held.filter fun (n, y) => decide (y.owner = r) && (t.slot? n).isNone).map Prod.fst

/-- The loss of a destination with live copies and VERIFY jobs of its own (section 5.8), while every other lane and read
lane is at rest, nothing waits for a slot and no spare but the lost destination is ACTIVE.  Its live copies are ABORTED,
every other copy is as it was; their items leave its queues and its lane, its read lane is empty, the arbiter reset,
the binding kept.  A STAGED slot of such a clip loses the destination and is freed when it was the last; a slot the lane
filled for such a copy is freed; the held-slot count of its owner falls by one for each slot freed.  A DRAINING job left with an unsettled clip and without a live copy in motion is HELD.
DEST_LOST is taken. -/
def LiveCopiesAreAborted : Prop :=
  ∀ (s : State) (d : DestNo) (i : Instr) (detail : Detail) (present : Bool) (capacity : Option Nat),
    let live (c : Nat) : Prop := ∃ k, s.copy? c d = some k ∧ k.state.live = true
    Loses (s.dest d) d i detail present capacity → InUse (s.dest d) →
    (∀ e, e ≠ d → (s.dest e).lane.copies = [] ∧ (s.dest e).lane.current = none ∧ (s.dest e).rl.jobs = []) →
    (∀ job ∈ (s.dest d).rl.jobs, ∃ c, job = .verify c) → Table.wf s.clips = true → s.clips.length ≤ 4096 →
    s.ring.Sound → s.ring.waitList = [] → (∀ r, NotStalled s r) →
    (∀ j snap, (s.job j).snapshot = some snap →
      snap.spares.length ≤ 4 ∧ ∀ e ∈ snap.spares, e = d ∨ (s.dest e).state ≠ .active) →
      ∃ t, exec i s = .next t
        ∧ (∀ c k, s.copy? c d = some k → k.state.live = true → t.copy? c d = some { k with state := .aborted })
        ∧ (∀ c e, ¬(e = d ∧ live c) → t.copy? c e = s.copy? c e)
        ∧ (t.dest d).state = .lost ∧ (t.dest d).present = present ∧ (t.dest d).capacity = capacity
        ∧ (t.dest d).binding = (s.dest d).binding ∧ (t.dest d).arb = Arbiter.reset ∧ (t.dest d).rl = ReadLane.empty
        ∧ (t.dest d).outstanding = none ∧ .restartDrive d ∈ t.lines
        ∧ (∀ w, (t.dest d).queue w = ((s.dest d).queue w).filter fun z =>
            !((s.copy? z.clip d).any fun k => k.state.live))
        ∧ (t.dest d).lane.copies
          = ((s.dest d).lane.copies.filter fun c => !((s.copy? c d).any fun k => k.state.live))
        ∧ (∀ c, live c → (t.dest d).lane.current ≠ some c)
        ∧ (∀ p z, z ∈ (t.port p).fifo ↔
            z ∈ (s.port p).fifo ∧ ∀ j c k n, z.work = .supply d j c k n → ¬live c)
        ∧ (∀ n y, s.slot? n = some y → y.state = .staged → live y.clip → y.pending ≠ [] →
            ((∃ e ∈ y.pending, e ≠ d) → t.slot? n = some { y with pending := y.pending.filter (· ≠ d) })
            ∧ ((∀ e ∈ y.pending, e = d) → t.slot? n = none ∧ n ∈ t.ring.freeList))
        ∧ (∀ n y, s.slot? n = some y → y.state = .staged → ¬live y.clip → t.slot? n = some y)
        ∧ (∀ n y z, s.slot? n = some y → y.state = .filling → y.owner = .lane d → z ∈ (s.dest d).cq → z.kind = .data n →
            (∀ z ∈ (s.dest d).cq, z.kind = .data n → live z.clip) → t.slot? n = none ∧ n ∈ t.ring.freeList)
        ∧ (∀ j c x, (s.job j).state = .draining → (s.job j).snapshot.isSome → c ∈ (s.job j).clips → live c →
            s.clip? c = some x → x.state ≠ .secured → x.state ≠ .excluded →
            (∀ b ∈ (s.job j).clips, ∀ z, s.clip? b = some z → z.job = j) →
            (∀ b ∈ (s.job j).clips, ∀ (e : DestNo) (k : Copy), s.copy? b e = some k → k.state.live = true →
              k.suspended = false → e = d) →
              (t.job j).state = .held)
        ∧ t.faults = s.faults.take ⟨.destLost, none, none, some d, none, detail⟩ ∧ t.plan = s.plan
        ∧ t.manifest = s.manifest ∧ (∀ j, (t.job j).held = (s.job j).held - (freedOf s t (.job j)).length)
        ∧ ∀ f, f ≠ d →
            ({ s.dest f with
                lane := { (s.dest f).lane with held := (s.dest f).lane.held - (freedOf s t (.lane f)).length } }).SameDrive
              (t.dest f)

/-- The loss of a destination whose read lane serves another lane (section 5.8): with no live copy of its own and its
only read job a SUPPLY job for lane `d`, the lane sources the unit again, from the card when it is bound and not
excluded for the unit, else from the next VERIFIED copy.  DEST_LOST is taken. -/
def LostSourceIsReplaced : Prop :=
  ∀ (s : State) (g d : DestNo) (command : Instr) (detail : Detail) (present : Bool) (capacity : Option Nat)
    (c k n : Nat) (x : Clip) (y : Slot) (i : Item),
    Loses (s.dest g) g command detail present capacity → InUse (s.dest g) → ¬LiveCopyOn s g → d ≠ g →
    (s.dest g).rl.jobs = [.supply c k n d] → s.clip? c = some x → Fills s d n c k y i →
      (∀ e, NextSource s d x (g :: i.noDests) e → (s.job x.job).boundPort = none ∨ i.noCard = true →
        ∃ t i', exec command s = .next t
          ∧ i'.clip = i.clip ∧ i'.kind = i.kind ∧ i'.retries = i.retries ∧ i'.noCard = i.noCard
          ∧ (∀ f, f ∈ i'.noDests ↔ f = g ∨ f ∈ i.noDests) ∧ SourcedFrom s t d n c k y i i' e
          ∧ (t.dest g).state = .lost ∧ (t.dest g).rl = ReadLane.empty ∧ t.ring.freeList = s.ring.freeList
          ∧ t.faults = s.faults.take ⟨.destLost, none, none, some g, none, detail⟩)
      ∧ ∀ p, (s.job x.job).boundPort = some p → i.noCard = false →
        ∃ t, exec command s = .next t
          ∧ t.slot? n = some { y with data := [] } ∧ (t.dest d).lane = { (s.dest d).lane with cardOnly := false, sum := none }
          ∧ (t.port p).fifo = (s.port p).fifo ++ ((unitPieces x k).map fun r => ⟨.supply d x.job c k n, r.1, r.2⟩)
          ∧ (t.dest g).state = .lost ∧ (t.dest g).rl = ReadLane.empty ∧ t.ring.freeList = s.ring.freeList
          ∧ t.faults = s.faults.take ⟨.destLost, none, none, some g, none, detail⟩

/-- The loss of a destination with copies in work, or with another lane's supplies (section 5.8). -/
def Obligations.LossAbortsLiveCopies : Prop := LiveCopiesAreAborted ∧ LostSourceIsReplaced

/-! ## Cards that return -/

/-- From `s` to `t` the reading of job `j` has ended (sections 2.6, 7.6, 9.4): the read position and the checkpoint stand
past the list, with fresh sums, and no pause is left; with an unsettled clip the job is DRAINING while a live copy is in
motion and HELD without one; with every clip settled it is REPORTING, or RELEASED when every record is TAKEN. -/
def ReadingIsOver (s t : State) (j : JobNo) : Prop :=
  let y := s.job j
  let past : Position := ⟨y.clips.length, 0⟩
  let unsettled := ∃ b ∈ y.clips, s.clipState? b ≠ some .secured ∧ s.clipState? b ≠ some .excluded
  let moving := ∃ b ∈ y.clips, ∃ (d : DestNo) (k : Copy),
    s.copy? b d = some k ∧ k.state.live = true ∧ k.suspended = false
  let untaken := ∃ b ∈ y.clips, ∃ x, s.clip? b = some x ∧ x.mstatus ≠ .taken
  (t.job j).readPos = past ∧ (t.job j).checkpoint = ⟨past, ⟨1, 0⟩⟩ ∧ (t.job j).live = ⟨1, 0⟩
    ∧ (t.job j).pausePending = false ∧ (t.job j).pauseCause = none ∧ (t.job j).resumeTarget = none
    ∧ (unsettled → moving → (t.job j).state = .draining) ∧ (unsettled → ¬moving → (t.job j).state = .held)
    ∧ (¬unsettled → untaken → (t.job j).state = .reporting) ∧ (¬unsettled → ¬untaken → (t.job j).state = .released)

/-- CARD_IN of `card` at port `p`, free to take it, where job `j` alone holds that identity and has no bound port. -/
def ReturnsTo (s : State) (p : PortNo) (j : JobNo) (card : Identity) : Prop :=
  (s.port p).enabled = true ∧ ((s.port p).state = .empty ∨ (s.port p).state = .mounting) ∧ Holds s j card
    ∧ (∀ i, Holds s i card → i = j) ∧ (s.job j).boundPort = none ∧ s.clips.length ≤ 4096

/-- No copy of a clip of job `j` is suspended. -/
def NoneSuspended (s : State) (j : JobNo) : Prop :=
  ∀ c ∈ (s.job j).clips, ∀ (d : DestNo) (k : Copy), s.copy? c d = some k → k.suspended = false

/-- What a card's return at port `p` leaves alone: the other jobs, the plan, the manifest and the fault unit; the port
is BOUND to job `j`. -/
def BoundAgain (s t : State) (p : PortNo) (j : JobNo) (card : Identity) : Prop :=
  (t.port p).state = .bound ∧ (t.port p).identity = some card ∧ (t.port p).boundJob = some j
    ∧ (t.job j).boundPort = some p ∧ (∀ i, i ≠ j → t.job i = s.job i) ∧ t.plan = s.plan ∧ t.manifest = s.manifest
    ∧ t.faults = s.faults ∧ ∀ q, q ≠ p → (s.port q).SameCard (t.port q)

/-- The card of a PULLED job that is to run again, at a READING clip (sections 2.3, 2.6), with no lane at work and no
copy suspended: the job is RUNNING, its read position, checkpoint and live sums as they were, its resume target and
pause cause absent; the unit there is asked for: given the slot at the head of the free list, waiting on the list when
none is free, or waiting at the quota. -/
def CardInResumesReading : Prop :=
  ∀ (s : State) (p : PortNo) (media capacity : Nat) (j : JobNo) (c : Nat) (x : Clip),
    let y := s.job j
    let u := y.readPos.unit
    let z := { y with boundPort := some p, state := .running, resumeTarget := none, pauseCause := none }
    ReturnsTo s p j ⟨media, capacity⟩ → y.state = .pulled → y.resumeTarget = some .running → y.pausePending = false →
    AtRest s j → s.LanesIdle → NoneSuspended s j → y.clips[y.readPos.clip]? = some c → s.clip? c = some x →
    x.state = .reading →
      ∃ t, exec (.cardIn p media capacity) s = .next t
        ∧ BoundAgain s t p j ⟨media, capacity⟩ ∧ t.clips = s.clips ∧ (∀ d, (s.dest d).SameDrive (t.dest d))
        ∧ (∀ n more, s.ring.freeList = n :: more → y.held < y.quota →
            t.job j = { z with held := y.held + 1 } ∧ t.slot? n = some (freshSlot (.job j) c x u) ∧ t.ring.freeList = more
            ∧ (∀ m, m ≠ n → t.slot? m = s.slot? m)
            ∧ (t.port p).fifo = (s.port p).fifo ++ ((unitPieces x u).map fun r => ⟨.job j c u, r.1, r.2⟩))
        ∧ (s.ring.freeList = [] → y.held < y.quota →
            t.job j = z ∧ t.ring = { s.ring with waitList := s.ring.waitList ++ [.job j] }
            ∧ (t.port p).fifo = (s.port p).fifo)
        ∧ (y.quota ≤ y.held → t.job j = z ∧ t.ring = s.ring ∧ (t.port p).fifo = (s.port p).fifo)

/-- The card of a PULLED job that is to run again and has nothing left to read (sections 2.3, 2.6), with no lane at work
and no copy suspended: its reading is over. -/
def CardInEndsReading : Prop :=
  ∀ (s : State) (p : PortNo) (media capacity : Nat) (j : JobNo),
    let y := s.job j
    ReturnsTo s p j ⟨media, capacity⟩ → y.state = .pulled → y.resumeTarget = some .running → s.LanesIdle →
    NoneSuspended s j → (∀ b ∈ y.clips, s.clipState? b ≠ some .listed ∧ s.clipState? b ≠ some .reading) →
      ∃ t, exec (.cardIn p media capacity) s = .next t
        ∧ BoundAgain s t p j ⟨media, capacity⟩ ∧ t.clips = s.clips ∧ t.ring = s.ring
        ∧ (∀ d, (s.dest d).SameDrive (t.dest d)) ∧ ReadingIsOver s t j

/-- The card of a DRAINING or HELD job with suspended copies (sections 2.3, 7.3, 7.6), each lane they rejoin busy with a
request standing: their flags are cleared, they join the tails of their lanes in ascending clip number, and, a clip being
unsettled, the job is DRAINING. -/
def CardInRejoinsCopies : Prop :=
  ∀ (s : State) (p : PortNo) (media capacity : Nat) (j : JobNo),
    let y := s.job j
    let rejoins (c : Nat) (d : DestNo) : Prop :=
      c ∈ y.clips ∧ ∃ k, s.copy? c d = some k ∧ k.state.live = true ∧ k.suspended = true
    ReturnsTo s p j ⟨media, capacity⟩ → Table.wf s.clips = true → y.state = .draining ∨ y.state = .held →
    (∀ d, (∃ b, (s.dest d).lane.current = some b ∧ (s.clip? b).isSome ∧ (s.dest d).lane.standing.isSome)
      ∨ ((s.dest d).lane.current = none ∧ (s.dest d).lane.copies = [] ∧ ∀ c, ¬rejoins c d)) →
    (∀ c d, rejoins c d → c ∉ (s.dest d).lane.copies) →
    (∃ b ∈ y.clips, s.clipState? b ≠ some .secured ∧ s.clipState? b ≠ some .excluded) → (∃ c d, rejoins c d) →
      ∃ t, exec (.cardIn p media capacity) s = .next t
        ∧ BoundAgain s t p j ⟨media, capacity⟩ ∧ t.job j = { y with boundPort := some p, state := .draining }
        ∧ (∀ c d k, rejoins c d → s.copy? c d = some k → t.copy? c d = some { k with suspended := false })
        ∧ (∀ c d, ¬rejoins c d → t.copy? c d = s.copy? c d)
        ∧ (∀ d, ∃ back, (t.dest d).lane = { (s.dest d).lane with copies := (s.dest d).lane.copies ++ back }
            ∧ back.Pairwise (· < ·) ∧ ∀ c, c ∈ back ↔ rejoins c d)
        ∧ t.ring = s.ring

/-- The return of the card of a PULLED, DRAINING or HELD job (sections 2.3, 2.6, 7.3). -/
def Obligations.CardReturns : Prop := CardInResumesReading ∧ CardInEndsReading ∧ CardInRejoinsCopies

/-! ## The catch-up lanes -/

/-- What one move of lane `d` leaves, with the moves that follow it at once. -/
def lanesMove (s : State) (d : DestNo) : Work := Task.run (.laneGo d) s

/-- A clip that catch-up lanes serve: READ, SECURED or UNSTABLE. -/
def Supplied (s : State) (c : Nat) : Prop :=
  s.clipState? c = some .read ∨ s.clipState? c = some .secured ∨ s.clipState? c = some .unstable

/-- A lane of a destination in use without a current copy takes the oldest copy of its list whose clip holds a source sum
(section 7.3).  One with a window resumes its walk behind its written units and its items.  One without is allocated:
WRITING, its sum unit started; or NO_SPACE and out of the list, the destination FULL when it was ACTIVE, then
enlistment; a repair without room fails. -/
def LaneTakesItsOldestCopy : Prop :=
  ∀ (s : State) (d : DestNo) (c : Nat) (x : Clip) (k : Copy) (b : Binding) (before after : List Nat),
    let l := (s.dest d).lane
    let w := lanesMove s d
    let n := clipUnits x.length
    let D := (b.area - b.strip) / 2048
    let fits := b.nextTrailer < b.strip
      ∧ ((k.attempt = 1 ∧ (s.dest d).state = .active ∧ b.nextUnit + n ≤ D - b.spare)
        ∨ (k.attempt = 2 ∧ b.nextUnit + n ≤ D))
    InUse (s.dest d) → l.current = none → (s.dest d).binding = some b →
      ((∀ a ∈ l.copies, ¬Supplied s a) → w = ⟨s, [], []⟩)
      ∧ (l.copies = before ++ c :: after → (∀ a ∈ before, ¬Supplied s a) → Supplied s c → s.clip? c = some x →
          x.copies[d] = some k → k.attempt = 1 ∨ k.attempt = 2 → w.later = []
          ∧ (k.window.isSome → w.now = [.laneGo d] ∧ w.state.clips = s.clips
              ∧ (w.state.dest d).lane =
                { l with
                  current := some c, cardOnly := false, sum := none
                  nextUnit := k.written + ((s.dest d).cq.filter fun i => decide (i.clip = c)).length })
          ∧ (k.window = none → fits → w.now = [.laneGo d]
              ∧ w.state.copy? c d = some
                { k with state := .writing, window := some ⟨b.nextUnit, n⟩, trailer := some b.nextTrailer, written := 0 }
              ∧ w.state.dest d =
                { s.dest d with
                  binding := some { b with nextUnit := b.nextUnit + n, nextTrailer := b.nextTrailer + 1 }
                  lane :=
                    { l with current := some c, nextUnit := 0, cardOnly := true, sum := some ⟨x.length, ⟨1, 0⟩, 0⟩ } })
          ∧ (k.window = none → ¬fits → k.attempt = 1 →
              w.state.copy? c d = some { k with state := .noSpace }
              ∧ (w.state.dest d).lane = { l with copies := l.copies.filter (· ≠ c) }
              ∧ ((s.dest d).state = .active → w.now = [.fillDest d c, .enlist c, .laneGo d])
              ∧ ((s.dest d).state = .full → w.now = [.enlist c, .laneGo d]))
          ∧ (k.window = none → ¬fits → k.attempt = 2 →
              w.state = s ∧ ∃ fills, w.now = [.failRepair c d fills, .laneGo d]
                ∧ (fills = true ↔ (s.dest d).state = .active ∧ b.nextUnit + n ≤ D)))

/-- The lowest-numbered STAGED slot that holds unit `k` of clip `c` and is not yet written by `d` (section 4.10). -/
def Joinable (s : State) (d : DestNo) (c k n : Nat) (y : Slot) : Prop :=
  let holds (z : Slot) : Prop := z.state = .staged ∧ z.clip = c ∧ z.unit = k ∧ z.pending ≠ [] ∧ d ∉ z.pending
  s.slot? n = some y ∧ holds y ∧ ∀ m z, (m, z) ∈ s.ring.held → m < n → ¬holds z

/-- No STAGED slot holds unit `k` of clip `c` for `d` to join. -/
def NoneJoinable (s : State) (d : DestNo) (c k : Nat) : Prop := ∀ n y, ¬Joinable s d c k n y

/-- The sourcing of unit `k` of a current copy (sections 4.4, 4.10, 7.3): (a) a STAGED slot is joined, with no slot
taken and the card-only mark cleared; (b) with the card bound a slot is asked for with the card as source; (c) else one
with the lowest VERIFIED copy as source, the mark cleared; (d) else the copy is suspended.  A slot is given from the
head of the free list below 8 held slots, its item joining CQ; with none free the request stands and the lane waits on
the list; at 8 it stands and the lane waits. -/
def LaneChoosesItsSource : Prop :=
  ∀ (s : State) (d : DestNo) (c k : Nat) (x : Clip),
    let l := (s.dest d).lane
    let w := lanesMove s d
    let asks (l : Lane) (src : Source) : Prop :=
      w.later = []
      ∧ (8 ≤ l.held → w.now = [.laneGo d] ∧ w.state.ring = s.ring
          ∧ (w.state.dest d).lane = { l with standing := some (k, src) })
      ∧ (l.held < 8 → s.ring.freeList = [] → Requester.lane d ∉ s.ring.waitList → w.now = [.laneGo d]
          ∧ w.state.ring = { s.ring with waitList := s.ring.waitList ++ [.lane d] }
          ∧ (w.state.dest d).lane = { l with standing := some (k, src) })
      ∧ (∀ n more, l.held < 8 → s.ring.freeList = n :: more → w.now = [.laneGo d] ∧ w.state.ring.freeList = more
          ∧ w.state.slot? n = some (freshSlot (.lane d) c x k)
          ∧ (w.state.dest d).cq = (s.dest d).cq ++ [Item.new c (.data n)]
          ∧ (w.state.dest d).lane = { l with nextUnit := k + 1, held := l.held + 1 }
          ∧ (∀ p, src = .card → (s.job x.job).boundPort = some p → (w.state.port p).fifo
              = (s.port p).fifo ++ ((unitPieces x k).map fun r => ⟨.supply d x.job c k n, r.1, r.2⟩))
          ∧ ∀ e, src = .dest e →
              (w.state.dest e).rl.jobs = (s.dest e).rl.jobs ++ [.supply c k n d])
    InUse (s.dest d) → Table.wf s.ring.held = true → l.current = some c → l.standing = none → s.clip? c = some x →
    l.nextUnit = k → k < clipUnits x.length →
      (∀ n y, Joinable s d c k n y →
        w.now = [.laneGo d] ∧ w.later = [] ∧ w.state.ring.freeList = s.ring.freeList
        ∧ (∃ pending, w.state.slot? n = some { y with pending := pending } ∧ ∀ e, e ∈ pending ↔ e = d ∨ e ∈ y.pending)
        ∧ (∀ m, m ≠ n → w.state.slot? m = s.slot? m)
        ∧ w.state.dest d =
          { s.dest d with
            cq := (s.dest d).cq ++ [Item.new c (.data n)]
            lane := { l with nextUnit := k + 1, cardOnly := false, sum := none } })
      ∧ (NoneJoinable s d c k →
          ((s.job x.job).boundPort.isSome → asks l .card)
          ∧ ((s.job x.job).boundPort = none →
              (∀ e, NextSource s d x [] e → asks { l with cardOnly := false, sum := none } (.dest e))
              ∧ ((∀ e, ¬NextSource s d x [] e) → w = ⟨s, [.suspend c d], []⟩)))

/-- The end of a walk (sections 3.6, 7.3, 7.4), SOURCE_UNSTABLE not routed HOLD: not before the copy's last unit has its
item and none of its slots is FILLING.  The trailer item joins CQ and the copy leaves the lane.  A walk taken wholly
from the card whose sum differs from the source sum raises SOURCE_UNSTABLE, naming job, clip, destination and card port (the
port bound at that moment, the model's choice: notes/assumptions/34.md); a READ clip becomes UNSTABLE, a SECURED one
is marked. -/
def LaneEndsItsWalk : Prop :=
  ∀ (s : State) (d : DestNo) (c : Nat) (x : Clip),
    let l := (s.dest d).lane
    let w := lanesMove s d
    let waits := ∃ i ∈ (s.dest d).cq, i.clip = c ∧ ∃ n y, i.kind = .data n ∧ s.slot? n = some y ∧ y.state = .filling
    let differs := l.cardOnly = true ∧ 0 < x.length ∧ ∃ u sum, l.sum = some u ∧ x.sum = some sum
      ∧ ¬(u.close.s1 = sum.s1 ∧ u.close.s2 = sum.s2)
    InUse (s.dest d) → l.current = some c → s.clip? c = some x →
      (l.standing.isSome → w = ⟨s, [], []⟩)
      ∧ (l.standing = none → clipUnits x.length ≤ l.nextUnit →
          (waits → w = ⟨s, [], []⟩)
          ∧ (¬waits → s.faults.route .sourceUnstable ≠ .hold →
              w.now = [.laneGo d] ∧ w.later = []
              ∧ (w.state.dest d).cq = (s.dest d).cq ++ [Item.new c .trailer]
              ∧ (w.state.dest d).lane =
                { l with
                  copies := l.copies.filter (· ≠ c), current := none, standing := none, sum := none, cardOnly := false }
              ∧ w.state.jobs = s.jobs ∧ w.state.ring.held = s.ring.held
              ∧ (¬differs → w.state.clips = s.clips ∧ w.state.faults = s.faults)
              ∧ (differs →
                  w.state.faults = s.faults.take
                    ⟨.sourceUnstable, some x.job, some c, some d, (s.job x.job).boundPort, .sumMismatch⟩
                  ∧ (∀ b, b ≠ c → w.state.clip? b = s.clip? b)
                  ∧ (x.state = .read → w.state.clip? c = some { x with state := .unstable })
                  ∧ (x.state = .secured → w.state.clip? c = some { x with unstable := true })
                  ∧ (x.state = .unstable → w.state.clip? c = some x))))

/-- COPY_ADD of a clip of at most one unit, walked by an idle lane with room for it (sections 4.4, 4.10, 5.6, 7.3, 7.5): a
clip without units has its trailer item in CQ at once; the one unit joins a STAGED slot, with its trailer behind it, or
gets a slot with the card as source, or the lowest VERIFIED copy; with no source the copy is suspended. -/
def CopyAddIsWalked : Prop :=
  ∀ (tag : Byte) (c : Nat) (d : DestNo) (x : Clip) (b : Binding) (s : State) (entry : EntryNo),
    let l := (s.dest d).lane
    let units := clipUnits x.length
    s.link.freeEntry = some entry → c < 4096 → s.clip? c = some x → Supplied s c →
    (∀ k, x.copies[d] = some k → k.state.live = false ∧ k.state ≠ .verified) → (s.dest d).state = .active →
    (s.dest d).binding = some b → b.nextUnit + units ≤ (b.area - b.strip) / 2048 - b.spare → b.nextTrailer < b.strip →
    l.copies = [] → l.current = none → l.standing = none → l.held < 8 → (∀ i ∈ (s.dest d).cq, i.clip ≠ c) →
    (∀ e, ∀ job ∈ (s.dest e).rl.jobs, job ≠ .verify c ∧ ∀ k n, job ≠ .supply c k n d) →
    (∀ e, (s.dest e).rl.active = none → (s.dest e).rl.jobs = []) → Table.wf s.ring.held = true →
    Requester.lane d ∉ s.ring.waitList → units ≤ 1 →
      let copy (suspended : Bool) : Copy :=
        { state := .writing, origin := .host, attempt := 1, window := some ⟨b.nextUnit, units⟩
          trailer := some b.nextTrailer, written := 0, suspended := suspended, readback := none }
      ∃ t, exec (.copyAdd tag c d.val) s = .next t
        ∧ s.link.AnswersTo t.link entry tag 0x2B [] ∧ (∀ e, e ≠ d → t.copy? c e = s.copy? c e)
        ∧ (∀ a, a ≠ c → t.clip? a = s.clip? a) ∧ t.plan = s.plan ∧ t.manifest = s.manifest ∧ t.faults = s.faults
        ∧ (units = 0 → t.copy? c d = some (copy false) ∧ (t.dest d).cq = (s.dest d).cq ++ [Item.new c .trailer]
            ∧ (t.dest d).lane.current = none ∧ (t.dest d).lane.copies = [])
        ∧ (units = 1 → (∀ n y, Joinable s d c 0 n y →
            t.copy? c d = some (copy false)
            ∧ (t.dest d).cq = (s.dest d).cq ++ [Item.new c (.data n), Item.new c .trailer]
            ∧ (∃ pending, t.slot? n = some { y with pending := pending } ∧ ∀ e, e ∈ pending ↔ e = d ∨ e ∈ y.pending)
            ∧ (t.dest d).lane.current = none ∧ (t.dest d).lane.copies = [])
          ∧ (NoneJoinable s d c 0 →
              (∀ p n more, (s.job x.job).boundPort = some p → s.ring.freeList = n :: more →
                t.copy? c d = some (copy false) ∧ (t.dest d).cq = (s.dest d).cq ++ [Item.new c (.data n)]
                ∧ t.slot? n = some (freshSlot (.lane d) c x 0) ∧ (t.dest d).lane.current = some c
                ∧ (t.dest d).lane.cardOnly = true
                ∧ (t.port p).fifo = (s.port p).fifo ++ ((unitPieces x 0).map fun r => ⟨.supply d x.job c 0 n, r.1, r.2⟩))
              ∧ ((s.job x.job).boundPort = none →
                  (∀ e n more, NextSource s d x [] e → s.ring.freeList = n :: more →
                    t.copy? c d = some (copy false) ∧ (t.dest d).cq = (s.dest d).cq ++ [Item.new c (.data n)]
                    ∧ t.slot? n = some (freshSlot (.lane d) c x 0) ∧ (t.dest d).lane.current = some c
                    ∧ (t.dest d).lane.cardOnly = false
                    ∧ (t.dest e).rl.jobs = (s.dest e).rl.jobs ++ [.supply c 0 n d])
                  ∧ ((∀ e, ¬NextSource s d x [] e) →
                      t.copy? c d = some (copy true) ∧ (t.dest d).cq = (s.dest d).cq ∧ t.ring = s.ring
                      ∧ (t.dest d).lane.current = none ∧ (t.dest d).lane.copies = []))))

/-- The walk of a copy through a catch-up lane: its turn and its place, the source of each unit, its end, and a whole walk
of a short clip (sections 3.6, 4.4, 4.10, 5.6, 7.3, 7.4). -/
def Obligations.LanesWalkTheirCopies : Prop :=
  LaneTakesItsOldestCopy ∧ LaneChoosesItsSource ∧ LaneEndsItsWalk ∧ CopyAddIsWalked

/-! ## Suspension and settling -/

/-- One byte for a value that may be absent: 255 when it is. -/
def orAbsent (x : Option Nat) : Byte := BitVec.ofNat 8 (x.getD 255)

/-- The code of a job state (section 11.7). -/
def jobStateCode : JobState → Nat
  | .free => 0
  | .loading => 1
  | .running => 2
  | .paused => 3
  | .pulled => 4
  | .draining => 5
  | .held => 6
  | .reporting => 7
  | .released => 8

/-- The suspension of a copy (section 7.3): its flag is set and it leaves the lane; from its first item whose slot is
FILLING on, its items leave CQ, those of other copies staying; `d` leaves the pending sets of the STAGED slots among them,
the FILLING slots of the lane among them are to be freed, and the lane's supplies for the copy are withdrawn; then the
settling check runs and the lane goes on. -/
def SuspensionCutsTheItems : Prop :=
  ∀ (s : State) (c : Nat) (d : DestNo) (x : Clip) (k : Copy) (before after : List Item) (i : Item) (n : Nat),
    let filling (i : Item) : Prop := i.clip = c ∧ ∃ m y, i.kind = .data m ∧ s.slot? m = some y ∧ y.state = .filling
    let w := Task.run (.suspend c d) s
    let l := (s.dest d).lane
    s.clip? c = some x → x.copies[d] = some k → (s.dest d).cq = before ++ i :: after → filling i →
    (∀ z ∈ before, ¬filling z) → l.current = some c → Table.wf s.ring.held = true →
      w.later = []
      ∧ (∃ ns, w.now = [.freeSlots ns, .settle x.job, .laneGo d]
          ∧ ∀ m y, s.slot? m = some y → y.state = .filling → y.owner = .lane d → (∃ z ∈ (s.dest d).cq, z.kind = .data m) →
              (m ∈ ns ↔ (∀ z ∈ before, z.kind ≠ .data m) ∧ ∀ z ∈ after, z.clip ≠ c → z.kind ≠ .data m))
      ∧ w.state.copy? c d = some { k with suspended := true }
      ∧ (w.state.dest d).cq = before ++ (after.filter fun z => decide (z.clip ≠ c))
      ∧ (w.state.dest d).lane =
        { l with copies := l.copies.filter (· ≠ c), current := none, standing := none, sum := none, cardOnly := false }
      ∧ Requester.lane d ∉ w.state.ring.waitList ∧ w.state.ring.freeList = s.ring.freeList
      ∧ (∀ z ∈ after, ∀ m y, z.clip = c → z.kind = .data m → s.slot? m = some y →
          w.state.slot? m = some { y with pending := y.pending.filter (· ≠ d) })
      ∧ (∀ p z, z ∈ (w.state.port p).fifo ↔ z ∈ (s.port p).fifo ∧ ∀ j k m, z.work ≠ .supply d j c k m)
      ∧ (∀ e r, r ∈ (w.state.dest e).rl.jobs ↔
          r ∈ (s.dest e).rl.jobs ∧ (∀ k m, r ≠ .supply c k m d) ∧ ¬(e = d ∧ r = .verify c))
      ∧ w.state.jobs = s.jobs ∧ w.state.faults = s.faults ∧ w.state.manifest = s.manifest

/-- A unit whose source fails is sourced again from the card, when it is bound and not excluded for the unit, else from a
VERIFIED copy that is not; with neither, its copy is suspended (section 7.3). -/
def UnitsAreSourcedAgain : Prop :=
  ∀ (s : State) (d : DestNo) (n c k : Nat) (x : Clip) (y : Slot) (i : Item), Fills s d n c k y i → s.clip? c = some x →
    (∀ e p, (s.job x.job).boundPort = some p → i.noCard = false →
      let w := Task.run (.cannotSupply d n c k (.dest e)) s
      w.now = [] ∧ w.later = [] ∧ w.state.slot? n = some { y with data := [] }
      ∧ (w.state.dest d).lane = { (s.dest d).lane with cardOnly := false, sum := none }
      ∧ (w.state.port p).fifo = (s.port p).fifo ++ ((unitPieces x k).map fun r => ⟨.supply d x.job c k n, r.1, r.2⟩))
    ∧ ((∀ e, ¬NextSource s d x i.noDests e) →
        (Task.run (.cannotSupply d n c k .card) s).now = [.suspend c d])
    ∧ ∀ g, ((s.job x.job).boundPort = none ∨ i.noCard = true) → (∀ e, ¬NextSource s d x (g :: i.noDests) e) →
        (Task.run (.cannotSupply d n c k (.dest g)) s).now = [.suspend c d]

/-- The settling check (section 7.6), the first row that holds, each change announced: every clip SECURED or EXCLUDED, then
REPORTING, with the release check after it; DRAINING with no live copy in motion, then HELD; HELD with one, then DRAINING; else, and
in every other state, no change. -/
def SettlingFollowsItsTable : Prop :=
  ∀ (s : State) (j : JobNo),
    let y := s.job j
    let w := Task.run (.settle j) s
    let settled := ∀ c ∈ y.clips, s.clipState? c = some .secured ∨ s.clipState? c = some .excluded
    let moving := ∃ c ∈ y.clips, ∃ (d : DestNo) (k : Copy),
      s.copy? c d = some k ∧ k.state.live = true ∧ k.suspended = false
    let becomes (st : JobState) (now : List Task) : Prop :=
      ∃ link, w = ⟨{ s.setJob j { y with state := st } with link := link }, now, []⟩
        ∧ Noticed s.link link 0x82
            [BitVec.ofNat 8 j.val, BitVec.ofNat 8 (jobStateCode y.state), BitVec.ofNat 8 (jobStateCode st),
             orAbsent (y.resumeTarget.map fun t => match t with
               | .running => 2
               | .paused => 3),
             orAbsent (y.pauseCause.map fun t => match t with
               | .host => 0
               | .hold => 1)]
    (y.state = .draining ∨ y.state = .held → settled → becomes .reporting [.release j])
    ∧ (y.state = .draining → ¬settled → ¬moving → becomes .held [])
    ∧ (y.state = .held → ¬settled → moving → becomes .draining [])
    ∧ ((y.state = .draining ∧ ¬settled ∧ moving) ∨ (y.state = .held ∧ ¬settled ∧ ¬moving)
        ∨ (y.state ≠ .draining ∧ y.state ≠ .held) → w = ⟨s, [], []⟩)

/-- CLIP_EXCLUDE in a DRAINING or HELD job (chapter 1, "Acting on single clips"; section 7.6), with lanes and read lanes at
rest, no requester waiting for a slot and room in the manifest queue: with every other clip of the job settled it is REPORTING; with
another unsettled and no live copy in motion but the excluded clip's it is HELD. -/
def ExclusionSettlesTheJob : Prop :=
  ∀ (tag : Byte) (c : Nat) (x : Clip) (s : State) (e : EntryNo),
    let y := s.job x.job
    let others := ∀ b ∈ y.clips, b ≠ c → s.clipState? b = some .secured ∨ s.clipState? b = some .excluded
    s.link.freeEntry = some e → c < 4096 → s.clip? c = some x →
    x.state = .read ∨ x.state = .sourceFault ∨ x.state = .unstable → c ∈ y.clips → y.state = .draining ∨ y.state = .held →
    s.LanesIdle → (∀ d, (s.dest d).rl.jobs = []) → s.ring.Sound → s.ring.waitList = [] → s.manifest.queue.length < 512 →
      ∃ t, exec (.clipExclude tag c) s = .next t
        ∧ (others → (t.job x.job).state = .reporting)
        ∧ (¬others →
            (∀ b ∈ y.clips, b ≠ c → ∀ (d : DestNo) (k : Copy), s.copy? b d = some k → k.state.live = true → k.suspended = true) →
              (t.job x.job).state = .held)
        ∧ s.link.AnswersTo t.link e tag 0x29 []

/-- Suspension, the sources of a unit after a failure, and the settling check (sections 7.3, 7.6). -/
def Obligations.SuspensionAndSettling : Prop :=
  SuspensionCutsTheItems ∧ UnitsAreSourcedAgain ∧ SettlingFollowsItsTable ∧ ExclusionSettlesTheJob

/-! ## Jobs -/

/-- A request that names a job (chapter 1, "Acting on single clips"): BAD_PARAM for a number of 16 or more, NO_SUCH
for a FREE record, with nothing changed: JOB_START, JOB_PAUSE, JOB_RESUME, JOB_ABANDON, JOB_CLOSE and JOB_QUERY. -/
def JobNumbersAreChecked : Prop :=
  ∀ (tag : Byte) (n : Nat) (i : Instr) (code : Nat) (s : State) (e : EntryNo), s.link.freeEntry = some e →
    ((∃ q u, i = .jobStart tag n q u ∧ code = 0x22) ∨ (i = .jobPause tag n ∧ code = 0x23)
      ∨ (i = .jobResume tag n ∧ code = 0x24) ∨ (i = .jobAbandon tag n ∧ code = 0x25) ∨ (i = .jobClose tag n ∧ code = 0x26)
      ∨ (i = .jobQuery tag n ∧ code = 0x27)) →
      (16 ≤ n → exec i s = .next (s.quiet.answered e tag code .badParam []))
      ∧ ∀ j : JobNo, j.val = n → (s.job j).state = .free →
          exec i s = .next (s.quiet.answered e tag code .noSuch [])

/-- From `s` to `t` only the record of job `j` changed, to `y`, and the link controller answered. -/
def OnlyJob (s t : State) (j : JobNo) (y : Job) : Prop :=
  t.job j = y ∧ (∀ l, l ≠ j → t.job l = s.job l) ∧ t.ports = s.ports ∧ t.clips = s.clips ∧ t.dests = s.dests
    ∧ t.ring.held = s.ring.held ∧ t.ring.freeList = s.ring.freeList ∧ t.plan = s.plan ∧ t.manifest = s.manifest
    ∧ t.faults = s.faults ∧ t.pending = s.pending ∧ t.lines = []

/-- JOB_OPEN (chapter 1, "The clip table"): its refusals in order; taken, the lowest-numbered FREE record is LOADING
with the port's identity and the port BOUND to it with its memory emptied; nothing else changes. -/
def Obligations.JobOpenRules : Prop :=
  ∀ (tag : Byte) (n : Nat) (s : State) (e : EntryNo), s.link.freeEntry = some e →
    let run := exec (.jobOpen tag n) s
    let answer (st : Status) : Host.Outcome State Fault Refusal := .next (s.quiet.answered e tag 0x20 st [])
    (8 ≤ n → run = answer .noSuch)
    ∧ ∀ p : PortNo, p.val = n →
        let x := s.port p
        (x.enabled = false → run = answer .noSuch)
        ∧ (x.enabled = true →
            (x.state = .empty → run = answer .noCard)
            ∧ (x.state = .mounting ∨ x.state = .unreadable ∨ x.state = .bound → run = answer .wrongState)
            ∧ ∀ card, x.state = .present → x.identity = some card →
                ((∃ j, Holds s j card) → run = answer .wrongState)
        ∧ ((∀ j, ¬Holds s j card) →
                    ((∀ j, (s.job j).state ≠ .free) → run = answer .tableFull)
                    ∧ ∀ j : JobNo, (s.job j).state = .free → (∀ l, l < j → (s.job l).state ≠ .free) →
                        ∃ t, run = .next t
                          ∧ t.job j = { Job.free with state := .loading, identity := some card, boundPort := some p }
                  ∧ (∀ l, l ≠ j → t.job l = s.job l)
                          ∧ t.port p =
                            { x with state := .bound, boundJob := some j, released := none, lamp := t.formLamp p }
                  ∧ (∀ q, q ≠ p → t.port q = s.port q) ∧ t.clips = s.clips ∧ t.ring = s.ring
                          ∧ t.dests = s.dests ∧ t.plan = s.plan ∧ t.manifest = s.manifest ∧ t.faults = s.faults
                          ∧ t.lines = [] ∧ s.link.AnswersTo t.link e tag 0x20 [BitVec.ofNat 8 j.val]))

/-- A taken JOB_OPEN with room for two notices sends JOB_CHANGE from FREE to LOADING, then CARD_CHANGE of the BOUND
port with its identity, job and AMBER lamp, then its reply (sections 10.5, 11.7). -/
def JobOpenIsAnnounced : Prop :=
  ∀ (tag : Byte) (p : PortNo) (card : Identity) (j : JobNo) (s : State) (e : EntryNo), s.link.freeEntry = some e →
    (s.port p).enabled = true → (s.port p).state = .present → (s.port p).identity = some card →
    (∀ i, ¬Holds s i card) → (s.job j).state = .free → (∀ l, l < j → (s.job l).state ≠ .free) →
    (s.link.outq.filter fun f => decide (f.owner = .notice)).length + 2 ≤ 32 →
      ∃ t, exec (.jobOpen tag p.val) s = .next t
        ∧ t.link.outq = s.link.outq
          ++ [⟨.notice, 0x82, 0, [BitVec.ofNat 8 j.val, 0, 1, 255, 255]⟩,
              ⟨.notice, 0x81, 0,
                [BitVec.ofNat 8 p.val, 3, 1] ++ Bytes.le 8 card.media ++ Bytes.le 6 card.capacity
                  ++ [BitVec.ofNat 8 j.val, 3]⟩,
              ⟨.reply e, 0x40, tag, [BitVec.ofNat 8 j.val]⟩]

/-- The removal of a RUNNING job's card with CARD_PULLED routed NOTICE and room for three notices, with every lamp as
formed (section 10.5): CARD_CHANGE of the EMPTY port, JOB_CHANGE from RUNNING to PULLED with resume target and pause
cause, then FAULT_RAISED, in this order. -/
def RemovalIsAnnounced : Prop :=
  ∀ (s : State) (p : PortNo) (i : Instr) (j : JobNo), IsRemoval p i →
    let x := s.port p
    let y := s.job j
    x.enabled = true → x.state = .bound → x.boundJob = some j → (∀ w ∈ x.fifo, ∃ c k, w.work = .job j c k) →
    y.state = .running → Table.wf s.ring.held = true → s.ring.waitList = [] → s.faults.route .cardPulled = .notice →
    s.LampsFormed →
    s.faults.capture = none → (s.link.outq.filter fun f => decide (f.owner = .notice)).length + 3 ≤ 32 →
      let pulled : Occurrence :=
        ⟨.cardPulled, some j, y.clips[y.checkpoint.pos.clip]?, none, some p, .cardRemoved⟩
      ∃ t, exec i s = .next t
        ∧ t.link.outq = s.link.outq
          ++ [⟨.notice, 0x81, 0, [BitVec.ofNat 8 p.val, 0, 0] ++ List.replicate 14 0 ++ [255, 0]⟩,
              ⟨.notice, 0x82, 0,
                [BitVec.ofNat 8 j.val, 2, 4, if y.pausePending then 3 else 2,
                  match y.pauseCause with
                  | none => 255
                  | some .host => 0
                  | some .hold => 1]⟩,
              ⟨.notice, 0x85, 0, occurrenceReport pulled ++ [1]⟩]

/-- CLIP_EXCLUDE of a LISTED clip without copies of a LOADING job, with no lane at work and every lamp as formed
(sections 9.3, 10.5): the record that joins an empty manifest queue sends MANIFEST_WAITING with the number 1 before the
reply; one that joins a queue with records in it sends nothing. -/
def FirstRecordIsAnnounced : Prop :=
  ∀ (tag : Byte) (c : Nat) (x : Clip) (s : State) (e : EntryNo), s.link.freeEntry = some e → c < 4096 →
    s.clip? c = some x → x.state = .listed → (∀ d : DestNo, x.copies[d] = none) → (s.job x.job).state = .loading →
    s.LanesIdle → s.LampsFormed → s.manifest.queue.length < 512 →
    (s.link.outq.filter fun f => decide (f.owner = .notice)).length < 32 →
      ∃ t, exec (.clipExclude tag c) s = .next t
        ∧ t.link.outq = s.link.outq
          ++ (if s.manifest.queue = [] then [⟨.notice, 0x84, 0, [1, 0]⟩] else [])
          ++ [⟨.reply e, 0x40, tag, []⟩]

/-- The notices of faults, jobs, ports and the manifest, what they carry and their order (sections 9.3, 10.3, 10.5,
11.5, 11.7). -/
def Obligations.NoticesFollowTheirChanges : Prop :=
  RoutesSendNotices ∧ JobOpenIsAnnounced ∧ RemovalIsAnnounced ∧ FirstRecordIsAnnounced

/-- An entry of CLIP_ADD is ill-formed (chapter 1, "Adding clips"). -/
def IllFormed (e : ClipEntry) : Prop :=
  1099511627776 ≤ e.length ∨ 64 < e.extents.length ∨ (∃ x ∈ e.extents, x.count = 0 ∨ 16777216 < x.count)
    ∨ (e.length = 0 ∧ e.extents ≠ []) ∨ (0 < e.length ∧ e.extents = [])
    ∨ (e.extents.map (·.count)).sum * 512 < e.length ∨ 48 < e.token.length

/-- CLIP_ADD (chapter 1, "Adding clips"): its refusals in order; taken, the lowest-numbered free clip records become
LISTED clips of the job, first entry first, and their numbers join the end of its list; nothing else changes. -/
def Obligations.ClipAddRules : Prop :=
  ∀ (tag : Byte) (n : Nat) (es : List ClipEntry) (s : State) (e : EntryNo), s.link.freeEntry = some e →
    let run := exec (.clipAdd tag n es) s
    let answer (st : Status) : Host.Outcome State Fault Refusal := .next (s.quiet.answered e tag 0x21 st [])
    let bad := es.length = 0 ∨ 32 < es.length ∨ ∃ x ∈ es, IllFormed x
    let free := (List.range 4096).filter fun c => (s.clip? c).isNone
    let numbers := free.take es.length
    (16 ≤ n ∨ bad → run = answer .badParam)
    ∧ ∀ j : JobNo, j.val = n → ¬bad →
        ((s.job j).state = .free → run = answer .noSuch)
        ∧ ∀ card, (s.job j).state ≠ .free → (s.job j).identity = some card →
            ((∃ x ∈ es, ∃ y ∈ x.extents, card.capacity ≤ y.start + y.count - 1) → run = answer .badParam)
            ∧ ((∀ x ∈ es, ∀ y ∈ x.extents, y.start + y.count - 1 < card.capacity) →
                ((s.job j).state ≠ .loading → run = answer .wrongState)
        ∧ ((s.job j).state = .loading →
                    (free.length < es.length → run = answer .tableFull)
            ∧ (es.length ≤ free.length →
                        ∃ t, run = .next t
                  ∧ (∀ (i c : Nat) (x : ClipEntry), numbers[i]? = some c → es[i]? = some x →
                              t.clip? c = some
                                { job := j, state := .listed, length := x.length, extents := x.extents
                                  token := x.token, sum := none, unstable := false, mstatus := .none, prior := none
                                  copies := #v[none, none, none, none] })
                  ∧ (∀ c, c ∉ numbers → t.clip? c = s.clip? c)
                          ∧ t.job j = { s.job j with clips := (s.job j).clips ++ numbers }
                  ∧ (∀ l, l ≠ j → t.job l = s.job l) ∧ t.ports = s.ports ∧ t.ring = s.ring
                          ∧ t.dests = s.dests ∧ t.plan = s.plan ∧ t.manifest = s.manifest ∧ t.faults = s.faults
                          ∧ t.link = (s.quiet.answered e tag 0x21 .ok
                              (BitVec.ofNat 8 numbers.length :: numbers.flatMap fun c =>
                                [BitVec.ofNat 8 c, BitVec.ofNat 8 (c / 256)])).link)))

/-- The plan's mirrors and spares that are ACTIVE, counted. -/
def activePlanned (s : State) : Nat :=
  (allDests.filter fun d => decide (s.plan.roles[d] ≠ .off) && decide ((s.dest d).state = .active)).length

/-- JOB_START refused (chapter 1, "Starting, pausing and resuming"), in order: a job that is not LOADING or has no
clip, no bound port, too few ACTIVE destinations. -/
def JobStartRefusals : Prop :=
  ∀ (tag : Byte) (j : JobNo) (q u : Nat) (s : State) (e : EntryNo), s.link.freeEntry = some e →
    let run := exec (.jobStart tag j.val q u) s
    let answer (st : Status) : Host.Outcome State Fault Refusal := .next (s.quiet.answered e tag 0x22 st [])
    ((s.job j).state ≠ .free → (s.job j).state ≠ .loading → run = answer .wrongState)
    ∧ ((s.job j).state = .loading →
        ((s.job j).clips = [] → run = answer .wrongState)
        ∧ ((s.job j).clips ≠ [] →
            ((s.job j).boundPort = none → run = answer .noCard)
            ∧ ((s.job j).boundPort.isSome → activePlanned s < s.plan.r → run = answer .wrongState)))

/-- Clip `c` is the first LISTED clip of job `j`, at index `k` of its list. -/
def FirstListed (s : State) (j : JobNo) (k c : Nat) : Prop :=
  (s.job j).clips[k]? = some c ∧ s.clipState? c = some .listed
    ∧ ∀ i b, i < k → (s.job j).clips[i]? = some b → s.clipState? b ≠ some .listed

/-- JOB_START taken for a job with no clip LISTED (chapter 1, "Starting, pausing and resuming"; sections 2.6, 7.6): the
snapshot, the clamped quota and the urgent flag are taken, and its reading is over at once. -/
def JobStartEndsAtOnce : Prop :=
  ∀ (tag : Byte) (j : JobNo) (q u : Nat) (s : State) (e : EntryNo), s.link.freeEntry = some e →
    (s.job j).state = .loading → (s.job j).clips ≠ [] → (s.job j).boundPort.isSome → s.plan.r ≤ activePlanned s →
    (∀ b ∈ (s.job j).clips, s.clipState? b ≠ some .listed) →
      let quota := if q = 0 then 256 else min 1024 (max 16 q)
      ∃ t, exec (.jobStart tag j.val q u) s = .next t
        ∧ ReadingIsOver s t j ∧ (t.job j).quota = quota ∧ (t.job j).urgent = decide (u ≠ 0)
        ∧ (t.job j).snapshot = some
            { r := s.plan.r
              mirrors := allDests.filter fun d => decide (s.plan.roles[d] = .mirror)
              spares := allDests.filter fun d => decide (s.plan.roles[d] = .spare) }
        ∧ (t.job j).clips = (s.job j).clips ∧ (t.job j).held = (s.job j).held
        ∧ (t.job j).boundPort = (s.job j).boundPort ∧ (∀ l, l ≠ j → t.job l = s.job l) ∧ t.clips = s.clips
        ∧ t.ring = s.ring ∧ t.plan = s.plan ∧ t.manifest = s.manifest ∧ t.faults = s.faults
        ∧ (∀ d, (s.dest d).SameDrive (t.dest d))
        ∧ (∀ p, (s.job j).boundPort ≠ some p → (s.port p).SameCard (t.port p))
        ∧ s.link.AnswersTo t.link e tag 0x22 [BitVec.ofNat 8 quota, BitVec.ofNat 8 (quota / 256)]

/-- JOB_START taken (chapter 1, "Starting, pausing and resuming"), with no lane at work and DEST_FULL not routed HOLD,
for a job whose first LISTED clip has units: the snapshot of the plan, the clamped quota and the urgent flag; RUNNING
at that clip, which is READING. -/
def JobStartReadsTheFirstClip : Prop :=
  ∀ (tag : Byte) (j : JobNo) (q u k c : Nat) (x : Clip) (s : State) (e : EntryNo), s.link.freeEntry = some e →
    (s.job j).state = .loading → (s.job j).boundPort.isSome → s.plan.r ≤ activePlanned s → FirstListed s j k c →
    s.clip? c = some x → x.job = j → 0 < x.length → AtRest s j → (s.job j).pausePending = false → s.LanesIdle →
    s.faults.route .destFull ≠ .hold →
      let quota := if q = 0 then 256 else min 1024 (max 16 q)
      ∃ t, exec (.jobStart tag j.val q u) s = .next t
        ∧ (t.job j).state = .running
        ∧ (t.job j).snapshot = some
            { r := s.plan.r
              mirrors := allDests.filter fun d => decide (s.plan.roles[d] = .mirror)
              spares := allDests.filter fun d => decide (s.plan.roles[d] = .spare) }
        ∧ (t.job j).quota = quota ∧ (t.job j).urgent = decide (u ≠ 0) ∧ (t.job j).readPos = ⟨k, 0⟩
        ∧ (t.job j).checkpoint = ⟨⟨k, 0⟩, ⟨1, 0⟩⟩ ∧ (t.job j).live = ⟨1, 0⟩ ∧ (t.job j).clips = (s.job j).clips
        ∧ t.clipState? c = some .reading ∧ (∀ l, l ≠ j → t.job l = s.job l) ∧ (∀ b, b ≠ c → t.clip? b = s.clip? b)
        ∧ (∀ d, s.plan.roles[d] = .mirror → (s.dest d).state = .active → (t.copy? c d).isSome)
        ∧ (∀ p, (s.job j).boundPort ≠ some p → (s.port p).SameCard (t.port p)) ∧ t.plan = s.plan
        ∧ t.manifest = s.manifest
        ∧ s.link.AnswersTo t.link e tag 0x22 [BitVec.ofNat 8 quota, BitVec.ofNat 8 (quota / 256)]

/-- JOB_START taken: a clip LISTED, and none (chapter 1, "Starting, pausing and resuming"). -/
def Obligations.JobStartReads : Prop := JobStartReadsTheFirstClip ∧ JobStartEndsAtOnce

/-- JOB_PAUSE by the job's state (chapter 1, "Starting, pausing and resuming"): RUNNING sets pause-pending with cause
HOST and is PAUSED at once when no unit is in flight and something is left to read (notes/assumptions/18.md); PAUSED
takes the cause; PULLED is to be PAUSED again; any other state refuses.  Nothing else changes.  That the notice of a pause
that takes effect at once stands ahead of the reply is the model's choice (notes/assumptions/36.md). -/
def JobPauseRules : Prop :=
  ∀ (tag : Byte) (j : JobNo) (s : State) (e : EntryNo), s.link.freeEntry = some e →
    let x := s.job j
    let run := exec (.jobPause tag j.val) s
    let leaves (y : Job) : Prop := ∃ t, run = .next t ∧ OnlyJob s t j y ∧ s.link.AnswersTo t.link e tag 0x23 []
    let filling := ∃ n y, (n, y) ∈ s.ring.held ∧ y.state = .filling ∧ y.owner = .job j
    (x.state = .running →
      (filling ∨ ¬ReadsOn s j → leaves { x with pausePending := true, pauseCause := some .host })
      ∧ (¬filling → ReadsOn s j → leaves { x with state := .paused, pausePending := false, pauseCause := some .host }))
    ∧ (x.state = .paused → leaves { x with pauseCause := some .host })
    ∧ (x.state = .pulled → leaves { x with resumeTarget := some .paused, pauseCause := some .host })
    ∧ (x.state = .loading ∨ x.state = .draining ∨ x.state = .held ∨ x.state = .reporting ∨ x.state = .released →
        run = .next (s.quiet.answered e tag 0x23 .wrongState []))

/-- JOB_RESUME by the job's state (chapter 1, "Starting, pausing and resuming"): a pending pause is undone, a PULLED
job is to run again, a PAUSED job whose read position stands at a READING clip is RUNNING; any other state but RUNNING
and PULLED refuses. -/
def JobResumeRules : Prop :=
  ∀ (tag : Byte) (j : JobNo) (s : State) (e : EntryNo), s.link.freeEntry = some e →
    let x := s.job j
    let run := exec (.jobResume tag j.val) s
    let leaves (y : Job) : Prop := ∃ t, run = .next t ∧ OnlyJob s t j y ∧ s.link.AnswersTo t.link e tag 0x24 []
    (x.state = .running →
      leaves (if x.pausePending then { x with pausePending := false, pauseCause := none } else x))
    ∧ (x.state = .pulled →
        leaves (if x.resumeTarget = some .paused then { x with resumeTarget := some .running, pauseCause := none } else x))
    ∧ (x.state = .loading ∨ x.state = .draining ∨ x.state = .held ∨ x.state = .reporting ∨ x.state = .released →
        run = .next (s.quiet.answered e tag 0x24 .wrongState []))
    ∧ ∀ c, x.state = .paused → x.clips[x.readPos.clip]? = some c → s.clipState? c = some .reading →
        x.pausePending = false →
        ∃ t, run = .next t
          ∧ (t.job j).state = .running ∧ (t.job j).pauseCause = none ∧ (t.job j).readPos = x.readPos
          ∧ (t.job j).live = x.live ∧ (t.job j).checkpoint = x.checkpoint ∧ (∀ l, l ≠ j → t.job l = s.job l)
          ∧ t.clips = s.clips ∧ t.plan = s.plan ∧ t.manifest = s.manifest ∧ t.faults = s.faults
            ∧ (∀ d, (s.dest d).SameDrive (t.dest d))
          ∧ (∀ p, x.boundPort ≠ some p → (s.port p).SameCard (t.port p)) ∧ s.link.AnswersTo t.link e tag 0x24 []

/-- JOB_RESUME of a PAUSED job with no clip READING or LISTED (chapter 1, "Starting, pausing and resuming"; sections 2.6,
7.6): its reading is over. -/
def JobResumeEndsReading : Prop :=
  ∀ (tag : Byte) (j : JobNo) (s : State) (e : EntryNo), s.link.freeEntry = some e → (s.job j).state = .paused →
    (∀ b ∈ (s.job j).clips, s.clipState? b ≠ some .listed ∧ s.clipState? b ≠ some .reading) →
      ∃ t, exec (.jobResume tag j.val) s = .next t
        ∧ ReadingIsOver s t j ∧ (t.job j).clips = (s.job j).clips ∧ (t.job j).held = (s.job j).held
        ∧ (t.job j).snapshot = (s.job j).snapshot ∧ (t.job j).boundPort = (s.job j).boundPort
        ∧ (∀ l, l ≠ j → t.job l = s.job l) ∧ t.clips = s.clips ∧ t.ring = s.ring ∧ t.plan = s.plan
        ∧ t.manifest = s.manifest ∧ t.faults = s.faults ∧ (∀ d, (s.dest d).SameDrive (t.dest d))
        ∧ (∀ p, (s.job j).boundPort ≠ some p → (s.port p).SameCard (t.port p))
        ∧ s.link.AnswersTo t.link e tag 0x24 []

/-- JOB_PAUSE and JOB_RESUME by the job's state (chapter 1, "Starting, pausing and resuming"). -/
def Obligations.PauseAndResumeRules : Prop := JobPauseRules ∧ JobResumeRules ∧ JobResumeEndsReading

/-- A job's normal end is open (chapter 1, "Ending a job"): LOADING with no record of its clips DEFERRED or QUEUED, or
RELEASED with no live copy of its clips. -/
def MayClose (s : State) (j : JobNo) : Prop :=
  ((s.job j).state = .loading
      ∧ ∀ c ∈ (s.job j).clips, ∀ x, s.clip? c = some x → x.mstatus ≠ .deferred ∧ x.mstatus ≠ .queued)
    ∨ ((s.job j).state = .released
      ∧ ∀ c ∈ (s.job j).clips, ∀ (d : DestNo) (k : Copy), s.copy? c d = some k → k.state.live = false)

/-- JOB_CLOSE (chapter 1, "Ending a job"): taken, the record is FREE, the job's clip records are free and no other,
its port goes from BOUND to PRESENT with its card and memory; refused WRONG_STATE otherwise.  Nothing else changes. -/
def Obligations.JobCloseRules : Prop :=
  ∀ (tag : Byte) (j : JobNo) (s : State) (e : EntryNo), s.link.freeEntry = some e → (s.job j).state ≠ .free →
    let run := exec (.jobClose tag j.val) s
    (¬MayClose s j → run = .next (s.quiet.answered e tag 0x26 .wrongState []))
    ∧ (MayClose s j →
        ∃ t, run = .next t
          ∧ t.job j = Job.free ∧ (∀ l, l ≠ j → t.job l = s.job l)
          ∧ t.clips = (s.clips.filter fun c => decide (c.2.job ≠ j))
          ∧ (∀ p, (s.job j).boundPort = some p →
              t.port p = { s.port p with state := .present, boundJob := none, lamp := t.formLamp p })
          ∧ (∀ p, (s.job j).boundPort ≠ some p → t.port p = s.port p) ∧ t.ring = s.ring ∧ t.dests = s.dests
          ∧ t.plan = s.plan ∧ t.manifest = s.manifest ∧ t.faults = s.faults
          ∧ s.link.AnswersTo t.link e tag 0x26 [])

/-- JOB_ABANDON (chapter 1, "Ending a job"), with lanes, read lanes and supply reads at rest and no requester waiting
for a slot: the record is FREE, the job's clip records are free and no other clip changes, its deferred clips are gone
and its queued records detached, its port is PRESENT with its card; no slot is the job's or holds a unit of one of its
clips, so that no pending set names one, and the job waits for none; no lock and no write item of its live copies is
left; no fault is raised. -/
def Obligations.JobAbandonEndsTheJob : Prop :=
  ∀ (tag : Byte) (j : JobNo) (s : State) (e : EntryNo), s.link.freeEntry = some e → (s.job j).state ≠ .free →
    s.LanesIdle → (∀ d, (s.dest d).rl.jobs = []) → s.ring.Sound → s.ring.waitList = [] →
    (∀ c x, (c, x) ∈ s.clips → (x.job = j ↔ c ∈ (s.job j).clips)) →
    (∀ p, ∀ i ∈ (s.port p).fifo, ∀ d l b k n, i.work ≠ .supply d l b k n) →
    (∀ n y, (n, y) ∈ s.ring.held → y.clip ∈ (s.job j).clips → y.owner = .job j) →
    (∀ p, (s.job j).boundPort = some p → (s.port p).state = .bound) →
      ∃ t, exec (.jobAbandon tag j.val) s = .next t
        ∧ t.job j = Job.free ∧ (∀ l, l ≠ j → t.job l = s.job l)
        ∧ t.clips = (s.clips.filter fun c => decide (c.2.job ≠ j))
        ∧ t.manifest =
          { queue := s.manifest.queue.map fun r => if r.job = j then { r with detached := true } else r
            deferred := s.manifest.deferred.filter fun c => !((s.clip? c).any fun x => decide (x.job = j)) }
        ∧ (∀ p, (s.job j).boundPort = some p →
            (t.port p).state = .present ∧ (t.port p).boundJob = none ∧ (t.port p).identity = (s.port p).identity
              ∧ (t.port p).released = (s.port p).released)
        ∧ (∀ p, (s.job j).boundPort ≠ some p → (s.port p).SameCard (t.port p))
        ∧ (∀ d w, ∀ i ∈ (t.dest d).queue w, i.clip ∉ (s.job j).clips ∨ ∀ k, s.copy? i.clip d = some k → k.state.live = false)
        ∧ (∀ d w c, (t.dest d).arb.lock = some (w, c) →
            c ∉ (s.job j).clips ∨ ∀ k, s.copy? c d = some k → k.state.live = false)
        ∧ (∀ d, (t.dest d).state = (s.dest d).state ∧ (t.dest d).binding = (s.dest d).binding)
        ∧ (∀ n y, (n, y) ∈ t.ring.held → y.owner ≠ .job j ∧ y.clip ∉ (s.job j).clips) ∧ .job j ∉ t.ring.waitList
        ∧ t.plan = s.plan ∧ t.faults = s.faults ∧ t.ring.Sound ∧ s.link.AnswersTo t.link e tag 0x25 []

/-- A field of `n` bytes that may be absent: a presence byte, then the field or `n` zeros. -/
def optReport (n : Nat) : Option (List Byte) → List Byte
  | some b => 1 :: b
  | none => 0 :: List.replicate n 0

/-- A flag as a byte. -/
def markByte (b : Bool) : Byte := if b then 1 else 0

/-- A closed sum: S1, S2 and F, most significant byte first. -/
def sumReport (x : ClosedSum) : List Byte := Bytes.be 4 x.s1 ++ Bytes.be 4 x.s2 ++ Bytes.be 4 x.f.toNat

/-- The code of a clip state (section 11.7). -/
def clipStateCode : ClipState → Nat
  | .listed => 0
  | .reading => 1
  | .read => 2
  | .secured => 3
  | .excluded => 4
  | .sourceFault => 5
  | .unstable => 6

/-- The code of a copy state (section 11.7). -/
def copyStateCode : CopyState → Nat
  | .queued => 0
  | .writing => 1
  | .written => 2
  | .verifying => 3
  | .verified => 4
  | .noSpace => 5
  | .failed => 6
  | .aborted => 7

/-- The code of a destination state (section 11.7). -/
def destStateCode : DestState → Nat
  | .absent => 0
  | .unbound => 1
  | .active => 2
  | .full => 3
  | .lost => 4

/-- The payload of a JOB_QUERY reply (section 11.7): state, identity, bound port, list length, the list's clips in each
of the seven states, read position, checkpoint, snapshot, quota, urgent, held-slot count, resume target, pause cause
and pause-pending. -/
def jobReport (s : State) (j : JobNo) : List Byte :=
  let x := s.job j
  let clipsIn (n : Nat) := (x.clips.filter fun c => (s.clipState? c).any fun y => decide (clipStateCode y = n)).length
  let ports (ds : List DestNo) := (List.finRange 4).map fun d => markByte (decide (d ∈ ds))
  [BitVec.ofNat 8 (jobStateCode x.state)]
    ++ optReport 14 (x.identity.map fun i => Bytes.le 8 i.media ++ Bytes.le 6 i.capacity)
    ++ [orAbsent (x.boundPort.map (·.val))] ++ Bytes.le 2 x.clips.length
    ++ (List.range 7).flatMap (fun n => Bytes.le 2 (clipsIn n))
    ++ Bytes.le 2 x.readPos.clip ++ Bytes.le 4 x.readPos.unit
    ++ Bytes.le 2 x.checkpoint.pos.clip ++ Bytes.le 4 x.checkpoint.pos.unit
    ++ optReport 9 (x.snapshot.map fun y => [BitVec.ofNat 8 y.r] ++ ports y.mirrors ++ ports y.spares)
    ++ Bytes.le 2 x.quota ++ [markByte x.urgent] ++ Bytes.le 2 x.held
    ++ [orAbsent (x.resumeTarget.map fun t => match t with
          | .running => 2
          | .paused => 3)]
    ++ [orAbsent (x.pauseCause.map fun t => match t with
          | .host => 0
          | .hold => 1)]
    ++ [markByte x.pausePending]

/-- The number of clips whose copy on `d` is in a state that satisfies `p`. -/
def copiesOn (s : State) (d : DestNo) (p : CopyState → Bool) : Nat :=
  (s.clips.filter fun c => match c.2.copies[d] with
    | some k => p k.state
    | none => false).length

/-- The payload of a DEST_QUERY reply (section 11.7): state, drive present, capacity, the binding with D, C and the two
pointers, the live and the VERIFIED copies, and whether a request is outstanding and abandoned. -/
def destReport (s : State) (d : DestNo) : List Byte :=
  let x := s.dest d
  let live (k : CopyState) : Bool := decide (k = .queued ∨ k = .writing ∨ k = .written ∨ k = .verifying)
  [BitVec.ofNat 8 (destStateCode x.state), markByte x.present] ++ optReport 6 (x.capacity.map (Bytes.le 6))
    ++ optReport 50 (x.binding.map fun b =>
        let units := (b.area - b.strip) / 2048
        Bytes.le 6 b.areaStart ++ Bytes.le 6 b.area ++ Bytes.le 4 b.strip ++ Bytes.le 2 b.spare ++ Bytes.le 6 b.firstUnit
          ++ Bytes.le 4 b.firstTrailer ++ Bytes.le 6 units ++ Bytes.le 6 (units - b.spare) ++ Bytes.le 6 b.nextUnit
          ++ Bytes.le 4 b.nextTrailer)
    ++ Bytes.le 2 (copiesOn s d live) ++ Bytes.le 2 (copiesOn s d fun k => decide (k = .verified))
    ++ [markByte x.outstanding.isSome, markByte x.abandoned]

/-- A full copy entry of a clip record: 37 bytes, 255 and zeros when there is no copy (section 11.7). -/
def copyReport : Option Copy → List Byte
  | none => 255 :: List.replicate 36 0
  | some k =>
    [BitVec.ofNat 8 (copyStateCode k.state),
      match k.origin with
      | .plan => 0
      | .spare => 1
      | .repair => 2
      | .host => 3,
      BitVec.ofNat 8 k.attempt]
      ++ optReport 10 (k.window.map fun w => Bytes.le 6 w.first ++ Bytes.le 4 w.count) ++ optReport 4 (k.trailer.map (Bytes.le 4))
      ++ Bytes.le 4 k.written ++ [markByte k.suspended] ++ optReport 12 (k.readback.map sumReport)

/-- The clip record of a CLIP_QUERY reply (section 11.7). -/
def clipReport (c : Nat) (x : Clip) : List Byte :=
  Bytes.le 2 c ++ [BitVec.ofNat 8 x.job.val, BitVec.ofNat 8 (clipStateCode x.state)] ++ Bytes.le 5 x.length
    ++ [markByte x.unstable,
      match x.mstatus with
      | .none => 0
      | .deferred => 1
      | .queued => 2
      | .taken => 3]
    ++ [BitVec.ofNat 8 x.token.length] ++ x.token ++ List.replicate (48 - x.token.length) 0
    ++ optReport 12 (x.sum.map sumReport)
    ++ copyReport x.copies[(0 : DestNo)] ++ copyReport x.copies[(1 : DestNo)] ++ copyReport x.copies[(2 : DestNo)]
    ++ copyReport x.copies[(3 : DestNo)]
    ++ [BitVec.ofNat 8 x.extents.length] ++ x.extents.flatMap fun e => Bytes.le 6 e.start ++ Bytes.le 4 e.count

/-- JOB_QUERY, CLIP_QUERY and DEST_QUERY (chapter 1, "Queries"; sections 5.4, 11.7) report, each in its layout, and
change nothing but their entry and their reply. -/
def JobClipAndDestQueries : Prop :=
  ∀ (tag : Byte) (s : State) (e : EntryNo), s.link.freeEntry = some e →
    let answer (code : Nat) (st : Status) (b : List Byte) : Host.Outcome State Fault Refusal :=
      .next (s.quiet.answered e tag code st b)
    (∀ j : JobNo, (s.job j).state ≠ .free → exec (.jobQuery tag j.val) s = answer 0x27 .ok (jobReport s j))
    ∧ (∀ d : DestNo, exec (.destQuery tag d.val) s = answer 0x12 .ok (destReport s d))
    ∧ (∀ n, 4 ≤ n → exec (.destQuery tag n) s = answer 0x12 .noSuch [])
    ∧ (∀ c, 4096 ≤ c → exec (.clipQuery tag (.byNumber c)) s = answer 0x28 .badParam [])
    ∧ (∀ c, c < 4096 → s.clip? c = none → exec (.clipQuery tag (.byNumber c)) s = answer 0x28 .noSuch [])
    ∧ (∀ c x, c < 4096 → s.clip? c = some x →
        exec (.clipQuery tag (.byNumber c)) s = answer 0x28 .ok ([1, 0] ++ clipReport c x))
    ∧ ∀ f length,
        let found := s.clips.filter fun c => match c.2.sum with
          | some sum => decide (sum.f.toNat = f ∧ c.2.length = length)
          | none => false
        (found = [] → exec (.clipQuery tag (.byTag f length)) s = answer 0x28 .noSuch [])
        ∧ ∀ c x more, found = (c, x) :: more →
            exec (.clipQuery tag (.byTag f length)) s = answer 0x28 .ok
              ([BitVec.ofNat 8 found.length, BitVec.ofNat 8 (found.length / 256)] ++ clipReport c x)

/-- The four queries of jobs, clips, destinations and the plan report and change nothing (chapter 1, "Queries"; sections
5.4, 8.3, 11.7). -/
def Obligations.QueriesOnlyAnswer : Prop := PlanQueryAnswers ∧ JobClipAndDestQueries

/-! ## Single clips -/

/-- A request that names a clip (chapter 1, "Acting on single clips"): BAD_PARAM for a number of 4096 or more, or a
destination of 4 or more; NO_SUCH for a free record; then WRONG_STATE by the clip's state and, for COPY_ADD, its copy
there and its destination.  Nothing changes. -/
def ClipRequestRefusals : Prop :=
  ∀ (tag : Byte) (c n : Nat) (s : State) (e : EntryNo), s.link.freeEntry = some e →
    let refused (i : Instr) (code : Nat) (st : Status) : Prop :=
      exec i s = .next (s.quiet.answered e tag code st [])
    (4096 ≤ c → refused (.clipExclude tag c) 0x29 .badParam ∧ refused (.clipRetry tag c) 0x2A .badParam)
    ∧ (4096 ≤ c ∨ 4 ≤ n → refused (.copyAdd tag c n) 0x2B .badParam)
    ∧ (c < 4096 → s.clip? c = none →
        refused (.clipExclude tag c) 0x29 .noSuch ∧ refused (.clipRetry tag c) 0x2A .noSuch
          ∧ (n < 4 → refused (.copyAdd tag c n) 0x2B .noSuch))
    ∧ ∀ x, c < 4096 → s.clip? c = some x →
        (x.state = .reading ∨ x.state = .secured ∨ x.state = .excluded → refused (.clipExclude tag c) 0x29 .wrongState)
        ∧ (x.state ≠ .sourceFault → refused (.clipRetry tag c) 0x2A .wrongState)
        ∧ ∀ d : DestNo, d.val = n →
            (x.state ≠ .read ∧ x.state ≠ .secured ∧ x.state ≠ .unstable → refused (.copyAdd tag c n) 0x2B .wrongState)
            ∧ (∀ k, x.copies[d] = some k → k.state.live = true ∨ k.state = .verified →
                refused (.copyAdd tag c n) 0x2B .wrongState)
            ∧ ((s.dest d).state ≠ .active → refused (.copyAdd tag c n) 0x2B .wrongState)

/-- The refusals of the requests that name a job or a clip, and JOB_START's own (chapter 1, section 7.5). -/
def Obligations.JobAndClipRequestsAreRefused : Prop := JobNumbersAreChecked ∧ JobStartRefusals ∧ ClipRequestRefusals

/-- CLIP_EXCLUDE taken (chapter 1, "Acting on single clips"), with lanes and read lanes at rest and no requester
waiting for a slot: the clip is EXCLUDED, its live copies ABORTED and no other copy changed, and its EXCLUDED record,
with the state it was in, joins a manifest queue with room. -/
def Obligations.ClipExcludeSettles : Prop :=
  ∀ (tag : Byte) (c : Nat) (x : Clip) (s : State) (e : EntryNo), s.link.freeEntry = some e → c < 4096 →
    s.clip? c = some x →
    x.state = .listed ∨ x.state = .read ∨ x.state = .sourceFault ∨ x.state = .unstable →
    s.LanesIdle → (∀ d, (s.dest d).rl.jobs = []) → s.ring.Sound → s.ring.waitList = [] → s.manifest.queue.length < 512 →
      ∃ t m, exec (.clipExclude tag c) s = .next t
        ∧ t.clipState? c = some .excluded
        ∧ (∀ d : DestNo, t.copy? c d =
            (x.copies[d]).map fun k => if k.state.live then { k with state := .aborted } else k)
        ∧ (∀ b, b ≠ c → t.clip? b = s.clip? b)
        ∧ t.manifest = { s.manifest with queue := s.manifest.queue ++ [m] }
        ∧ m.kind = .excluded ∧ m.clip = c ∧ m.job = x.job ∧ m.prior = some x.state ∧ m.sum = x.sum ∧ m.length = x.length
        ∧ (∀ d w, ∀ i ∈ (t.dest d).queue w, i.clip = c → ∀ k, x.copies[d] = some k → k.state.live = false)
        ∧ (∀ d, (t.dest d).state = (s.dest d).state ∧ (t.dest d).binding = (s.dest d).binding)
        ∧ t.plan = s.plan ∧ t.faults = s.faults ∧ t.ring.Sound ∧ s.link.AnswersTo t.link e tag 0x29 []

/-- CLIP_RETRY taken (chapter 1, "Acting on single clips"): the clip is LISTED without its copies and no other clip
changes.  A RUNNING, PAUSED or PULLED job is as it was; a DRAINING or HELD job without its card is PULLED, to run
again, at its first LISTED clip. -/
def ClipRetryLists : Prop :=
  ∀ (tag : Byte) (c : Nat) (x : Clip) (s : State) (e : EntryNo), s.link.freeEntry = some e → c < 4096 →
    s.clip? c = some x → x.state = .sourceFault →
    let y := s.job x.job
    let listed : Clip := { x with state := .listed, copies := #v[none, none, none, none] }
    let leaves (z : Job) : Prop :=
      ∃ t, exec (.clipRetry tag c) s = .next t
        ∧ t.clip? c = some listed ∧ (∀ b, b ≠ c → t.clip? b = s.clip? b) ∧ t.job x.job = z
        ∧ (∀ l, l ≠ x.job → t.job l = s.job l) ∧ t.ring = s.ring ∧ t.plan = s.plan ∧ t.manifest = s.manifest
        ∧ t.faults = s.faults ∧ (∀ d, (s.dest d).SameDrive (t.dest d)) ∧ (∀ p, (s.port p).SameCard (t.port p))
        ∧ s.link.AnswersTo t.link e tag 0x2A []
    (y.state = .running ∨ y.state = .paused ∨ y.state = .pulled → leaves y)
    ∧ ∀ k, y.state = .draining ∨ y.state = .held → y.boundPort = none → y.clips[k]? = some c →
        (∀ i b, i < k → y.clips[i]? = some b → s.clipState? b ≠ some .listed ∧ b ≠ c) →
          leaves
            { y with
              state := .pulled, resumeTarget := some .running, readPos := ⟨k, 0⟩, live := ⟨1, 0⟩, summed := 0
              checkpoint := ⟨⟨k, 0⟩, ⟨1, 0⟩⟩ }

/-- CLIP_RETRY of a clip of a DRAINING or HELD job with its card (chapter 1, "Acting on single clips"), with no lane
at work, no slot being filled for the job and DEST_FULL not routed HOLD: the job is RUNNING again at the clip, when it
is the first LISTED one. -/
def ClipRetryReadsAgain : Prop :=
  ∀ (tag : Byte) (c k : Nat) (x : Clip) (s : State) (e : EntryNo), s.link.freeEntry = some e → c < 4096 →
    s.clip? c = some x → x.state = .sourceFault → 0 < x.length →
    let y := s.job x.job
    y.state = .draining ∨ y.state = .held → y.boundPort.isSome → y.clips[k]? = some c →
    (∀ i b, i < k → y.clips[i]? = some b → s.clipState? b ≠ some .listed ∧ b ≠ c) → AtRest s x.job →
    y.pausePending = false → SparesFit y → s.LanesIdle → s.faults.route .destFull ≠ .hold →
      ∃ t, exec (.clipRetry tag c) s = .next t
        ∧ (t.job x.job).state = .running ∧ (t.job x.job).readPos = ⟨k, 0⟩ ∧ t.clipState? c = some .reading
        ∧ (∀ l, l ≠ x.job → t.job l = s.job l) ∧ (∀ b, b ≠ c → t.clip? b = s.clip? b) ∧ t.plan = s.plan
        ∧ t.manifest = s.manifest ∧ s.link.AnswersTo t.link e tag 0x2A []

/-- CLIP_RETRY taken: the clip and its job, without the card and with it (chapter 1, "Acting on single clips"). -/
def Obligations.ClipRetryRules : Prop := ClipRetryLists ∧ ClipRetryReadsAgain

/-- COPY_ADD taken while its destination's lane works on another copy (section 7.5): the copy is QUEUED with origin
HOST and attempt 1 behind the copies of the lane; a HELD job of a clip that is not SECURED is DRAINING; the clip and every
other copy stay as they are. -/
def Obligations.CopyAddQueues : Prop :=
  ∀ (tag : Byte) (c : Nat) (d : DestNo) (x : Clip) (other : Nat) (s : State) (e : EntryNo), s.link.freeEntry = some e →
    c < 4096 → s.clip? c = some x → x.state = .read ∨ x.state = .secured ∨ x.state = .unstable →
    (∀ k, x.copies[d] = some k → k.state.live = false ∧ k.state ≠ .verified) → (s.dest d).state = .active →
    (s.dest d).lane.current = some other → (s.clip? other).isSome → (s.dest d).lane.standing.isSome →
    c ∉ (s.dest d).lane.copies → c ∈ (s.job x.job).clips →
      ∃ t, exec (.copyAdd tag c d.val) s = .next t
        ∧ t.clip? c = some
            { x with
              copies := x.copies.set d (some
                { state := .queued, origin := .host, attempt := 1, window := none, trailer := none, written := 0
                  suspended := false, readback := none }) }
        ∧ (∀ b, b ≠ c → t.clip? b = s.clip? b)
        ∧ (t.dest d).lane = { (s.dest d).lane with copies := (s.dest d).lane.copies ++ [c] }
        ∧ (∀ f, f ≠ d → (s.dest f).SameDrive (t.dest f))
        ∧ ((s.job x.job).state = .held → x.state ≠ .secured → (t.job x.job).state = .draining)
        ∧ ((s.job x.job).state ≠ .draining → (s.job x.job).state ≠ .held → t.job x.job = s.job x.job)
        ∧ (∀ l, l ≠ x.job → t.job l = s.job l) ∧ t.ring = s.ring ∧ t.plan = s.plan ∧ t.manifest = s.manifest
        ∧ t.faults = s.faults ∧ s.link.AnswersTo t.link e tag 0x2B []

/-! ## The manifest -/

/-- The copy entry of a manifest record: 18 bytes, 255 and zeros when there is no copy (section 11.7). -/
def recordCopyReport : Option RecordCopy → List Byte
  | none => 255 :: List.replicate 17 0
  | some k =>
    [BitVec.ofNat 8 (copyStateCode k.state), BitVec.ofNat 8 k.attempt]
      ++ optReport 10 (k.window.map fun w => Bytes.le 6 w.first ++ Bytes.le 4 w.count) ++ optReport 4 (k.trailer.map (Bytes.le 4))

/-- A manifest record as MANIFEST_READ returns it, field by field in the order of its offsets (section 11.7): kind,
detached mark, clip, job, card identity, L, name token, source sum, prior state, unstable marker, four copy entries. -/
def recordReport (r : Record) : List Byte :=
  [markByte (decide (r.kind = .excluded)), markByte r.detached]
    ++ Bytes.le 2 r.clip ++ [BitVec.ofNat 8 r.job.val] ++ Bytes.le 8 r.identity.media ++ Bytes.le 6 r.identity.capacity
    ++ Bytes.le 5 r.length
    ++ [BitVec.ofNat 8 r.token.length] ++ r.token ++ List.replicate (48 - r.token.length) 0
    ++ optReport 12 (r.sum.map sumReport)
    ++ [orAbsent (r.prior.map clipStateCode), (r.unstable.map markByte).getD 255]
    ++ recordCopyReport r.copies[(0 : DestNo)] ++ recordCopyReport r.copies[(1 : DestNo)]
    ++ recordCopyReport r.copies[(2 : DestNo)] ++ recordCopyReport r.copies[(3 : DestNo)]

/-- MANIFEST_READ (sections 9.2, 9.3): m records are taken from the head of the queue, m being the least of 8, the count
asked for and the records queued, and the clips of those not detached are TAKEN; then up to m clips leave the head of
the deferred list, in order: a record of each is formed from its clip record and joins the tail of the queue, and the
clip is QUEUED.  The reply carries what is left of both and the m records, each in its 160 bytes (section 11.7).  A REPORTING job that had a clip TAKEN and
whose clips are now all TAKEN is RELEASED, and the memory of its port holds its identity; no other job changes. -/
def Obligations.ManifestReadRules : Prop :=
  ∀ (tag : Byte) (count : Nat) (s : State) (e : EntryNo), s.link.freeEntry = some e →
    let records := s.manifest.queue.take (min count 8)
    let entering := s.manifest.deferred.take records.length
    (∀ c ∈ entering, (s.clip? c).isSome) →
    ∃ t fresh, exec (.manifestRead tag count) s = .next t
      ∧ t.manifest =
        { queue := s.manifest.queue.drop records.length ++ fresh
          deferred := s.manifest.deferred.drop records.length }
      ∧ fresh.map (·.clip) = entering
      ∧ (∀ r ∈ fresh, ∀ x, s.clip? r.clip = some x →
          r.kind = (if x.state = .secured then .secured else .excluded) ∧ r.job = x.job ∧ r.length = x.length
          ∧ r.token = x.token ∧ r.sum = x.sum ∧ r.detached = false
          ∧ r.prior = (if x.state = .secured then none else x.prior)
          ∧ r.unstable = (if x.state = .secured then some x.unstable else none)
          ∧ (∀ card, (s.job x.job).identity = some card → r.identity = card)
          ∧ ∀ d : DestNo, r.copies[d] = (x.copies[d]).map fun k => ⟨k.state, k.attempt, k.window, k.trailer⟩)
      ∧ (∀ c, (t.clip? c) = (s.clip? c).map fun x =>
          if c ∈ entering then { x with mstatus := .queued }
          else if ∃ r ∈ records, r.clip = c ∧ r.detached = false then { x with mstatus := .taken } else x)
      ∧ s.link.AnswersTo t.link e tag 0x30
          (BitVec.ofNat 8 records.length :: (Bytes.le 2 t.manifest.queue.length ++ Bytes.le 2 t.manifest.deferred.length)
            ++ records.flatMap recordReport)
      ∧ (∀ r ∈ records, r.token.length ≤ 48 → (recordReport r).length = 160)
      ∧ (∀ j : JobNo,
          let due := (s.job j).state = .reporting ∧ (∃ r ∈ records, r.job = j ∧ r.detached = false)
            ∧ ∀ c ∈ (s.job j).clips, ∀ x, t.clip? c = some x → x.mstatus = .taken
          (due → t.job j = { s.job j with state := .released }
            ∧ ∀ p, (s.job j).boundPort = some p → (∀ i, i ≠ j → (s.job i).boundPort ≠ some p) →
                (t.port p).released = (s.job j).identity)
          ∧ (¬due → t.job j = s.job j))
      ∧ t.ring = s.ring ∧ t.plan = s.plan ∧ t.faults = s.faults ∧ (∀ d, (s.dest d).SameDrive (t.dest d))

/-! ## Sums -/

/-- Clip sums (sections 3.2, 3.3): both accumulators stay below M; bytes fed in two runs, the first of whole words,
give what they give fed at once; the closed sum is S1, S2 and S2 rotated left by L mod 32, exclusive-or S1; two sums
of one length that agree in S1 and S2 have equal F. -/
def Obligations.SumsAddUp : Prop :=
  (∀ (x : Sums) (bytes : List Byte), x.s1 < 4294967291 → x.s2 < 4294967291 →
      (x.feed bytes).s1 < 4294967291 ∧ (x.feed bytes).s2 < 4294967291)
    ∧ (∀ (x : Sums) (a b c d : Byte) (bytes : List Byte),
        let w := a.toNat + 256 * b.toNat + 65536 * c.toNat + 16777216 * d.toNat
        let s1 := (x.s1 + w) % 4294967291
        x.feed (a :: b :: c :: d :: bytes) = Sums.feed ⟨s1, (x.s2 + s1) % 4294967291⟩ bytes)
    ∧ (∀ (x : Sums) (first rest : List Byte), 4 ∣ first.length → x.feed (first ++ rest) = (x.feed first).feed rest)
    ∧ (∀ (x : Sums) (bytes : List Byte), ¬4 ∣ bytes.length → x.feed bytes = x.feed (bytes ++ [0]))
    ∧ (∀ (x : Sums) (length : Nat), (x.close length).s1 = x.s1 ∧ (x.close length).s2 = x.s2
        ∧ (x.s1 < 4294967291 → x.s2 < 4294967291 → ∀ i : Nat, i < 32 →
            (x.close length).f.getLsbD i = (x.s2.testBit ((i + 32 - length % 32) % 32) != x.s1.testBit i)))
    ∧ ∀ (x y : Sums) (length : Nat), (x.close length).agrees (y.close length) = true →
        (x.close length).f = (y.close length).f

/-! ## Invariants of the blocks -/

/-- Every step keeps each slot either once on the free list or held, and not both, 2048 in all (sections 4.1, 4.2). -/
def RingStaysSound : Prop := KeptByStep fun s => s.ring.Sound

/-- Every step keeps the outbound queue at most 32 notices deep and the manifest queue at most 512 records (sections
9.2, 11.5). -/
def QueuesStayBounded : Prop := KeptByStep fun s => s.link.Sound ∧ s.manifest.Sound

/-- Every step keeps the clip table in its canonical form: each record once, numbers rising.  The form is the model's
own (chapter 1, "The clip table", gives the records). -/
def ClipTableStaysCanonical : Prop := KeptByStep fun s => Table.wf s.clips = true

/-- The buffers the blocks share stay within their rules: every step keeps the slot ring, the two queues and the clip
table sound (sections 4.1, 4.2, 9.2, 11.5). -/
def Obligations.BooksStaySound : Prop := RingStaysSound ∧ QueuesStayBounded ∧ ClipTableStaysCanonical

/-- Every step keeps the ring sound with no STAGED slot whose pending set is empty (sections 4.1, 4.2). -/
def StagedSlotsStayNeeded : Prop := KeptByStep fun s => s.ring.Sound ∧ s.StagedAreNeeded

/-- A job that may be closed owns no slot. -/
def ClosableOwnNone (s : State) : Prop :=
  ∀ j, MayClose s j → ∀ n y, (n, y) ∈ s.ring.held → y.owner ≠ .job j

/-- Every step keeps each held-slot count equal to the slots its requester owns (sections 4.2, 4.3), where a job whose
normal end is open owns none (chapter 1, "Ending a job": JOB_CLOSE returns the record to FREE as it stands). -/
def HeldCountsStay : Prop :=
  ∀ s t, s.CountsAgree → ClosableOwnNone s → step s = .next t → t.CountsAgree

/-- Every step keeps a LOADING job without slots (chapter 1, "The job table"; section 4.3). -/
def LoadingJobsStayEmpty : Prop :=
  ∀ s t, s.CountsAgree → (∀ j, (s.job j).state = .loading → (s.job j).held = 0) → step s = .next t →
    ∀ j, (t.job j).state = .loading → (t.job j).held = 0

/-- Every step keeps BOUND ports and their jobs naming each other (section 2.1). -/
def BindingsStayMutual : Prop := KeptByStep State.BindingsAgree

/-- Slots, counts and bindings stay within their rules (sections 2.1, 4.1 to 4.3). -/
def Obligations.SlotsAndBindingsStaySound : Prop :=
  StagedSlotsStayNeeded ∧ HeldCountsStay ∧ LoadingJobsStayEmpty ∧ BindingsStayMutual

/-- `State.reset` satisfies every invariant stated here.  It is one of the states POWER_ON_RESET leaves, the one of the
8-port strap position with no card seated: the model's choice (notes/assumptions/5.md, with 7.md and 33.md for the
fields the manual gives no value). -/
def Obligations.ResetIsSound : Prop :=
  State.reset.faults.Sound ∧ (∀ d, (State.reset.dest d).Sound) ∧ State.reset.ring.Sound ∧ State.reset.link.Sound
    ∧ State.reset.manifest.Sound ∧ Table.wf State.reset.clips = true ∧ State.reset.LampsFormed
    ∧ State.reset.StagedAreNeeded ∧ State.reset.CountsAgree ∧ ClosableOwnNone State.reset ∧ State.reset.BindingsAgree
end

