-- ==== Sys2Proof/Laws/State.lean ====
section
/-! SUPPORT. Laws/State.lean: what each update of the state leaves, field by field.

One lemma for each update and each field it does not touch, and the lookups of the records it writes. -/

namespace Sys2Proof.Machine.State

variable (s : State)

/-! ### setPort -/

@[simp] theorem setPort_jobs (p : PortNo) (x : CardPort) : (s.setPort p x).jobs = s.jobs := rfl
@[simp] theorem setPort_clips (p : PortNo) (x : CardPort) : (s.setPort p x).clips = s.clips := rfl
@[simp] theorem setPort_ring (p : PortNo) (x : CardPort) : (s.setPort p x).ring = s.ring := rfl
@[simp] theorem setPort_dests (p : PortNo) (x : CardPort) : (s.setPort p x).dests = s.dests := rfl
@[simp] theorem setPort_plan (p : PortNo) (x : CardPort) : (s.setPort p x).plan = s.plan := rfl
@[simp] theorem setPort_manifest (p : PortNo) (x : CardPort) : (s.setPort p x).manifest = s.manifest := rfl
@[simp] theorem setPort_faults (p : PortNo) (x : CardPort) : (s.setPort p x).faults = s.faults := rfl
@[simp] theorem setPort_link (p : PortNo) (x : CardPort) : (s.setPort p x).link = s.link := rfl
@[simp] theorem setPort_lines (p : PortNo) (x : CardPort) : (s.setPort p x).lines = s.lines := rfl
@[simp] theorem setPort_pending (p : PortNo) (x : CardPort) : (s.setPort p x).pending = s.pending := rfl

/-! ### modPort -/

@[simp] theorem modPort_jobs (p : PortNo) (f : CardPort → CardPort) : (s.modPort p f).jobs = s.jobs := rfl
@[simp] theorem modPort_clips (p : PortNo) (f : CardPort → CardPort) : (s.modPort p f).clips = s.clips := rfl
@[simp] theorem modPort_ring (p : PortNo) (f : CardPort → CardPort) : (s.modPort p f).ring = s.ring := rfl
@[simp] theorem modPort_dests (p : PortNo) (f : CardPort → CardPort) : (s.modPort p f).dests = s.dests := rfl
@[simp] theorem modPort_plan (p : PortNo) (f : CardPort → CardPort) : (s.modPort p f).plan = s.plan := rfl
@[simp] theorem modPort_manifest (p : PortNo) (f : CardPort → CardPort) : (s.modPort p f).manifest = s.manifest := rfl
@[simp] theorem modPort_faults (p : PortNo) (f : CardPort → CardPort) : (s.modPort p f).faults = s.faults := rfl
@[simp] theorem modPort_link (p : PortNo) (f : CardPort → CardPort) : (s.modPort p f).link = s.link := rfl
@[simp] theorem modPort_lines (p : PortNo) (f : CardPort → CardPort) : (s.modPort p f).lines = s.lines := rfl
@[simp] theorem modPort_pending (p : PortNo) (f : CardPort → CardPort) : (s.modPort p f).pending = s.pending := rfl

/-! ### setJob -/

@[simp] theorem setJob_ports (j : JobNo) (x : Job) : (s.setJob j x).ports = s.ports := rfl
@[simp] theorem setJob_clips (j : JobNo) (x : Job) : (s.setJob j x).clips = s.clips := rfl
@[simp] theorem setJob_ring (j : JobNo) (x : Job) : (s.setJob j x).ring = s.ring := rfl
@[simp] theorem setJob_dests (j : JobNo) (x : Job) : (s.setJob j x).dests = s.dests := rfl
@[simp] theorem setJob_plan (j : JobNo) (x : Job) : (s.setJob j x).plan = s.plan := rfl
@[simp] theorem setJob_manifest (j : JobNo) (x : Job) : (s.setJob j x).manifest = s.manifest := rfl
@[simp] theorem setJob_faults (j : JobNo) (x : Job) : (s.setJob j x).faults = s.faults := rfl
@[simp] theorem setJob_link (j : JobNo) (x : Job) : (s.setJob j x).link = s.link := rfl
@[simp] theorem setJob_lines (j : JobNo) (x : Job) : (s.setJob j x).lines = s.lines := rfl
@[simp] theorem setJob_pending (j : JobNo) (x : Job) : (s.setJob j x).pending = s.pending := rfl

/-! ### modJob -/

@[simp] theorem modJob_ports (j : JobNo) (f : Job → Job) : (s.modJob j f).ports = s.ports := rfl
@[simp] theorem modJob_clips (j : JobNo) (f : Job → Job) : (s.modJob j f).clips = s.clips := rfl
@[simp] theorem modJob_ring (j : JobNo) (f : Job → Job) : (s.modJob j f).ring = s.ring := rfl
@[simp] theorem modJob_dests (j : JobNo) (f : Job → Job) : (s.modJob j f).dests = s.dests := rfl
@[simp] theorem modJob_plan (j : JobNo) (f : Job → Job) : (s.modJob j f).plan = s.plan := rfl
@[simp] theorem modJob_manifest (j : JobNo) (f : Job → Job) : (s.modJob j f).manifest = s.manifest := rfl
@[simp] theorem modJob_faults (j : JobNo) (f : Job → Job) : (s.modJob j f).faults = s.faults := rfl
@[simp] theorem modJob_link (j : JobNo) (f : Job → Job) : (s.modJob j f).link = s.link := rfl
@[simp] theorem modJob_lines (j : JobNo) (f : Job → Job) : (s.modJob j f).lines = s.lines := rfl
@[simp] theorem modJob_pending (j : JobNo) (f : Job → Job) : (s.modJob j f).pending = s.pending := rfl

/-! ### setDest -/

@[simp] theorem setDest_ports (d : DestNo) (x : DestPort) : (s.setDest d x).ports = s.ports := rfl
@[simp] theorem setDest_jobs (d : DestNo) (x : DestPort) : (s.setDest d x).jobs = s.jobs := rfl
@[simp] theorem setDest_clips (d : DestNo) (x : DestPort) : (s.setDest d x).clips = s.clips := rfl
@[simp] theorem setDest_ring (d : DestNo) (x : DestPort) : (s.setDest d x).ring = s.ring := rfl
@[simp] theorem setDest_plan (d : DestNo) (x : DestPort) : (s.setDest d x).plan = s.plan := rfl
@[simp] theorem setDest_manifest (d : DestNo) (x : DestPort) : (s.setDest d x).manifest = s.manifest := rfl
@[simp] theorem setDest_faults (d : DestNo) (x : DestPort) : (s.setDest d x).faults = s.faults := rfl
@[simp] theorem setDest_link (d : DestNo) (x : DestPort) : (s.setDest d x).link = s.link := rfl
@[simp] theorem setDest_lines (d : DestNo) (x : DestPort) : (s.setDest d x).lines = s.lines := rfl
@[simp] theorem setDest_pending (d : DestNo) (x : DestPort) : (s.setDest d x).pending = s.pending := rfl

/-! ### modDest -/

@[simp] theorem modDest_ports (d : DestNo) (f : DestPort → DestPort) : (s.modDest d f).ports = s.ports := rfl
@[simp] theorem modDest_jobs (d : DestNo) (f : DestPort → DestPort) : (s.modDest d f).jobs = s.jobs := rfl
@[simp] theorem modDest_clips (d : DestNo) (f : DestPort → DestPort) : (s.modDest d f).clips = s.clips := rfl
@[simp] theorem modDest_ring (d : DestNo) (f : DestPort → DestPort) : (s.modDest d f).ring = s.ring := rfl
@[simp] theorem modDest_plan (d : DestNo) (f : DestPort → DestPort) : (s.modDest d f).plan = s.plan := rfl
@[simp] theorem modDest_manifest (d : DestNo) (f : DestPort → DestPort) : (s.modDest d f).manifest = s.manifest := rfl
@[simp] theorem modDest_faults (d : DestNo) (f : DestPort → DestPort) : (s.modDest d f).faults = s.faults := rfl
@[simp] theorem modDest_link (d : DestNo) (f : DestPort → DestPort) : (s.modDest d f).link = s.link := rfl
@[simp] theorem modDest_lines (d : DestNo) (f : DestPort → DestPort) : (s.modDest d f).lines = s.lines := rfl
@[simp] theorem modDest_pending (d : DestNo) (f : DestPort → DestPort) : (s.modDest d f).pending = s.pending := rfl

/-! ### modLane -/

@[simp] theorem modLane_ports (d : DestNo) (f : Lane → Lane) : (s.modLane d f).ports = s.ports := rfl
@[simp] theorem modLane_jobs (d : DestNo) (f : Lane → Lane) : (s.modLane d f).jobs = s.jobs := rfl
@[simp] theorem modLane_clips (d : DestNo) (f : Lane → Lane) : (s.modLane d f).clips = s.clips := rfl
@[simp] theorem modLane_ring (d : DestNo) (f : Lane → Lane) : (s.modLane d f).ring = s.ring := rfl
@[simp] theorem modLane_plan (d : DestNo) (f : Lane → Lane) : (s.modLane d f).plan = s.plan := rfl
@[simp] theorem modLane_manifest (d : DestNo) (f : Lane → Lane) : (s.modLane d f).manifest = s.manifest := rfl
@[simp] theorem modLane_faults (d : DestNo) (f : Lane → Lane) : (s.modLane d f).faults = s.faults := rfl
@[simp] theorem modLane_link (d : DestNo) (f : Lane → Lane) : (s.modLane d f).link = s.link := rfl
@[simp] theorem modLane_lines (d : DestNo) (f : Lane → Lane) : (s.modLane d f).lines = s.lines := rfl
@[simp] theorem modLane_pending (d : DestNo) (f : Lane → Lane) : (s.modLane d f).pending = s.pending := rfl

/-! ### setClip -/

@[simp] theorem setClip_ports (c : Nat) (x : Clip) : (s.setClip c x).ports = s.ports := rfl
@[simp] theorem setClip_jobs (c : Nat) (x : Clip) : (s.setClip c x).jobs = s.jobs := rfl
@[simp] theorem setClip_ring (c : Nat) (x : Clip) : (s.setClip c x).ring = s.ring := rfl
@[simp] theorem setClip_dests (c : Nat) (x : Clip) : (s.setClip c x).dests = s.dests := rfl
@[simp] theorem setClip_plan (c : Nat) (x : Clip) : (s.setClip c x).plan = s.plan := rfl
@[simp] theorem setClip_manifest (c : Nat) (x : Clip) : (s.setClip c x).manifest = s.manifest := rfl
@[simp] theorem setClip_faults (c : Nat) (x : Clip) : (s.setClip c x).faults = s.faults := rfl
@[simp] theorem setClip_link (c : Nat) (x : Clip) : (s.setClip c x).link = s.link := rfl
@[simp] theorem setClip_lines (c : Nat) (x : Clip) : (s.setClip c x).lines = s.lines := rfl
@[simp] theorem setClip_pending (c : Nat) (x : Clip) : (s.setClip c x).pending = s.pending := rfl

/-! ### emitLine -/

@[simp] theorem emitLine_ports (o : LineOut) : (s.emitLine o).ports = s.ports := rfl
@[simp] theorem emitLine_jobs (o : LineOut) : (s.emitLine o).jobs = s.jobs := rfl
@[simp] theorem emitLine_clips (o : LineOut) : (s.emitLine o).clips = s.clips := rfl
@[simp] theorem emitLine_ring (o : LineOut) : (s.emitLine o).ring = s.ring := rfl
@[simp] theorem emitLine_dests (o : LineOut) : (s.emitLine o).dests = s.dests := rfl
@[simp] theorem emitLine_plan (o : LineOut) : (s.emitLine o).plan = s.plan := rfl
@[simp] theorem emitLine_manifest (o : LineOut) : (s.emitLine o).manifest = s.manifest := rfl
@[simp] theorem emitLine_faults (o : LineOut) : (s.emitLine o).faults = s.faults := rfl
@[simp] theorem emitLine_link (o : LineOut) : (s.emitLine o).link = s.link := rfl
@[simp] theorem emitLine_pending (o : LineOut) : (s.emitLine o).pending = s.pending := rfl

/-! ### quiet -/

@[simp] theorem quiet_ports : (s.quiet).ports = s.ports := rfl
@[simp] theorem quiet_jobs : (s.quiet).jobs = s.jobs := rfl
@[simp] theorem quiet_clips : (s.quiet).clips = s.clips := rfl
@[simp] theorem quiet_ring : (s.quiet).ring = s.ring := rfl
@[simp] theorem quiet_dests : (s.quiet).dests = s.dests := rfl
@[simp] theorem quiet_plan : (s.quiet).plan = s.plan := rfl
@[simp] theorem quiet_manifest : (s.quiet).manifest = s.manifest := rfl
@[simp] theorem quiet_faults : (s.quiet).faults = s.faults := rfl
@[simp] theorem quiet_link : (s.quiet).link = s.link := rfl
@[simp] theorem quiet_pending : (s.quiet).pending = s.pending := rfl

/-! ### notify -/

@[simp] theorem notify_ports (n : Notice) : (s.notify n).ports = s.ports := rfl
@[simp] theorem notify_jobs (n : Notice) : (s.notify n).jobs = s.jobs := rfl
@[simp] theorem notify_clips (n : Notice) : (s.notify n).clips = s.clips := rfl
@[simp] theorem notify_ring (n : Notice) : (s.notify n).ring = s.ring := rfl
@[simp] theorem notify_dests (n : Notice) : (s.notify n).dests = s.dests := rfl
@[simp] theorem notify_plan (n : Notice) : (s.notify n).plan = s.plan := rfl
@[simp] theorem notify_manifest (n : Notice) : (s.notify n).manifest = s.manifest := rfl
@[simp] theorem notify_faults (n : Notice) : (s.notify n).faults = s.faults := rfl
@[simp] theorem notify_lines (n : Notice) : (s.notify n).lines = s.lines := rfl
@[simp] theorem notify_pending (n : Notice) : (s.notify n).pending = s.pending := rfl

/-! ### reply -/

@[simp] theorem reply_ports (e : EntryNo) (st : Status) (b : List Byte) : (s.reply e st b).ports = s.ports := rfl
@[simp] theorem reply_jobs (e : EntryNo) (st : Status) (b : List Byte) : (s.reply e st b).jobs = s.jobs := rfl
@[simp] theorem reply_clips (e : EntryNo) (st : Status) (b : List Byte) : (s.reply e st b).clips = s.clips := rfl
@[simp] theorem reply_ring (e : EntryNo) (st : Status) (b : List Byte) : (s.reply e st b).ring = s.ring := rfl
@[simp] theorem reply_dests (e : EntryNo) (st : Status) (b : List Byte) : (s.reply e st b).dests = s.dests := rfl
@[simp] theorem reply_plan (e : EntryNo) (st : Status) (b : List Byte) : (s.reply e st b).plan = s.plan := rfl
@[simp] theorem reply_manifest (e : EntryNo) (st : Status) (b : List Byte) : (s.reply e st b).manifest = s.manifest := rfl
@[simp] theorem reply_faults (e : EntryNo) (st : Status) (b : List Byte) : (s.reply e st b).faults = s.faults := rfl
@[simp] theorem reply_lines (e : EntryNo) (st : Status) (b : List Byte) : (s.reply e st b).lines = s.lines := rfl
@[simp] theorem reply_pending (e : EntryNo) (st : Status) (b : List Byte) : (s.reply e st b).pending = s.pending := rfl

/-! ### moveJob -/

@[simp] theorem moveJob_ports (j : JobNo) (f : Job → Job) : (s.moveJob j f).ports = s.ports := rfl
@[simp] theorem moveJob_clips (j : JobNo) (f : Job → Job) : (s.moveJob j f).clips = s.clips := rfl
@[simp] theorem moveJob_ring (j : JobNo) (f : Job → Job) : (s.moveJob j f).ring = s.ring := rfl
@[simp] theorem moveJob_dests (j : JobNo) (f : Job → Job) : (s.moveJob j f).dests = s.dests := rfl
@[simp] theorem moveJob_plan (j : JobNo) (f : Job → Job) : (s.moveJob j f).plan = s.plan := rfl
@[simp] theorem moveJob_manifest (j : JobNo) (f : Job → Job) : (s.moveJob j f).manifest = s.manifest := rfl
@[simp] theorem moveJob_faults (j : JobNo) (f : Job → Job) : (s.moveJob j f).faults = s.faults := rfl
@[simp] theorem moveJob_lines (j : JobNo) (f : Job → Job) : (s.moveJob j f).lines = s.lines := rfl
@[simp] theorem moveJob_pending (j : JobNo) (f : Job → Job) : (s.moveJob j f).pending = s.pending := rfl

/-! ### movePort -/

@[simp] theorem movePort_jobs (p : PortNo) (f : CardPort → CardPort) : (s.movePort p f).jobs = s.jobs := rfl
@[simp] theorem movePort_clips (p : PortNo) (f : CardPort → CardPort) : (s.movePort p f).clips = s.clips := rfl
@[simp] theorem movePort_ring (p : PortNo) (f : CardPort → CardPort) : (s.movePort p f).ring = s.ring := rfl
@[simp] theorem movePort_dests (p : PortNo) (f : CardPort → CardPort) : (s.movePort p f).dests = s.dests := rfl
@[simp] theorem movePort_plan (p : PortNo) (f : CardPort → CardPort) : (s.movePort p f).plan = s.plan := rfl
@[simp] theorem movePort_manifest (p : PortNo) (f : CardPort → CardPort) : (s.movePort p f).manifest = s.manifest := rfl
@[simp] theorem movePort_faults (p : PortNo) (f : CardPort → CardPort) : (s.movePort p f).faults = s.faults := rfl
@[simp] theorem movePort_lines (p : PortNo) (f : CardPort → CardPort) : (s.movePort p f).lines = s.lines := rfl
@[simp] theorem movePort_pending (p : PortNo) (f : CardPort → CardPort) : (s.movePort p f).pending = s.pending := rfl

/-! ### moveDest -/

@[simp] theorem moveDest_ports (d : DestNo) (f : DestPort → DestPort) : (s.moveDest d f).ports = s.ports := rfl
@[simp] theorem moveDest_jobs (d : DestNo) (f : DestPort → DestPort) : (s.moveDest d f).jobs = s.jobs := rfl
@[simp] theorem moveDest_clips (d : DestNo) (f : DestPort → DestPort) : (s.moveDest d f).clips = s.clips := rfl
@[simp] theorem moveDest_ring (d : DestNo) (f : DestPort → DestPort) : (s.moveDest d f).ring = s.ring := rfl
@[simp] theorem moveDest_plan (d : DestNo) (f : DestPort → DestPort) : (s.moveDest d f).plan = s.plan := rfl
@[simp] theorem moveDest_manifest (d : DestNo) (f : DestPort → DestPort) : (s.moveDest d f).manifest = s.manifest := rfl
@[simp] theorem moveDest_faults (d : DestNo) (f : DestPort → DestPort) : (s.moveDest d f).faults = s.faults := rfl
@[simp] theorem moveDest_lines (d : DestNo) (f : DestPort → DestPort) : (s.moveDest d f).lines = s.lines := rfl
@[simp] theorem moveDest_pending (d : DestNo) (f : DestPort → DestPort) : (s.moveDest d f).pending = s.pending := rfl

/-! ### leaveWait -/

@[simp] theorem leaveWait_ports (r : Requester) : (s.leaveWait r).ports = s.ports := rfl
@[simp] theorem leaveWait_jobs (r : Requester) : (s.leaveWait r).jobs = s.jobs := rfl
@[simp] theorem leaveWait_clips (r : Requester) : (s.leaveWait r).clips = s.clips := rfl
@[simp] theorem leaveWait_dests (r : Requester) : (s.leaveWait r).dests = s.dests := rfl
@[simp] theorem leaveWait_plan (r : Requester) : (s.leaveWait r).plan = s.plan := rfl
@[simp] theorem leaveWait_manifest (r : Requester) : (s.leaveWait r).manifest = s.manifest := rfl
@[simp] theorem leaveWait_faults (r : Requester) : (s.leaveWait r).faults = s.faults := rfl
@[simp] theorem leaveWait_link (r : Requester) : (s.leaveWait r).link = s.link := rfl
@[simp] theorem leaveWait_lines (r : Requester) : (s.leaveWait r).lines = s.lines := rfl
@[simp] theorem leaveWait_pending (r : Requester) : (s.leaveWait r).pending = s.pending := rfl

/-! ### leavePending -/

@[simp] theorem leavePending_ports (c : Nat) (d : DestNo) : (s.leavePending c d).ports = s.ports := rfl
@[simp] theorem leavePending_jobs (c : Nat) (d : DestNo) : (s.leavePending c d).jobs = s.jobs := rfl
@[simp] theorem leavePending_clips (c : Nat) (d : DestNo) : (s.leavePending c d).clips = s.clips := rfl
@[simp] theorem leavePending_dests (c : Nat) (d : DestNo) : (s.leavePending c d).dests = s.dests := rfl
@[simp] theorem leavePending_plan (c : Nat) (d : DestNo) : (s.leavePending c d).plan = s.plan := rfl
@[simp] theorem leavePending_manifest (c : Nat) (d : DestNo) : (s.leavePending c d).manifest = s.manifest := rfl
@[simp] theorem leavePending_faults (c : Nat) (d : DestNo) : (s.leavePending c d).faults = s.faults := rfl
@[simp] theorem leavePending_link (c : Nat) (d : DestNo) : (s.leavePending c d).link = s.link := rfl
@[simp] theorem leavePending_lines (c : Nat) (d : DestNo) : (s.leavePending c d).lines = s.lines := rfl
@[simp] theorem leavePending_pending (c : Nat) (d : DestNo) : (s.leavePending c d).pending = s.pending := rfl

/-! ### standAt -/

@[simp] theorem standAt_ports (j : JobNo) (i : Nat) : (s.standAt j i).ports = s.ports := rfl
@[simp] theorem standAt_clips (j : JobNo) (i : Nat) : (s.standAt j i).clips = s.clips := rfl
@[simp] theorem standAt_ring (j : JobNo) (i : Nat) : (s.standAt j i).ring = s.ring := rfl
@[simp] theorem standAt_dests (j : JobNo) (i : Nat) : (s.standAt j i).dests = s.dests := rfl
@[simp] theorem standAt_plan (j : JobNo) (i : Nat) : (s.standAt j i).plan = s.plan := rfl
@[simp] theorem standAt_manifest (j : JobNo) (i : Nat) : (s.standAt j i).manifest = s.manifest := rfl
@[simp] theorem standAt_faults (j : JobNo) (i : Nat) : (s.standAt j i).faults = s.faults := rfl
@[simp] theorem standAt_link (j : JobNo) (i : Nat) : (s.standAt j i).link = s.link := rfl
@[simp] theorem standAt_lines (j : JobNo) (i : Nat) : (s.standAt j i).lines = s.lines := rfl
@[simp] theorem standAt_pending (j : JobNo) (i : Nat) : (s.standAt j i).pending = s.pending := rfl

/-! ### standAtFirst -/

@[simp] theorem standAtFirst_ports (j : JobNo) : (s.standAtFirst j).ports = s.ports := rfl
@[simp] theorem standAtFirst_clips (j : JobNo) : (s.standAtFirst j).clips = s.clips := rfl
@[simp] theorem standAtFirst_ring (j : JobNo) : (s.standAtFirst j).ring = s.ring := rfl
@[simp] theorem standAtFirst_dests (j : JobNo) : (s.standAtFirst j).dests = s.dests := rfl
@[simp] theorem standAtFirst_plan (j : JobNo) : (s.standAtFirst j).plan = s.plan := rfl
@[simp] theorem standAtFirst_manifest (j : JobNo) : (s.standAtFirst j).manifest = s.manifest := rfl
@[simp] theorem standAtFirst_faults (j : JobNo) : (s.standAtFirst j).faults = s.faults := rfl
@[simp] theorem standAtFirst_link (j : JobNo) : (s.standAtFirst j).link = s.link := rfl
@[simp] theorem standAtFirst_lines (j : JobNo) : (s.standAtFirst j).lines = s.lines := rfl
@[simp] theorem standAtFirst_pending (j : JobNo) : (s.standAtFirst j).pending = s.pending := rfl

/-! ### queuePieces -/

@[simp] theorem queuePieces_jobs (p : PortNo) (w : ReaderWork) (l : List (Nat × Nat)) : (s.queuePieces p w l).jobs = s.jobs := rfl
@[simp] theorem queuePieces_clips (p : PortNo) (w : ReaderWork) (l : List (Nat × Nat)) : (s.queuePieces p w l).clips = s.clips := rfl
@[simp] theorem queuePieces_ring (p : PortNo) (w : ReaderWork) (l : List (Nat × Nat)) : (s.queuePieces p w l).ring = s.ring := rfl
@[simp] theorem queuePieces_dests (p : PortNo) (w : ReaderWork) (l : List (Nat × Nat)) : (s.queuePieces p w l).dests = s.dests := rfl
@[simp] theorem queuePieces_plan (p : PortNo) (w : ReaderWork) (l : List (Nat × Nat)) : (s.queuePieces p w l).plan = s.plan := rfl
@[simp] theorem queuePieces_manifest (p : PortNo) (w : ReaderWork) (l : List (Nat × Nat)) : (s.queuePieces p w l).manifest = s.manifest := rfl
@[simp] theorem queuePieces_faults (p : PortNo) (w : ReaderWork) (l : List (Nat × Nat)) : (s.queuePieces p w l).faults = s.faults := rfl
@[simp] theorem queuePieces_link (p : PortNo) (w : ReaderWork) (l : List (Nat × Nat)) : (s.queuePieces p w l).link = s.link := rfl
@[simp] theorem queuePieces_lines (p : PortNo) (w : ReaderWork) (l : List (Nat × Nat)) : (s.queuePieces p w l).lines = s.lines := rfl
@[simp] theorem queuePieces_pending (p : PortNo) (w : ReaderWork) (l : List (Nat × Nat)) : (s.queuePieces p w l).pending = s.pending := rfl

/-! ### issueRead -/

@[simp] theorem issueRead_jobs (p : PortNo) (r : ReaderRequest) : (s.issueRead p r).jobs = s.jobs := rfl
@[simp] theorem issueRead_clips (p : PortNo) (r : ReaderRequest) : (s.issueRead p r).clips = s.clips := rfl
@[simp] theorem issueRead_ring (p : PortNo) (r : ReaderRequest) : (s.issueRead p r).ring = s.ring := rfl
@[simp] theorem issueRead_dests (p : PortNo) (r : ReaderRequest) : (s.issueRead p r).dests = s.dests := rfl
@[simp] theorem issueRead_plan (p : PortNo) (r : ReaderRequest) : (s.issueRead p r).plan = s.plan := rfl
@[simp] theorem issueRead_manifest (p : PortNo) (r : ReaderRequest) : (s.issueRead p r).manifest = s.manifest := rfl
@[simp] theorem issueRead_faults (p : PortNo) (r : ReaderRequest) : (s.issueRead p r).faults = s.faults := rfl
@[simp] theorem issueRead_link (p : PortNo) (r : ReaderRequest) : (s.issueRead p r).link = s.link := rfl
@[simp] theorem issueRead_pending (p : PortNo) (r : ReaderRequest) : (s.issueRead p r).pending = s.pending := rfl

/-! ### issueDrive -/

@[simp] theorem issueDrive_ports (d : DestNo) (r : DriveRequest) : (s.issueDrive d r).ports = s.ports := rfl
@[simp] theorem issueDrive_jobs (d : DestNo) (r : DriveRequest) : (s.issueDrive d r).jobs = s.jobs := rfl
@[simp] theorem issueDrive_clips (d : DestNo) (r : DriveRequest) : (s.issueDrive d r).clips = s.clips := rfl
@[simp] theorem issueDrive_ring (d : DestNo) (r : DriveRequest) : (s.issueDrive d r).ring = s.ring := rfl
@[simp] theorem issueDrive_plan (d : DestNo) (r : DriveRequest) : (s.issueDrive d r).plan = s.plan := rfl
@[simp] theorem issueDrive_manifest (d : DestNo) (r : DriveRequest) : (s.issueDrive d r).manifest = s.manifest := rfl
@[simp] theorem issueDrive_faults (d : DestNo) (r : DriveRequest) : (s.issueDrive d r).faults = s.faults := rfl
@[simp] theorem issueDrive_link (d : DestNo) (r : DriveRequest) : (s.issueDrive d r).link = s.link := rfl
@[simp] theorem issueDrive_pending (d : DestNo) (r : DriveRequest) : (s.issueDrive d r).pending = s.pending := rfl

/-! ### withdrawReads -/

@[simp] theorem withdrawReads_jobs (g : ReaderWork → Bool) (p : PortNo) : (s.withdrawReads g p).jobs = s.jobs := rfl
@[simp] theorem withdrawReads_clips (g : ReaderWork → Bool) (p : PortNo) : (s.withdrawReads g p).clips = s.clips := rfl
@[simp] theorem withdrawReads_ring (g : ReaderWork → Bool) (p : PortNo) : (s.withdrawReads g p).ring = s.ring := rfl
@[simp] theorem withdrawReads_dests (g : ReaderWork → Bool) (p : PortNo) : (s.withdrawReads g p).dests = s.dests := rfl
@[simp] theorem withdrawReads_plan (g : ReaderWork → Bool) (p : PortNo) : (s.withdrawReads g p).plan = s.plan := rfl
@[simp] theorem withdrawReads_manifest (g : ReaderWork → Bool) (p : PortNo) : (s.withdrawReads g p).manifest = s.manifest := rfl
@[simp] theorem withdrawReads_faults (g : ReaderWork → Bool) (p : PortNo) : (s.withdrawReads g p).faults = s.faults := rfl
@[simp] theorem withdrawReads_link (g : ReaderWork → Bool) (p : PortNo) : (s.withdrawReads g p).link = s.link := rfl
@[simp] theorem withdrawReads_lines (g : ReaderWork → Bool) (p : PortNo) : (s.withdrawReads g p).lines = s.lines := rfl
@[simp] theorem withdrawReads_pending (g : ReaderWork → Bool) (p : PortNo) : (s.withdrawReads g p).pending = s.pending := rfl

/-! ### restartReader -/

@[simp] theorem restartReader_ports (p : PortNo) : (s.restartReader p).ports = s.ports := rfl
@[simp] theorem restartReader_jobs (p : PortNo) : (s.restartReader p).jobs = s.jobs := rfl
@[simp] theorem restartReader_clips (p : PortNo) : (s.restartReader p).clips = s.clips := rfl
@[simp] theorem restartReader_ring (p : PortNo) : (s.restartReader p).ring = s.ring := rfl
@[simp] theorem restartReader_dests (p : PortNo) : (s.restartReader p).dests = s.dests := rfl
@[simp] theorem restartReader_plan (p : PortNo) : (s.restartReader p).plan = s.plan := rfl
@[simp] theorem restartReader_manifest (p : PortNo) : (s.restartReader p).manifest = s.manifest := rfl
@[simp] theorem restartReader_faults (p : PortNo) : (s.restartReader p).faults = s.faults := rfl
@[simp] theorem restartReader_link (p : PortNo) : (s.restartReader p).link = s.link := rfl
@[simp] theorem restartReader_pending (p : PortNo) : (s.restartReader p).pending = s.pending := rfl

/-! ### restartDrive -/

@[simp] theorem restartDrive_ports (d : DestNo) : (s.restartDrive d).ports = s.ports := rfl
@[simp] theorem restartDrive_jobs (d : DestNo) : (s.restartDrive d).jobs = s.jobs := rfl
@[simp] theorem restartDrive_clips (d : DestNo) : (s.restartDrive d).clips = s.clips := rfl
@[simp] theorem restartDrive_ring (d : DestNo) : (s.restartDrive d).ring = s.ring := rfl
@[simp] theorem restartDrive_dests (d : DestNo) : (s.restartDrive d).dests = s.dests := rfl
@[simp] theorem restartDrive_plan (d : DestNo) : (s.restartDrive d).plan = s.plan := rfl
@[simp] theorem restartDrive_manifest (d : DestNo) : (s.restartDrive d).manifest = s.manifest := rfl
@[simp] theorem restartDrive_faults (d : DestNo) : (s.restartDrive d).faults = s.faults := rfl
@[simp] theorem restartDrive_link (d : DestNo) : (s.restartDrive d).link = s.link := rfl
@[simp] theorem restartDrive_pending (d : DestNo) : (s.restartDrive d).pending = s.pending := rfl

/-! ### queueItem -/

@[simp] theorem queueItem_ports (d : DestNo) (w : Writer) (i : Item) : (s.queueItem d w i).ports = s.ports := rfl
@[simp] theorem queueItem_jobs (d : DestNo) (w : Writer) (i : Item) : (s.queueItem d w i).jobs = s.jobs := rfl
@[simp] theorem queueItem_clips (d : DestNo) (w : Writer) (i : Item) : (s.queueItem d w i).clips = s.clips := rfl
@[simp] theorem queueItem_ring (d : DestNo) (w : Writer) (i : Item) : (s.queueItem d w i).ring = s.ring := rfl
@[simp] theorem queueItem_plan (d : DestNo) (w : Writer) (i : Item) : (s.queueItem d w i).plan = s.plan := rfl
@[simp] theorem queueItem_manifest (d : DestNo) (w : Writer) (i : Item) : (s.queueItem d w i).manifest = s.manifest := rfl
@[simp] theorem queueItem_faults (d : DestNo) (w : Writer) (i : Item) : (s.queueItem d w i).faults = s.faults := rfl
@[simp] theorem queueItem_link (d : DestNo) (w : Writer) (i : Item) : (s.queueItem d w i).link = s.link := rfl
@[simp] theorem queueItem_lines (d : DestNo) (w : Writer) (i : Item) : (s.queueItem d w i).lines = s.lines := rfl
@[simp] theorem queueItem_pending (d : DestNo) (w : Writer) (i : Item) : (s.queueItem d w i).pending = s.pending := rfl

/-! ### resetArbiter -/

@[simp] theorem resetArbiter_ports (d : DestNo) : (s.resetArbiter d).ports = s.ports := rfl
@[simp] theorem resetArbiter_jobs (d : DestNo) : (s.resetArbiter d).jobs = s.jobs := rfl
@[simp] theorem resetArbiter_clips (d : DestNo) : (s.resetArbiter d).clips = s.clips := rfl
@[simp] theorem resetArbiter_ring (d : DestNo) : (s.resetArbiter d).ring = s.ring := rfl
@[simp] theorem resetArbiter_plan (d : DestNo) : (s.resetArbiter d).plan = s.plan := rfl
@[simp] theorem resetArbiter_manifest (d : DestNo) : (s.resetArbiter d).manifest = s.manifest := rfl
@[simp] theorem resetArbiter_faults (d : DestNo) : (s.resetArbiter d).faults = s.faults := rfl
@[simp] theorem resetArbiter_link (d : DestNo) : (s.resetArbiter d).link = s.link := rfl
@[simp] theorem resetArbiter_lines (d : DestNo) : (s.resetArbiter d).lines = s.lines := rfl
@[simp] theorem resetArbiter_pending (d : DestNo) : (s.resetArbiter d).pending = s.pending := rfl

/-! ### setActive -/

@[simp] theorem setActive_ports (e : DestNo) (a : Option ActiveRead) : (s.setActive e a).ports = s.ports := rfl
@[simp] theorem setActive_jobs (e : DestNo) (a : Option ActiveRead) : (s.setActive e a).jobs = s.jobs := rfl
@[simp] theorem setActive_clips (e : DestNo) (a : Option ActiveRead) : (s.setActive e a).clips = s.clips := rfl
@[simp] theorem setActive_ring (e : DestNo) (a : Option ActiveRead) : (s.setActive e a).ring = s.ring := rfl
@[simp] theorem setActive_plan (e : DestNo) (a : Option ActiveRead) : (s.setActive e a).plan = s.plan := rfl
@[simp] theorem setActive_manifest (e : DestNo) (a : Option ActiveRead) : (s.setActive e a).manifest = s.manifest := rfl
@[simp] theorem setActive_faults (e : DestNo) (a : Option ActiveRead) : (s.setActive e a).faults = s.faults := rfl
@[simp] theorem setActive_link (e : DestNo) (a : Option ActiveRead) : (s.setActive e a).link = s.link := rfl
@[simp] theorem setActive_lines (e : DestNo) (a : Option ActiveRead) : (s.setActive e a).lines = s.lines := rfl
@[simp] theorem setActive_pending (e : DestNo) (a : Option ActiveRead) : (s.setActive e a).pending = s.pending := rfl

/-! ### leaveQueues -/

@[simp] theorem leaveQueues_ports (c : Nat) (d : DestNo) : (s.leaveQueues c d).ports = s.ports := rfl
@[simp] theorem leaveQueues_jobs (c : Nat) (d : DestNo) : (s.leaveQueues c d).jobs = s.jobs := rfl
@[simp] theorem leaveQueues_clips (c : Nat) (d : DestNo) : (s.leaveQueues c d).clips = s.clips := rfl
@[simp] theorem leaveQueues_ring (c : Nat) (d : DestNo) : (s.leaveQueues c d).ring = s.ring := rfl
@[simp] theorem leaveQueues_plan (c : Nat) (d : DestNo) : (s.leaveQueues c d).plan = s.plan := rfl
@[simp] theorem leaveQueues_manifest (c : Nat) (d : DestNo) : (s.leaveQueues c d).manifest = s.manifest := rfl
@[simp] theorem leaveQueues_faults (c : Nat) (d : DestNo) : (s.leaveQueues c d).faults = s.faults := rfl
@[simp] theorem leaveQueues_link (c : Nat) (d : DestNo) : (s.leaveQueues c d).link = s.link := rfl
@[simp] theorem leaveQueues_lines (c : Nat) (d : DestNo) : (s.leaveQueues c d).lines = s.lines := rfl
@[simp] theorem leaveQueues_pending (c : Nat) (d : DestNo) : (s.leaveQueues c d).pending = s.pending := rfl

/-! ### joinLane -/

@[simp] theorem joinLane_ports (c : Nat) (d : DestNo) : (s.joinLane c d).ports = s.ports := rfl
@[simp] theorem joinLane_jobs (c : Nat) (d : DestNo) : (s.joinLane c d).jobs = s.jobs := rfl
@[simp] theorem joinLane_clips (c : Nat) (d : DestNo) : (s.joinLane c d).clips = s.clips := rfl
@[simp] theorem joinLane_ring (c : Nat) (d : DestNo) : (s.joinLane c d).ring = s.ring := rfl
@[simp] theorem joinLane_plan (c : Nat) (d : DestNo) : (s.joinLane c d).plan = s.plan := rfl
@[simp] theorem joinLane_manifest (c : Nat) (d : DestNo) : (s.joinLane c d).manifest = s.manifest := rfl
@[simp] theorem joinLane_faults (c : Nat) (d : DestNo) : (s.joinLane c d).faults = s.faults := rfl
@[simp] theorem joinLane_link (c : Nat) (d : DestNo) : (s.joinLane c d).link = s.link := rfl
@[simp] theorem joinLane_lines (c : Nat) (d : DestNo) : (s.joinLane c d).lines = s.lines := rfl
@[simp] theorem joinLane_pending (c : Nat) (d : DestNo) : (s.joinLane c d).pending = s.pending := rfl

/-! ### modClip -/

@[simp] theorem modClip_ports (c : Nat) (f : Clip → Clip) : (s.modClip c f).ports = s.ports := by unfold modClip; split <;> rfl
@[simp] theorem modClip_jobs (c : Nat) (f : Clip → Clip) : (s.modClip c f).jobs = s.jobs := by unfold modClip; split <;> rfl
@[simp] theorem modClip_ring (c : Nat) (f : Clip → Clip) : (s.modClip c f).ring = s.ring := by unfold modClip; split <;> rfl
@[simp] theorem modClip_dests (c : Nat) (f : Clip → Clip) : (s.modClip c f).dests = s.dests := by unfold modClip; split <;> rfl
@[simp] theorem modClip_plan (c : Nat) (f : Clip → Clip) : (s.modClip c f).plan = s.plan := by unfold modClip; split <;> rfl
@[simp] theorem modClip_manifest (c : Nat) (f : Clip → Clip) : (s.modClip c f).manifest = s.manifest := by unfold modClip; split <;> rfl
@[simp] theorem modClip_faults (c : Nat) (f : Clip → Clip) : (s.modClip c f).faults = s.faults := by unfold modClip; split <;> rfl
@[simp] theorem modClip_link (c : Nat) (f : Clip → Clip) : (s.modClip c f).link = s.link := by unfold modClip; split <;> rfl
@[simp] theorem modClip_lines (c : Nat) (f : Clip → Clip) : (s.modClip c f).lines = s.lines := by unfold modClip; split <;> rfl
@[simp] theorem modClip_pending (c : Nat) (f : Clip → Clip) : (s.modClip c f).pending = s.pending := by unfold modClip; split <;> rfl

/-! ### setCopy -/

@[simp] theorem setCopy_ports (c : Nat) (d : DestNo) (k : Copy) : (s.setCopy c d k).ports = s.ports := modClip_ports s _ _
@[simp] theorem setCopy_jobs (c : Nat) (d : DestNo) (k : Copy) : (s.setCopy c d k).jobs = s.jobs := modClip_jobs s _ _
@[simp] theorem setCopy_ring (c : Nat) (d : DestNo) (k : Copy) : (s.setCopy c d k).ring = s.ring := modClip_ring s _ _
@[simp] theorem setCopy_dests (c : Nat) (d : DestNo) (k : Copy) : (s.setCopy c d k).dests = s.dests := modClip_dests s _ _
@[simp] theorem setCopy_plan (c : Nat) (d : DestNo) (k : Copy) : (s.setCopy c d k).plan = s.plan := modClip_plan s _ _
@[simp] theorem setCopy_manifest (c : Nat) (d : DestNo) (k : Copy) : (s.setCopy c d k).manifest = s.manifest := modClip_manifest s _ _
@[simp] theorem setCopy_faults (c : Nat) (d : DestNo) (k : Copy) : (s.setCopy c d k).faults = s.faults := modClip_faults s _ _
@[simp] theorem setCopy_link (c : Nat) (d : DestNo) (k : Copy) : (s.setCopy c d k).link = s.link := modClip_link s _ _
@[simp] theorem setCopy_lines (c : Nat) (d : DestNo) (k : Copy) : (s.setCopy c d k).lines = s.lines := modClip_lines s _ _
@[simp] theorem setCopy_pending (c : Nat) (d : DestNo) (k : Copy) : (s.setCopy c d k).pending = s.pending := modClip_pending s _ _

/-! ### modCopy -/

@[simp] theorem modCopy_ports (c : Nat) (d : DestNo) (f : Copy → Copy) : (s.modCopy c d f).ports = s.ports := by unfold modCopy; split <;> simp [setCopy]
@[simp] theorem modCopy_jobs (c : Nat) (d : DestNo) (f : Copy → Copy) : (s.modCopy c d f).jobs = s.jobs := by unfold modCopy; split <;> simp [setCopy]
@[simp] theorem modCopy_ring (c : Nat) (d : DestNo) (f : Copy → Copy) : (s.modCopy c d f).ring = s.ring := by unfold modCopy; split <;> simp [setCopy]
@[simp] theorem modCopy_dests (c : Nat) (d : DestNo) (f : Copy → Copy) : (s.modCopy c d f).dests = s.dests := by unfold modCopy; split <;> simp [setCopy]
@[simp] theorem modCopy_plan (c : Nat) (d : DestNo) (f : Copy → Copy) : (s.modCopy c d f).plan = s.plan := by unfold modCopy; split <;> simp [setCopy]
@[simp] theorem modCopy_manifest (c : Nat) (d : DestNo) (f : Copy → Copy) : (s.modCopy c d f).manifest = s.manifest := by unfold modCopy; split <;> simp [setCopy]
@[simp] theorem modCopy_faults (c : Nat) (d : DestNo) (f : Copy → Copy) : (s.modCopy c d f).faults = s.faults := by unfold modCopy; split <;> simp [setCopy]
@[simp] theorem modCopy_link (c : Nat) (d : DestNo) (f : Copy → Copy) : (s.modCopy c d f).link = s.link := by unfold modCopy; split <;> simp [setCopy]
@[simp] theorem modCopy_lines (c : Nat) (d : DestNo) (f : Copy → Copy) : (s.modCopy c d f).lines = s.lines := by unfold modCopy; split <;> simp [setCopy]
@[simp] theorem modCopy_pending (c : Nat) (d : DestNo) (f : Copy → Copy) : (s.modCopy c d f).pending = s.pending := by unfold modCopy; split <;> simp [setCopy]

/-! ### modSlot -/

@[simp] theorem modSlot_ports (n : Nat) (f : Slot → Slot) : (s.modSlot n f).ports = s.ports := by unfold modSlot; split <;> rfl
@[simp] theorem modSlot_jobs (n : Nat) (f : Slot → Slot) : (s.modSlot n f).jobs = s.jobs := by unfold modSlot; split <;> rfl
@[simp] theorem modSlot_clips (n : Nat) (f : Slot → Slot) : (s.modSlot n f).clips = s.clips := by unfold modSlot; split <;> rfl
@[simp] theorem modSlot_dests (n : Nat) (f : Slot → Slot) : (s.modSlot n f).dests = s.dests := by unfold modSlot; split <;> rfl
@[simp] theorem modSlot_plan (n : Nat) (f : Slot → Slot) : (s.modSlot n f).plan = s.plan := by unfold modSlot; split <;> rfl
@[simp] theorem modSlot_manifest (n : Nat) (f : Slot → Slot) : (s.modSlot n f).manifest = s.manifest := by unfold modSlot; split <;> rfl
@[simp] theorem modSlot_faults (n : Nat) (f : Slot → Slot) : (s.modSlot n f).faults = s.faults := by unfold modSlot; split <;> rfl
@[simp] theorem modSlot_link (n : Nat) (f : Slot → Slot) : (s.modSlot n f).link = s.link := by unfold modSlot; split <;> rfl
@[simp] theorem modSlot_lines (n : Nat) (f : Slot → Slot) : (s.modSlot n f).lines = s.lines := by unfold modSlot; split <;> rfl
@[simp] theorem modSlot_pending (n : Nat) (f : Slot → Slot) : (s.modSlot n f).pending = s.pending := by unfold modSlot; split <;> rfl

/-! ### stageSlot -/

@[simp] theorem stageSlot_ports (n : Nat) (ds : List DestNo) : (s.stageSlot n ds).ports = s.ports := modSlot_ports s _ _
@[simp] theorem stageSlot_jobs (n : Nat) (ds : List DestNo) : (s.stageSlot n ds).jobs = s.jobs := modSlot_jobs s _ _
@[simp] theorem stageSlot_clips (n : Nat) (ds : List DestNo) : (s.stageSlot n ds).clips = s.clips := modSlot_clips s _ _
@[simp] theorem stageSlot_dests (n : Nat) (ds : List DestNo) : (s.stageSlot n ds).dests = s.dests := modSlot_dests s _ _
@[simp] theorem stageSlot_plan (n : Nat) (ds : List DestNo) : (s.stageSlot n ds).plan = s.plan := modSlot_plan s _ _
@[simp] theorem stageSlot_manifest (n : Nat) (ds : List DestNo) : (s.stageSlot n ds).manifest = s.manifest := modSlot_manifest s _ _
@[simp] theorem stageSlot_faults (n : Nat) (ds : List DestNo) : (s.stageSlot n ds).faults = s.faults := modSlot_faults s _ _
@[simp] theorem stageSlot_link (n : Nat) (ds : List DestNo) : (s.stageSlot n ds).link = s.link := modSlot_link s _ _
@[simp] theorem stageSlot_lines (n : Nat) (ds : List DestNo) : (s.stageSlot n ds).lines = s.lines := modSlot_lines s _ _
@[simp] theorem stageSlot_pending (n : Nat) (ds : List DestNo) : (s.stageSlot n ds).pending = s.pending := modSlot_pending s _ _

/-! ### joinWait -/

@[simp] theorem joinWait_ports (r : Requester) : (s.joinWait r).ports = s.ports := by unfold joinWait; split <;> rfl
@[simp] theorem joinWait_jobs (r : Requester) : (s.joinWait r).jobs = s.jobs := by unfold joinWait; split <;> rfl
@[simp] theorem joinWait_clips (r : Requester) : (s.joinWait r).clips = s.clips := by unfold joinWait; split <;> rfl
@[simp] theorem joinWait_dests (r : Requester) : (s.joinWait r).dests = s.dests := by unfold joinWait; split <;> rfl
@[simp] theorem joinWait_plan (r : Requester) : (s.joinWait r).plan = s.plan := by unfold joinWait; split <;> rfl
@[simp] theorem joinWait_manifest (r : Requester) : (s.joinWait r).manifest = s.manifest := by unfold joinWait; split <;> rfl
@[simp] theorem joinWait_faults (r : Requester) : (s.joinWait r).faults = s.faults := by unfold joinWait; split <;> rfl
@[simp] theorem joinWait_link (r : Requester) : (s.joinWait r).link = s.link := by unfold joinWait; split <;> rfl
@[simp] theorem joinWait_lines (r : Requester) : (s.joinWait r).lines = s.lines := by unfold joinWait; split <;> rfl
@[simp] theorem joinWait_pending (r : Requester) : (s.joinWait r).pending = s.pending := by unfold joinWait; split <;> rfl

/-! ### modHeld -/

@[simp] theorem modHeld_ports (r : Requester) (f : Nat → Nat) : (s.modHeld r f).ports = s.ports := by cases r <;> rfl
@[simp] theorem modHeld_clips (r : Requester) (f : Nat → Nat) : (s.modHeld r f).clips = s.clips := by cases r <;> rfl
@[simp] theorem modHeld_ring (r : Requester) (f : Nat → Nat) : (s.modHeld r f).ring = s.ring := by cases r <;> rfl
@[simp] theorem modHeld_plan (r : Requester) (f : Nat → Nat) : (s.modHeld r f).plan = s.plan := by cases r <;> rfl
@[simp] theorem modHeld_manifest (r : Requester) (f : Nat → Nat) : (s.modHeld r f).manifest = s.manifest := by cases r <;> rfl
@[simp] theorem modHeld_faults (r : Requester) (f : Nat → Nat) : (s.modHeld r f).faults = s.faults := by cases r <;> rfl
@[simp] theorem modHeld_link (r : Requester) (f : Nat → Nat) : (s.modHeld r f).link = s.link := by cases r <;> rfl
@[simp] theorem modHeld_lines (r : Requester) (f : Nat → Nat) : (s.modHeld r f).lines = s.lines := by cases r <;> rfl
@[simp] theorem modHeld_pending (r : Requester) (f : Nat → Nat) : (s.modHeld r f).pending = s.pending := by cases r <;> rfl

/-! ### leaveLane -/

@[simp] theorem leaveLane_ports (c : Nat) (d : DestNo) : (s.leaveLane c d).ports = s.ports := by simp only [leaveLane]; split <;> rfl
@[simp] theorem leaveLane_jobs (c : Nat) (d : DestNo) : (s.leaveLane c d).jobs = s.jobs := by simp only [leaveLane]; split <;> rfl
@[simp] theorem leaveLane_clips (c : Nat) (d : DestNo) : (s.leaveLane c d).clips = s.clips := by simp only [leaveLane]; split <;> rfl
@[simp] theorem leaveLane_plan (c : Nat) (d : DestNo) : (s.leaveLane c d).plan = s.plan := by simp only [leaveLane]; split <;> rfl
@[simp] theorem leaveLane_manifest (c : Nat) (d : DestNo) : (s.leaveLane c d).manifest = s.manifest := by simp only [leaveLane]; split <;> rfl
@[simp] theorem leaveLane_faults (c : Nat) (d : DestNo) : (s.leaveLane c d).faults = s.faults := by simp only [leaveLane]; split <;> rfl
@[simp] theorem leaveLane_link (c : Nat) (d : DestNo) : (s.leaveLane c d).link = s.link := by simp only [leaveLane]; split <;> rfl
@[simp] theorem leaveLane_lines (c : Nat) (d : DestNo) : (s.leaveLane c d).lines = s.lines := by simp only [leaveLane]; split <;> rfl
@[simp] theorem leaveLane_pending (c : Nat) (d : DestNo) : (s.leaveLane c d).pending = s.pending := by simp only [leaveLane]; split <;> rfl

/-! ### Lookups of the records written -/

@[simp] theorem port_setPort_self (p : PortNo) (x : CardPort) : (s.setPort p x).port p = x := by
  simp [port, setPort]

@[simp] theorem port_setPort_of_ne {p q : PortNo} (h : p ≠ q) (x : CardPort) : (s.setPort p x).port q = s.port q := by
  simp only [port, setPort, Fin.getElem_fin]
  exact Vector.getElem_set_ne _ _ (by simpa [Fin.ext_iff] using h)

@[simp] theorem port_modPort_self (p : PortNo) (f : CardPort → CardPort) : (s.modPort p f).port p = f (s.port p) :=
  port_setPort_self s p _

@[simp] theorem port_modPort_of_ne {p q : PortNo} (h : p ≠ q) (f : CardPort → CardPort) :
    (s.modPort p f).port q = s.port q := port_setPort_of_ne s h _

@[simp] theorem job_setJob_self (j : JobNo) (x : Job) : (s.setJob j x).job j = x := by simp [job, setJob]

@[simp] theorem job_setJob_of_ne {i j : JobNo} (h : i ≠ j) (x : Job) : (s.setJob i x).job j = s.job j := by
  simp only [job, setJob, Fin.getElem_fin]
  exact Vector.getElem_set_ne _ _ (by simpa [Fin.ext_iff] using h)

@[simp] theorem job_modJob_self (j : JobNo) (f : Job → Job) : (s.modJob j f).job j = f (s.job j) :=
  job_setJob_self s j _

@[simp] theorem job_modJob_of_ne {i j : JobNo} (h : i ≠ j) (f : Job → Job) : (s.modJob i f).job j = s.job j :=
  job_setJob_of_ne s h _

@[simp] theorem dest_setDest_self (d : DestNo) (x : DestPort) : (s.setDest d x).dest d = x := by simp [dest, setDest]

@[simp] theorem dest_setDest_of_ne {d e : DestNo} (h : d ≠ e) (x : DestPort) : (s.setDest d x).dest e = s.dest e := by
  simp only [dest, setDest, Fin.getElem_fin]
  exact Vector.getElem_set_ne _ _ (by simpa [Fin.ext_iff] using h)

@[simp] theorem dest_modDest_self (d : DestNo) (f : DestPort → DestPort) : (s.modDest d f).dest d = f (s.dest d) :=
  dest_setDest_self s d _

@[simp] theorem dest_modDest_of_ne {d e : DestNo} (h : d ≠ e) (f : DestPort → DestPort) :
    (s.modDest d f).dest e = s.dest e := dest_setDest_of_ne s h _

/-- A lookup reads only its own field. -/
theorem port_congr {s t : State} (h : t.ports = s.ports) (p : PortNo) : t.port p = s.port p := by simp [port, h]

theorem job_congr {s t : State} (h : t.jobs = s.jobs) (j : JobNo) : t.job j = s.job j := by simp [job, h]

theorem dest_congr {s t : State} (h : t.dests = s.dests) (d : DestNo) : t.dest d = s.dest d := by simp [dest, h]

theorem clip_congr {s t : State} (h : t.clips = s.clips) (c : Nat) : t.clip? c = s.clip? c := by simp [clip?, h]

theorem slot_congr {s t : State} (h : t.ring = s.ring) (n : Nat) : t.slot? n = s.slot? n := by simp [slot?, h]


/-! ### Lookups of the records an update leaves alone -/

@[simp] theorem job_setPort (p : PortNo) (x : CardPort) (jj : JobNo) : (s.setPort p x).job jj = s.job jj := rfl
@[simp] theorem dest_setPort (p : PortNo) (x : CardPort) (dd : DestNo) : (s.setPort p x).dest dd = s.dest dd := rfl
@[simp] theorem clip_setPort (p : PortNo) (x : CardPort) (cc : Nat) : (s.setPort p x).clip? cc = s.clip? cc := rfl
@[simp] theorem slot_setPort (p : PortNo) (x : CardPort) (nn : Nat) : (s.setPort p x).slot? nn = s.slot? nn := rfl
@[simp] theorem job_modPort (p : PortNo) (f : CardPort → CardPort) (jj : JobNo) : (s.modPort p f).job jj = s.job jj := rfl
@[simp] theorem dest_modPort (p : PortNo) (f : CardPort → CardPort) (dd : DestNo) : (s.modPort p f).dest dd = s.dest dd := rfl
@[simp] theorem clip_modPort (p : PortNo) (f : CardPort → CardPort) (cc : Nat) : (s.modPort p f).clip? cc = s.clip? cc := rfl
@[simp] theorem slot_modPort (p : PortNo) (f : CardPort → CardPort) (nn : Nat) : (s.modPort p f).slot? nn = s.slot? nn := rfl
@[simp] theorem port_setJob (j : JobNo) (x : Job) (qq : PortNo) : (s.setJob j x).port qq = s.port qq := rfl
@[simp] theorem dest_setJob (j : JobNo) (x : Job) (dd : DestNo) : (s.setJob j x).dest dd = s.dest dd := rfl
@[simp] theorem clip_setJob (j : JobNo) (x : Job) (cc : Nat) : (s.setJob j x).clip? cc = s.clip? cc := rfl
@[simp] theorem slot_setJob (j : JobNo) (x : Job) (nn : Nat) : (s.setJob j x).slot? nn = s.slot? nn := rfl
@[simp] theorem port_modJob (j : JobNo) (f : Job → Job) (qq : PortNo) : (s.modJob j f).port qq = s.port qq := rfl
@[simp] theorem dest_modJob (j : JobNo) (f : Job → Job) (dd : DestNo) : (s.modJob j f).dest dd = s.dest dd := rfl
@[simp] theorem clip_modJob (j : JobNo) (f : Job → Job) (cc : Nat) : (s.modJob j f).clip? cc = s.clip? cc := rfl
@[simp] theorem slot_modJob (j : JobNo) (f : Job → Job) (nn : Nat) : (s.modJob j f).slot? nn = s.slot? nn := rfl
@[simp] theorem port_setDest (d : DestNo) (x : DestPort) (qq : PortNo) : (s.setDest d x).port qq = s.port qq := rfl
@[simp] theorem job_setDest (d : DestNo) (x : DestPort) (jj : JobNo) : (s.setDest d x).job jj = s.job jj := rfl
@[simp] theorem clip_setDest (d : DestNo) (x : DestPort) (cc : Nat) : (s.setDest d x).clip? cc = s.clip? cc := rfl
@[simp] theorem slot_setDest (d : DestNo) (x : DestPort) (nn : Nat) : (s.setDest d x).slot? nn = s.slot? nn := rfl
@[simp] theorem port_modDest (d : DestNo) (f : DestPort → DestPort) (qq : PortNo) : (s.modDest d f).port qq = s.port qq := rfl
@[simp] theorem job_modDest (d : DestNo) (f : DestPort → DestPort) (jj : JobNo) : (s.modDest d f).job jj = s.job jj := rfl
@[simp] theorem clip_modDest (d : DestNo) (f : DestPort → DestPort) (cc : Nat) : (s.modDest d f).clip? cc = s.clip? cc := rfl
@[simp] theorem slot_modDest (d : DestNo) (f : DestPort → DestPort) (nn : Nat) : (s.modDest d f).slot? nn = s.slot? nn := rfl
@[simp] theorem port_modLane (d : DestNo) (f : Lane → Lane) (qq : PortNo) : (s.modLane d f).port qq = s.port qq := rfl
@[simp] theorem job_modLane (d : DestNo) (f : Lane → Lane) (jj : JobNo) : (s.modLane d f).job jj = s.job jj := rfl
@[simp] theorem clip_modLane (d : DestNo) (f : Lane → Lane) (cc : Nat) : (s.modLane d f).clip? cc = s.clip? cc := rfl
@[simp] theorem slot_modLane (d : DestNo) (f : Lane → Lane) (nn : Nat) : (s.modLane d f).slot? nn = s.slot? nn := rfl
@[simp] theorem port_setClip (c : Nat) (x : Clip) (qq : PortNo) : (s.setClip c x).port qq = s.port qq := rfl
@[simp] theorem job_setClip (c : Nat) (x : Clip) (jj : JobNo) : (s.setClip c x).job jj = s.job jj := rfl
@[simp] theorem dest_setClip (c : Nat) (x : Clip) (dd : DestNo) : (s.setClip c x).dest dd = s.dest dd := rfl
@[simp] theorem slot_setClip (c : Nat) (x : Clip) (nn : Nat) : (s.setClip c x).slot? nn = s.slot? nn := rfl
@[simp] theorem port_emitLine (o : LineOut) (qq : PortNo) : (s.emitLine o).port qq = s.port qq := rfl
@[simp] theorem job_emitLine (o : LineOut) (jj : JobNo) : (s.emitLine o).job jj = s.job jj := rfl
@[simp] theorem dest_emitLine (o : LineOut) (dd : DestNo) : (s.emitLine o).dest dd = s.dest dd := rfl
@[simp] theorem clip_emitLine (o : LineOut) (cc : Nat) : (s.emitLine o).clip? cc = s.clip? cc := rfl
@[simp] theorem slot_emitLine (o : LineOut) (nn : Nat) : (s.emitLine o).slot? nn = s.slot? nn := rfl
@[simp] theorem port_quiet (qq : PortNo) : (s.quiet).port qq = s.port qq := rfl
@[simp] theorem job_quiet (jj : JobNo) : (s.quiet).job jj = s.job jj := rfl
@[simp] theorem dest_quiet (dd : DestNo) : (s.quiet).dest dd = s.dest dd := rfl
@[simp] theorem clip_quiet (cc : Nat) : (s.quiet).clip? cc = s.clip? cc := rfl
@[simp] theorem slot_quiet (nn : Nat) : (s.quiet).slot? nn = s.slot? nn := rfl
@[simp] theorem port_notify (n : Notice) (qq : PortNo) : (s.notify n).port qq = s.port qq := rfl
@[simp] theorem job_notify (n : Notice) (jj : JobNo) : (s.notify n).job jj = s.job jj := rfl
@[simp] theorem dest_notify (n : Notice) (dd : DestNo) : (s.notify n).dest dd = s.dest dd := rfl
@[simp] theorem clip_notify (n : Notice) (cc : Nat) : (s.notify n).clip? cc = s.clip? cc := rfl
@[simp] theorem slot_notify (n : Notice) (nn : Nat) : (s.notify n).slot? nn = s.slot? nn := rfl
@[simp] theorem port_reply (e : EntryNo) (st : Status) (b : List Byte) (qq : PortNo) : (s.reply e st b).port qq = s.port qq := rfl
@[simp] theorem job_reply (e : EntryNo) (st : Status) (b : List Byte) (jj : JobNo) : (s.reply e st b).job jj = s.job jj := rfl
@[simp] theorem dest_reply (e : EntryNo) (st : Status) (b : List Byte) (dd : DestNo) : (s.reply e st b).dest dd = s.dest dd := rfl
@[simp] theorem clip_reply (e : EntryNo) (st : Status) (b : List Byte) (cc : Nat) : (s.reply e st b).clip? cc = s.clip? cc := rfl
@[simp] theorem slot_reply (e : EntryNo) (st : Status) (b : List Byte) (nn : Nat) : (s.reply e st b).slot? nn = s.slot? nn := rfl
@[simp] theorem port_moveJob (j : JobNo) (f : Job → Job) (qq : PortNo) : (s.moveJob j f).port qq = s.port qq := rfl
@[simp] theorem dest_moveJob (j : JobNo) (f : Job → Job) (dd : DestNo) : (s.moveJob j f).dest dd = s.dest dd := rfl
@[simp] theorem clip_moveJob (j : JobNo) (f : Job → Job) (cc : Nat) : (s.moveJob j f).clip? cc = s.clip? cc := rfl
@[simp] theorem slot_moveJob (j : JobNo) (f : Job → Job) (nn : Nat) : (s.moveJob j f).slot? nn = s.slot? nn := rfl
@[simp] theorem job_movePort (p : PortNo) (f : CardPort → CardPort) (jj : JobNo) : (s.movePort p f).job jj = s.job jj := rfl
@[simp] theorem dest_movePort (p : PortNo) (f : CardPort → CardPort) (dd : DestNo) : (s.movePort p f).dest dd = s.dest dd := rfl
@[simp] theorem clip_movePort (p : PortNo) (f : CardPort → CardPort) (cc : Nat) : (s.movePort p f).clip? cc = s.clip? cc := rfl
@[simp] theorem slot_movePort (p : PortNo) (f : CardPort → CardPort) (nn : Nat) : (s.movePort p f).slot? nn = s.slot? nn := rfl
@[simp] theorem port_moveDest (d : DestNo) (f : DestPort → DestPort) (qq : PortNo) : (s.moveDest d f).port qq = s.port qq := rfl
@[simp] theorem job_moveDest (d : DestNo) (f : DestPort → DestPort) (jj : JobNo) : (s.moveDest d f).job jj = s.job jj := rfl
@[simp] theorem clip_moveDest (d : DestNo) (f : DestPort → DestPort) (cc : Nat) : (s.moveDest d f).clip? cc = s.clip? cc := rfl
@[simp] theorem slot_moveDest (d : DestNo) (f : DestPort → DestPort) (nn : Nat) : (s.moveDest d f).slot? nn = s.slot? nn := rfl
@[simp] theorem port_leaveWait (r : Requester) (qq : PortNo) : (s.leaveWait r).port qq = s.port qq := rfl
@[simp] theorem job_leaveWait (r : Requester) (jj : JobNo) : (s.leaveWait r).job jj = s.job jj := rfl
@[simp] theorem dest_leaveWait (r : Requester) (dd : DestNo) : (s.leaveWait r).dest dd = s.dest dd := rfl
@[simp] theorem clip_leaveWait (r : Requester) (cc : Nat) : (s.leaveWait r).clip? cc = s.clip? cc := rfl
@[simp] theorem port_leavePending (c : Nat) (d : DestNo) (qq : PortNo) : (s.leavePending c d).port qq = s.port qq := rfl
@[simp] theorem job_leavePending (c : Nat) (d : DestNo) (jj : JobNo) : (s.leavePending c d).job jj = s.job jj := rfl
@[simp] theorem dest_leavePending (c : Nat) (d : DestNo) (dd : DestNo) : (s.leavePending c d).dest dd = s.dest dd := rfl
@[simp] theorem clip_leavePending (c : Nat) (d : DestNo) (cc : Nat) : (s.leavePending c d).clip? cc = s.clip? cc := rfl
@[simp] theorem port_standAt (j : JobNo) (i : Nat) (qq : PortNo) : (s.standAt j i).port qq = s.port qq := rfl
@[simp] theorem dest_standAt (j : JobNo) (i : Nat) (dd : DestNo) : (s.standAt j i).dest dd = s.dest dd := rfl
@[simp] theorem clip_standAt (j : JobNo) (i : Nat) (cc : Nat) : (s.standAt j i).clip? cc = s.clip? cc := rfl
@[simp] theorem slot_standAt (j : JobNo) (i : Nat) (nn : Nat) : (s.standAt j i).slot? nn = s.slot? nn := rfl
@[simp] theorem port_standAtFirst (j : JobNo) (qq : PortNo) : (s.standAtFirst j).port qq = s.port qq := rfl
@[simp] theorem dest_standAtFirst (j : JobNo) (dd : DestNo) : (s.standAtFirst j).dest dd = s.dest dd := rfl
@[simp] theorem clip_standAtFirst (j : JobNo) (cc : Nat) : (s.standAtFirst j).clip? cc = s.clip? cc := rfl
@[simp] theorem slot_standAtFirst (j : JobNo) (nn : Nat) : (s.standAtFirst j).slot? nn = s.slot? nn := rfl
@[simp] theorem job_queuePieces (p : PortNo) (w : ReaderWork) (l : List (Nat × Nat)) (jj : JobNo) : (s.queuePieces p w l).job jj = s.job jj := rfl
@[simp] theorem dest_queuePieces (p : PortNo) (w : ReaderWork) (l : List (Nat × Nat)) (dd : DestNo) : (s.queuePieces p w l).dest dd = s.dest dd := rfl
@[simp] theorem clip_queuePieces (p : PortNo) (w : ReaderWork) (l : List (Nat × Nat)) (cc : Nat) : (s.queuePieces p w l).clip? cc = s.clip? cc := rfl
@[simp] theorem slot_queuePieces (p : PortNo) (w : ReaderWork) (l : List (Nat × Nat)) (nn : Nat) : (s.queuePieces p w l).slot? nn = s.slot? nn := rfl
@[simp] theorem job_issueRead (p : PortNo) (r : ReaderRequest) (jj : JobNo) : (s.issueRead p r).job jj = s.job jj := rfl
@[simp] theorem dest_issueRead (p : PortNo) (r : ReaderRequest) (dd : DestNo) : (s.issueRead p r).dest dd = s.dest dd := rfl
@[simp] theorem clip_issueRead (p : PortNo) (r : ReaderRequest) (cc : Nat) : (s.issueRead p r).clip? cc = s.clip? cc := rfl
@[simp] theorem slot_issueRead (p : PortNo) (r : ReaderRequest) (nn : Nat) : (s.issueRead p r).slot? nn = s.slot? nn := rfl
@[simp] theorem port_issueDrive (d : DestNo) (r : DriveRequest) (qq : PortNo) : (s.issueDrive d r).port qq = s.port qq := rfl
@[simp] theorem job_issueDrive (d : DestNo) (r : DriveRequest) (jj : JobNo) : (s.issueDrive d r).job jj = s.job jj := rfl
@[simp] theorem clip_issueDrive (d : DestNo) (r : DriveRequest) (cc : Nat) : (s.issueDrive d r).clip? cc = s.clip? cc := rfl
@[simp] theorem slot_issueDrive (d : DestNo) (r : DriveRequest) (nn : Nat) : (s.issueDrive d r).slot? nn = s.slot? nn := rfl
@[simp] theorem job_withdrawReads (g : ReaderWork → Bool) (p : PortNo) (jj : JobNo) : (s.withdrawReads g p).job jj = s.job jj := rfl
@[simp] theorem dest_withdrawReads (g : ReaderWork → Bool) (p : PortNo) (dd : DestNo) : (s.withdrawReads g p).dest dd = s.dest dd := rfl
@[simp] theorem clip_withdrawReads (g : ReaderWork → Bool) (p : PortNo) (cc : Nat) : (s.withdrawReads g p).clip? cc = s.clip? cc := rfl
@[simp] theorem slot_withdrawReads (g : ReaderWork → Bool) (p : PortNo) (nn : Nat) : (s.withdrawReads g p).slot? nn = s.slot? nn := rfl
@[simp] theorem port_restartReader (p : PortNo) (qq : PortNo) : (s.restartReader p).port qq = s.port qq := rfl
@[simp] theorem job_restartReader (p : PortNo) (jj : JobNo) : (s.restartReader p).job jj = s.job jj := rfl
@[simp] theorem dest_restartReader (p : PortNo) (dd : DestNo) : (s.restartReader p).dest dd = s.dest dd := rfl
@[simp] theorem clip_restartReader (p : PortNo) (cc : Nat) : (s.restartReader p).clip? cc = s.clip? cc := rfl
@[simp] theorem slot_restartReader (p : PortNo) (nn : Nat) : (s.restartReader p).slot? nn = s.slot? nn := rfl
@[simp] theorem port_restartDrive (d : DestNo) (qq : PortNo) : (s.restartDrive d).port qq = s.port qq := rfl
@[simp] theorem job_restartDrive (d : DestNo) (jj : JobNo) : (s.restartDrive d).job jj = s.job jj := rfl
@[simp] theorem dest_restartDrive (d : DestNo) (dd : DestNo) : (s.restartDrive d).dest dd = s.dest dd := rfl
@[simp] theorem clip_restartDrive (d : DestNo) (cc : Nat) : (s.restartDrive d).clip? cc = s.clip? cc := rfl
@[simp] theorem slot_restartDrive (d : DestNo) (nn : Nat) : (s.restartDrive d).slot? nn = s.slot? nn := rfl
@[simp] theorem port_queueItem (d : DestNo) (w : Writer) (i : Item) (qq : PortNo) : (s.queueItem d w i).port qq = s.port qq := rfl
@[simp] theorem job_queueItem (d : DestNo) (w : Writer) (i : Item) (jj : JobNo) : (s.queueItem d w i).job jj = s.job jj := rfl
@[simp] theorem clip_queueItem (d : DestNo) (w : Writer) (i : Item) (cc : Nat) : (s.queueItem d w i).clip? cc = s.clip? cc := rfl
@[simp] theorem slot_queueItem (d : DestNo) (w : Writer) (i : Item) (nn : Nat) : (s.queueItem d w i).slot? nn = s.slot? nn := rfl
@[simp] theorem port_resetArbiter (d : DestNo) (qq : PortNo) : (s.resetArbiter d).port qq = s.port qq := rfl
@[simp] theorem job_resetArbiter (d : DestNo) (jj : JobNo) : (s.resetArbiter d).job jj = s.job jj := rfl
@[simp] theorem clip_resetArbiter (d : DestNo) (cc : Nat) : (s.resetArbiter d).clip? cc = s.clip? cc := rfl
@[simp] theorem slot_resetArbiter (d : DestNo) (nn : Nat) : (s.resetArbiter d).slot? nn = s.slot? nn := rfl
@[simp] theorem port_setActive (e : DestNo) (a : Option ActiveRead) (qq : PortNo) : (s.setActive e a).port qq = s.port qq := rfl
@[simp] theorem job_setActive (e : DestNo) (a : Option ActiveRead) (jj : JobNo) : (s.setActive e a).job jj = s.job jj := rfl
@[simp] theorem clip_setActive (e : DestNo) (a : Option ActiveRead) (cc : Nat) : (s.setActive e a).clip? cc = s.clip? cc := rfl
@[simp] theorem slot_setActive (e : DestNo) (a : Option ActiveRead) (nn : Nat) : (s.setActive e a).slot? nn = s.slot? nn := rfl
@[simp] theorem port_leaveQueues (c : Nat) (d : DestNo) (qq : PortNo) : (s.leaveQueues c d).port qq = s.port qq := rfl
@[simp] theorem job_leaveQueues (c : Nat) (d : DestNo) (jj : JobNo) : (s.leaveQueues c d).job jj = s.job jj := rfl
@[simp] theorem clip_leaveQueues (c : Nat) (d : DestNo) (cc : Nat) : (s.leaveQueues c d).clip? cc = s.clip? cc := rfl
@[simp] theorem slot_leaveQueues (c : Nat) (d : DestNo) (nn : Nat) : (s.leaveQueues c d).slot? nn = s.slot? nn := rfl
@[simp] theorem port_joinLane (c : Nat) (d : DestNo) (qq : PortNo) : (s.joinLane c d).port qq = s.port qq := rfl
@[simp] theorem job_joinLane (c : Nat) (d : DestNo) (jj : JobNo) : (s.joinLane c d).job jj = s.job jj := rfl
@[simp] theorem clip_joinLane (c : Nat) (d : DestNo) (cc : Nat) : (s.joinLane c d).clip? cc = s.clip? cc := rfl
@[simp] theorem slot_joinLane (c : Nat) (d : DestNo) (nn : Nat) : (s.joinLane c d).slot? nn = s.slot? nn := rfl
@[simp] theorem port_modClip (c : Nat) (f : Clip → Clip) (qq : PortNo) : (s.modClip c f).port qq = s.port qq := port_congr (by simp) qq
@[simp] theorem job_modClip (c : Nat) (f : Clip → Clip) (jj : JobNo) : (s.modClip c f).job jj = s.job jj := job_congr (by simp) jj
@[simp] theorem dest_modClip (c : Nat) (f : Clip → Clip) (dd : DestNo) : (s.modClip c f).dest dd = s.dest dd := dest_congr (by simp) dd
@[simp] theorem slot_modClip (c : Nat) (f : Clip → Clip) (nn : Nat) : (s.modClip c f).slot? nn = s.slot? nn := slot_congr (by simp) nn
@[simp] theorem port_modCopy (c : Nat) (d : DestNo) (f : Copy → Copy) (qq : PortNo) : (s.modCopy c d f).port qq = s.port qq := port_congr (by simp) qq
@[simp] theorem job_modCopy (c : Nat) (d : DestNo) (f : Copy → Copy) (jj : JobNo) : (s.modCopy c d f).job jj = s.job jj := job_congr (by simp) jj
@[simp] theorem dest_modCopy (c : Nat) (d : DestNo) (f : Copy → Copy) (dd : DestNo) : (s.modCopy c d f).dest dd = s.dest dd := dest_congr (by simp) dd
@[simp] theorem slot_modCopy (c : Nat) (d : DestNo) (f : Copy → Copy) (nn : Nat) : (s.modCopy c d f).slot? nn = s.slot? nn := slot_congr (by simp) nn
@[simp] theorem port_modSlot (n : Nat) (f : Slot → Slot) (qq : PortNo) : (s.modSlot n f).port qq = s.port qq := port_congr (by simp) qq
@[simp] theorem job_modSlot (n : Nat) (f : Slot → Slot) (jj : JobNo) : (s.modSlot n f).job jj = s.job jj := job_congr (by simp) jj
@[simp] theorem dest_modSlot (n : Nat) (f : Slot → Slot) (dd : DestNo) : (s.modSlot n f).dest dd = s.dest dd := dest_congr (by simp) dd
@[simp] theorem clip_modSlot (n : Nat) (f : Slot → Slot) (cc : Nat) : (s.modSlot n f).clip? cc = s.clip? cc := clip_congr (by simp) cc
@[simp] theorem port_joinWait (r : Requester) (qq : PortNo) : (s.joinWait r).port qq = s.port qq := port_congr (by simp) qq
@[simp] theorem job_joinWait (r : Requester) (jj : JobNo) : (s.joinWait r).job jj = s.job jj := job_congr (by simp) jj
@[simp] theorem dest_joinWait (r : Requester) (dd : DestNo) : (s.joinWait r).dest dd = s.dest dd := dest_congr (by simp) dd
@[simp] theorem clip_joinWait (r : Requester) (cc : Nat) : (s.joinWait r).clip? cc = s.clip? cc := clip_congr (by simp) cc
@[simp] theorem port_modHeld (r : Requester) (f : Nat → Nat) (qq : PortNo) : (s.modHeld r f).port qq = s.port qq := port_congr (by simp) qq
@[simp] theorem clip_modHeld (r : Requester) (f : Nat → Nat) (cc : Nat) : (s.modHeld r f).clip? cc = s.clip? cc := clip_congr (by simp) cc
@[simp] theorem slot_modHeld (r : Requester) (f : Nat → Nat) (nn : Nat) : (s.modHeld r f).slot? nn = s.slot? nn := slot_congr (by simp) nn
@[simp] theorem port_leaveLane (c : Nat) (d : DestNo) (qq : PortNo) : (s.leaveLane c d).port qq = s.port qq := port_congr (by simp) qq
@[simp] theorem job_leaveLane (c : Nat) (d : DestNo) (jj : JobNo) : (s.leaveLane c d).job jj = s.job jj := job_congr (by simp) jj
@[simp] theorem clip_leaveLane (c : Nat) (d : DestNo) (cc : Nat) : (s.leaveLane c d).clip? cc = s.clip? cc := clip_congr (by simp) cc
@[simp] theorem port_setCopy (c : Nat) (d : DestNo) (k : Copy) (qq : PortNo) : (s.setCopy c d k).port qq = s.port qq := port_congr (by simp) qq
@[simp] theorem job_setCopy (c : Nat) (d : DestNo) (k : Copy) (jj : JobNo) : (s.setCopy c d k).job jj = s.job jj := job_congr (by simp) jj
@[simp] theorem dest_setCopy (c : Nat) (d : DestNo) (k : Copy) (dd : DestNo) : (s.setCopy c d k).dest dd = s.dest dd := dest_congr (by simp) dd
@[simp] theorem slot_setCopy (c : Nat) (d : DestNo) (k : Copy) (nn : Nat) : (s.setCopy c d k).slot? nn = s.slot? nn := slot_congr (by simp) nn
@[simp] theorem port_stageSlot (n : Nat) (ds : List DestNo) (qq : PortNo) : (s.stageSlot n ds).port qq = s.port qq := port_congr (by simp) qq
@[simp] theorem job_stageSlot (n : Nat) (ds : List DestNo) (jj : JobNo) : (s.stageSlot n ds).job jj = s.job jj := job_congr (by simp) jj
@[simp] theorem dest_stageSlot (n : Nat) (ds : List DestNo) (dd : DestNo) : (s.stageSlot n ds).dest dd = s.dest dd := dest_congr (by simp) dd
@[simp] theorem clip_stageSlot (n : Nat) (ds : List DestNo) (cc : Nat) : (s.stageSlot n ds).clip? cc = s.clip? cc := clip_congr (by simp) cc

/-! ### The fields written whole -/

theorem emitLine_lines_eq (o : LineOut) : (s.emitLine o).lines = s.lines ++ [o] := rfl

theorem quiet_lines_eq : s.quiet.lines = [] := rfl

theorem notify_link_eq (n : Notice) : (s.notify n).link = s.link.queueNotice (n.frame s) := rfl

theorem reply_link_eq (e : EntryNo) (st : Status) (b : List Byte) : (s.reply e st b).link = s.link.queueReply e st b := rfl

end Sys2Proof.Machine.State
end

