-- ==== Sys2Proof/Laws/Link.lean ====
section
/-! SUPPORT. Laws/Link.lean: what a notice, a reply and an admission do to the link controller, said once. -/

namespace Sys2Proof.Machine

/-! ### Notices (R177) -/

theorem Link.queueNotice_table (l : Link) (f : OutFrame) : (l.queueNotice f).table = l.table := by
  unfold queueNotice; split <;> rfl

theorem Link.queueNotice_refusal (l : Link) (f : OutFrame) : (l.queueNotice f).refusal = l.refusal := by
  unfold queueNotice; split <;> rfl

theorem Link.queueNotice_parser (l : Link) (f : OutFrame) :
    (l.queueNotice f).parser = l.parser ∧ (l.queueNotice f).buf = l.buf ∧ (l.queueNotice f).stall = l.stall := by
  unfold queueNotice; split <;> exact ⟨rfl, rfl, rfl⟩

/-- A notice either joins the tail of the queue, or sets the overflow flag when 32 notices stand there. -/
theorem Link.queueNotice_cases (l : Link) (f : OutFrame) :
    (l.noticesQueued < noticePlaces ∧ l.queueNotice f = { l with outq := l.outq ++ [f] })
      ∨ (noticePlaces ≤ l.noticesQueued ∧ l.queueNotice f = { l with overflow := true }) := by
  unfold queueNotice
  split
  · exact .inl ⟨‹_›, rfl⟩
  · exact .inr ⟨by omega, rfl⟩

theorem Link.noticesQueued_append (l : Link) (f : OutFrame) :
    ({ l with outq := l.outq ++ [f] } : Link).noticesQueued
      = l.noticesQueued + (if f.owner = .notice then 1 else 0) := by
  simp only [noticesQueued, List.filter_append, List.length_append]
  split <;> simp_all

/-- A notice never takes the queue past its 32 places. -/
theorem Link.Sound.queueNotice {l : Link} (h : l.Sound) (f : OutFrame) : (l.queueNotice f).Sound := by
  rcases l.queueNotice_cases f with ⟨hl, he⟩ | ⟨_, he⟩
  · rw [Link.Sound, he, Link.noticesQueued_append]
    split <;> omega
  · rw [he]; exact h

/-! ### Replies (R176) -/

/-- A reply either joins the tail of the queue, its entry queued, or finds no entry owed and changes nothing. -/
theorem Link.queueReply_cases (l : Link) (e : EntryNo) (st : Status) (b : List Byte) :
    (∃ x, l.table[e] = some x ∧ x.queued = false
        ∧ l.queueReply e st b =
          { l with
            table := l.table.set e (some { x with queued := true })
            outq := l.outq ++ [replyFrame (.reply e) x.tag st b] })
      ∨ l.queueReply e st b = l := by
  unfold queueReply
  split
  · exact .inr rfl
  · rename_i x hx
    split
    · exact .inr rfl
    · rename_i hq
      exact .inl ⟨x, hx, by simpa using hq, rfl⟩

theorem Link.Sound.queueReply {l : Link} (h : l.Sound) (e : EntryNo) (st : Status) (b : List Byte) :
    (l.queueReply e st b).Sound := by
  rcases l.queueReply_cases e st b with ⟨x, -, -, he⟩ | he
  · rw [he]
    have : (replyFrame (.reply e) x.tag st b).owner ≠ .notice := by simp [replyFrame]
    simpa [Link.Sound, noticesQueued, List.filter_append, this] using h
  · rw [he]; exact h

/-! ### Admission (R173) -/

/-- With no entry free a request changes no state but the refusal place. -/
theorem State.request_of_full {s : State} (h : s.link.freeEntry = none) (tag : Byte) (code : Nat)
    (owner : EntryNo → State → Ruling) : s.request tag code owner = .next (s.turnAway tag) := by
  simp [State.request, h]

/-- With an entry free a request is handed to its owner. -/
theorem State.request_of_free {s : State} {e : EntryNo} (h : s.link.freeEntry = some e) (tag : Byte) (code : Nat)
    (owner : EntryNo → State → Ruling) :
    s.request tag code owner = (owner e (s.takeEntry e tag code)).carry e (s.takeEntry e tag code) := by
  simp [State.request, h]

@[simp] theorem Ruling.carry_refuse (e : EntryNo) (s : State) (st : Status) :
    (Ruling.refuse st).carry e s = .next (s.reply e st []) := rfl

@[simp] theorem Ruling.carry_tell (e : EntryNo) (s t : State) (b : List Byte) :
    (Ruling.tell b t).carry e s = .next (t.reply e .ok b) := rfl

@[simp] theorem Ruling.carry_owe (e : EntryNo) (s : State) (w : Work) : (Ruling.owe w).carry e s = event w := rfl

/-- What a request can do, whatever its ruling: every next state is one of these. -/
theorem Ruling.carry_cases {r : Ruling} {e : EntryNo} {s t : State} (h : r.carry e s = .next t) :
    (∃ st, r = .refuse st ∧ t = s.reply e st [])
      ∨ (∃ b s', r = .tell b s' ∧ t = s'.reply e .ok b)
      ∨ (∃ b w s', r = .take b w ∧ runTasks eventBudget (w.now ++ w.later) w.state.refreshLamps = some s'
          ∧ t = (s'.reply e .ok b).serveLinks)
      ∨ (∃ w, r = .owe w ∧ event w = .next t) := by
  cases r with
  | refuse st => exact .inl ⟨st, rfl, by simpa using h.symm⟩
  | tell b s' => exact .inr (.inl ⟨b, s', rfl, by simpa using h.symm⟩)
  | take b w =>
    simp only [Ruling.carry] at h
    split at h
    · exact .inr (.inr (.inl ⟨b, w, _, rfl, ‹_›, by simpa using h.symm⟩))
    · cases h
  | owe w => exact .inr (.inr (.inr ⟨w, rfl, h⟩))

end Sys2Proof.Machine
end

