-- ==== Sys2Proof/Laws/Event.lean ====
section
/-! SUPPORT. Laws/Event.lean: the event loop, unfolded once.

An invariant of an event needs four facts: that lamps, one task, one arbiter and one reader link keep it. -/

namespace Sys2Proof.Machine

@[simp] theorem runTasks_nil (n : Nat) (s : State) : runTasks n [] s = some s := by cases n <;> rfl

theorem runTasks_cons (n : Nat) (t : Task) (ts : List Task) (s : State) :
    runTasks (n + 1) (t :: ts) s
      = runTasks n ((t.run s.serveLinks).now ++ ts ++ (t.run s.serveLinks).later)
          (t.run s.serveLinks).state.refreshLamps := rfl

/-- A run that ends within a smaller budget ends alike within a larger one. -/
theorem runTasks_mono {m n : Nat} (hmn : m ≤ n) {ts : List Task} {s s' : State} (h : runTasks m ts s = some s') :
    runTasks n ts s = some s' := by
  induction m generalizing n ts s with
  | zero =>
    cases ts with
    | nil => simpa using h
    | cons t ts => cases h
  | succ m ih =>
    cases ts with
    | nil => simpa using h
    | cons t ts =>
      obtain ⟨n, rfl⟩ := Nat.exists_eq_add_of_le' (Nat.le_of_add_left_le hmn)
      rw [runTasks_cons] at h ⊢
      exact ih (by omega) h

theorem le_eventBudget : 1000000 ≤ eventBudget := by unfold eventBudget; decide

/-- An event whose tasks end within a million has the end of those tasks. -/
theorem event_of_runTasks {n : Nat} (hn : n ≤ 1000000) {w : Work} {s : State}
    (h : runTasks n (w.now ++ w.later) w.state.refreshLamps = some s) : event w = .next s.serveLinks := by
  unfold event
  rw [runTasks_mono (hn.trans le_eventBudget) h]

/-- A request whose tasks end within a million is answered at their end. -/
theorem carry_of_runTasks {n : Nat} (hn : n ≤ 1000000) {e : EntryNo} {b : List Byte} {w : Work} {s t : State}
    (h : runTasks n (w.now ++ w.later) w.state.refreshLamps = some t) :
    (Ruling.take b w).carry e s = .next (t.reply e .ok b).serveLinks := by
  simp only [Ruling.carry, runTasks_mono (hn.trans le_eventBudget) h]

/-- What every arbiter and every reader link keeps, the service of the links keeps. -/
theorem serveLinks_invariant (P : State → Prop) (ha : ∀ s d, P s → P (s.arbitrate d)) (hr : ∀ s p, P s → P (s.serveReader p))
    {s : State} (hs : P s) : P s.serveLinks := by
  have fold {β : Type} (f : State → β → State) (hf : ∀ s x, P s → P (f s x)) (l : List β) :
      ∀ {s}, P s → P (l.foldl f s) := by
    induction l with
    | nil => exact fun h => h
    | cons x l ih => exact fun h => ih (hf _ x h)
  unfold State.serveLinks
  exact fold _ hr _ (fold _ ha _ hs)

/-- What lamps, tasks, arbiters and reader links keep, a run of tasks keeps. -/
theorem runTasks_invariant (P : State → Prop) (hl : ∀ s, P s → P s.refreshLamps)
    (ht : ∀ (t : Task) s, P s → P (t.run s).state) (ha : ∀ s d, P s → P (s.arbitrate d))
    (hr : ∀ s p, P s → P (s.serveReader p)) {n : Nat} {ts : List Task} {s s' : State} (hs : P s)
    (h : runTasks n ts s = some s') : P s' := by
  induction n generalizing ts s with
  | zero =>
    cases ts with
    | nil => simp at h; exact h ▸ hs
    | cons t ts => cases h
  | succ n ih =>
    cases ts with
    | nil => simp at h; exact h ▸ hs
    | cons t ts => exact ih (hl _ (ht t _ (serveLinks_invariant P ha hr hs))) h

/-- The one inversion of an event: its tasks ran to their end, and arbiters and reader links followed. -/
theorem event_cases {w : Work} {t : State} (h : event w = .next t) :
    ∃ s, runTasks eventBudget (w.now ++ w.later) w.state.refreshLamps = some s ∧ t = s.serveLinks := by
  unfold event at h
  split at h
  · exact ⟨_, ‹_›, by simpa using h.symm⟩
  · cases h

/-- An event with nothing to follow. -/
theorem event_still (s : State) : event s.still = .next s.refreshLamps.serveLinks := by
  simp [event, State.still]

/-- What lamps, tasks, arbiters and reader links keep, an event keeps. -/
theorem event_invariant (P : State → Prop) (hl : ∀ s, P s → P s.refreshLamps)
    (ht : ∀ (t : Task) s, P s → P (t.run s).state) (ha : ∀ s d, P s → P (s.arbitrate d))
    (hr : ∀ s p, P s → P (s.serveReader p)) {w : Work} {t : State} (hw : P w.state) (h : event w = .next t) : P t := by
  obtain ⟨s, hs, rfl⟩ := event_cases h
  have h1 : P w.state.refreshLamps := hl w.state hw
  have h2 : P s := runTasks_invariant P hl ht ha hr h1 hs
  exact serveLinks_invariant P ha hr h2

/-- What a reply keeps besides, a ruling keeps. -/
theorem carry_invariant (P : State → Prop) (hl : ∀ s, P s → P s.refreshLamps)
    (ht : ∀ (t : Task) s, P s → P (t.run s).state) (ha : ∀ s d, P s → P (s.arbitrate d))
    (hr : ∀ s p, P s → P (s.serveReader p)) (hq : ∀ s e st b, P s → P (s.reply e st b)) {r : Ruling} {e : EntryNo}
    {s t : State} (hs : P s) (htell : ∀ b s', r = .tell b s' → P s') (htake : ∀ b w, r = .take b w → P w.state)
    (howe : ∀ w, r = .owe w → P w.state) (h : r.carry e s = .next t) : P t := by
  rcases Ruling.carry_cases h with ⟨st, rfl, rfl⟩ | ⟨b, s', rfl, rfl⟩ | ⟨b, w, s', rfl, hr', rfl⟩ | ⟨w, rfl, he⟩
  · exact hq _ _ _ _ hs
  · exact hq _ _ _ _ (htell b s' rfl)
  · exact serveLinks_invariant P ha hr (hq _ _ _ _ (runTasks_invariant P hl ht ha hr (hl _ (htake b w rfl)) hr'))
  · exact event_invariant P hl ht ha hr (howe w rfl) he

end Sys2Proof.Machine
end

