-- ==== Sys2Proof/Laws/Faults.lean ====
section
/-! SUPPORT. Laws/Faults.lean: what an occurrence, a clear and a route change do to the fault unit, said once. -/

namespace Sys2Proof.Machine

theorem FaultClass.code_injective : Function.Injective FaultClass.code := by
  intro a b h; cases a <;> cases b <;> simp_all [FaultClass.code]

namespace FaultUnit

/-! ### An occurrence (R153, R154) -/

@[simp] theorem take_routes (u : FaultUnit) (o : Occurrence) : (u.take o).routes = u.routes := rfl

@[simp] theorem take_capture (u : FaultUnit) (o : Occurrence) :
    (u.take o).capture = if u.captures o then some o else u.capture := rfl

@[simp] theorem take_flag_self (u : FaultUnit) (o : Occurrence) : (u.take o).flag o.cls = true := by
  simp [flag, take, reform]

theorem take_flag_of_ne (u : FaultUnit) {o : Occurrence} {c : FaultClass} (h : c ≠ o.cls) :
    (u.take o).flag c = u.flag c := by
  simp only [flag, take, reform, Fin.getElem_fin]
  exact Vector.getElem_set_ne _ _ fun he => h (FaultClass.code_injective (Fin.ext he)).symm

theorem take_flag_of_flag (u : FaultUnit) (o : Occurrence) {c : FaultClass} (h : u.flag c = true) :
    (u.take o).flag c = true := by
  by_cases hc : c = o.cls
  · subst hc; simp
  · rw [take_flag_of_ne u hc, h]

/-! ### A clear and a route change (R160, R161) -/

@[simp] theorem clear_routes (u : FaultUnit) (c : FaultClass) : (u.clear c).routes = u.routes := rfl

@[simp] theorem clear_flag_self (u : FaultUnit) (c : FaultClass) : (u.clear c).flag c = false := by
  simp [flag, clear, reform]

theorem clear_flag_of_ne (u : FaultUnit) {c b : FaultClass} (h : b ≠ c) : (u.clear c).flag b = u.flag b := by
  simp only [flag, clear, reform, Fin.getElem_fin]
  exact Vector.getElem_set_ne _ _ fun he => h (FaultClass.code_injective (Fin.ext he)).symm

@[simp] theorem setRoute_flags (u : FaultUnit) (c : FaultClass) (r : Route) : (u.setRoute c r).flags = u.flags := rfl

@[simp] theorem setRoute_capture (u : FaultUnit) (c : FaultClass) (r : Route) :
    (u.setRoute c r).capture = u.capture := rfl

@[simp] theorem setRoute_route_self (u : FaultUnit) (c : FaultClass) (r : Route) : (u.setRoute c r).route c = r := by
  simp [route, setRoute, reform]

theorem setRoute_route_of_ne (u : FaultUnit) {c b : FaultClass} (h : b ≠ c) (r : Route) :
    (u.setRoute c r).route b = u.route b := by
  simp only [route, setRoute, reform, Fin.getElem_fin]
  exact Vector.getElem_set_ne _ _ fun he => h (FaultClass.code_injective (Fin.ext he)).symm

/-! ### The alarm line (R156) -/

@[simp] theorem take_alarm (u : FaultUnit) (o : Occurrence) : (u.take o).alarm = (u.take o).formAlarm := rfl

@[simp] theorem clear_alarm (u : FaultUnit) (c : FaultClass) : (u.clear c).alarm = (u.clear c).formAlarm := rfl

@[simp] theorem setRoute_alarm (u : FaultUnit) (c : FaultClass) (r : Route) :
    (u.setRoute c r).alarm = (u.setRoute c r).formAlarm := rfl

/-! ### The fault unit stays sound -/

theorem Sound.take {u : FaultUnit} (h : u.Sound) (o : Occurrence) : (u.take o).Sound := by
  refine ⟨rfl, fun p hp => ?_⟩
  rw [take_capture] at hp
  split at hp
  · obtain rfl := Option.some.inj hp; simp
  · exact take_flag_of_flag u o (h.2 p hp)

theorem Sound.clear {u : FaultUnit} (h : u.Sound) (c : FaultClass) : (u.clear c).Sound := by
  refine ⟨rfl, fun p hp => ?_⟩
  have hc : (u.clear c).capture = if (u.capture.map (·.cls)) = some c then none else u.capture := rfl
  rw [hc] at hp
  split at hp
  · cases hp
  · rename_i hne
    rw [hp] at hne
    rw [clear_flag_of_ne u (fun he => hne (by simp [he]))]
    exact h.2 p hp

theorem Sound.setRoute {u : FaultUnit} (h : u.Sound) (c : FaultClass) (r : Route) : (u.setRoute c r).Sound :=
  ⟨rfl, fun p hp => h.2 p hp⟩

end FaultUnit

/-! ### Raising an occurrence -/

/-- The HOLD route touches jobs, the wait list and the queue of notices, and no fault field. -/
theorem State.askPause_faults (s : State) (cause : PauseCause) (j : JobNo) : (s.askPause cause j).faults = s.faults := by
  simp only [State.askPause]
  split <;> simp [State.pauseNow]

theorem State.holdJob_faults (s : State) (j : JobNo) : (s.holdJob j).faults = s.faults := by
  unfold State.holdJob
  split <;> try rfl
  · exact State.askPause_faults s _ _
  · split <;> rfl

/-- A field a step of a fold leaves alone is left alone by the fold. -/
theorem foldl_keeps {β γ : Type} (get : State → γ) (f : State → β → State) (h : ∀ s x, get (f s x) = get s)
    (l : List β) (s : State) : get (l.foldl f s) = get s := by
  induction l generalizing s with
  | nil => rfl
  | cons x l ih => rw [List.foldl_cons, ih, h]

/-- A property a step of a fold keeps is kept by the fold. -/
theorem foldl_invariant {β : Type} (P : State → Prop) (f : State → β → State) (h : ∀ s x, P s → P (f s x))
    (l : List β) {s : State} (hs : P s) : P (l.foldl f s) := by
  induction l generalizing s with
  | nil => exact hs
  | cons x l ih => exact ih (h s x hs)

theorem State.holdJobs_faults (s : State) : s.holdJobs.faults = s.faults := by
  unfold State.holdJobs
  exact foldl_keeps (·.faults) _ State.holdJob_faults _ s

/-- Raising an occurrence leaves the fault unit as the occurrence alone leaves it (R153). -/
theorem State.raise_faults (s : State) (o : Occurrence) : (s.raise o).faults = s.faults.take o := by
  simp only [State.raise, State.carryRoute]
  split <;> first | rfl | exact State.holdJobs_faults _

end Sys2Proof.Machine
end

