-- ==== Sys2Proof/Laws/Lamps.lean ====
section
/-! SUPPORT. Laws/Lamps.lean: what re-forming the lamps changes, said once (R43, R164). -/

namespace Sys2Proof.Machine

theorem mem_allPorts (p : PortNo) : p ∈ allPorts := by
  have : ∀ p : PortNo, p ∈ allPorts := by decide
  exact this p

/-! ### Only notices -/

theorem Link.OnlyNotices.refl (l : Link) : l.OnlyNotices l := ⟨rfl, rfl, rfl, rfl, rfl, [], by simp, by simp⟩

theorem Link.OnlyNotices.trans {l m n : Link} (h : l.OnlyNotices m) (g : m.OnlyNotices n) : l.OnlyNotices n := by
  obtain ⟨h1, h2, h3, h4, h5, x, hx, h6⟩ := h
  obtain ⟨g1, g2, g3, g4, g5, y, hy, g6⟩ := g
  refine ⟨g1.trans h1, g2.trans h2, g3.trans h3, g4.trans h4, g5.trans h5, x ++ y, ?_, by simp [g6, h6]⟩
  intro f hf
  rcases List.mem_append.1 hf with h | h
  · exact hx f h
  · exact hy f h

theorem Link.OnlyNotices.queueNotice (l : Link) {f : OutFrame} (hf : f.owner = .notice) : l.OnlyNotices (l.queueNotice f) := by
  rcases l.queueNotice_cases f with ⟨-, h⟩ | ⟨-, h⟩ <;> rw [h]
  · exact ⟨rfl, rfl, rfl, rfl, rfl, [f], by simpa using hf, rfl⟩
  · exact ⟨rfl, rfl, rfl, rfl, rfl, [], by simp, by simp⟩

theorem State.notify_onlyNotices (s : State) (n : Notice) : s.link.OnlyNotices (s.notify n).link :=
  Link.OnlyNotices.queueNotice _ rfl

/-! ### One lamp -/

/-- Only the lamp itself and a notice: every other block is the same. -/
theorem State.refreshLamp_cases (s : State) (p : PortNo) :
    (s.formLamp p = (s.port p).lamp ∧ s.refreshLamp p = s)
      ∨ s.refreshLamp p = (s.modPort p fun x => { x with lamp := s.formLamp p }).notify (.cardChange p) := by
  unfold State.refreshLamp
  split
  · exact .inl ⟨‹_›, rfl⟩
  · exact .inr rfl

/-- A lamp's inputs (R43) read no lamp. -/
theorem State.formLamp_congr {s t : State} (p : PortNo) (hj : t.jobs = s.jobs) (hc : t.clips = s.clips)
    (hp : (s.port p).SameCard (t.port p)) : t.formLamp p = s.formLamp p := by
  obtain ⟨h1, h2, h3, h4, -, -, h7⟩ := hp
  have ht : t.jobTroubled = s.jobTroubled := by
    funext j
    simp only [State.jobTroubled, State.clipsIn, State.clipState?, State.job_congr hj, State.clip_congr hc]
  simp only [State.formLamp, h1, h2, h3, h4, h7, ht]

/-- What re-forming lamps leaves: every card, every other block, and the link controller but for notices. -/
def State.LampsOnly (s t : State) : Prop :=
  s.SameBooks t ∧ t.dests = s.dests ∧ t.lines = s.lines ∧ s.link.OnlyNotices t.link
    ∧ ∀ q, (s.port q).SameCard (t.port q) ∧ (t.port q).outstanding = (s.port q).outstanding
        ∧ (t.port q).abandoned = (s.port q).abandoned ∧ (t.port q).readerTimer = (s.port q).readerTimer

theorem CardPort.SameCard.refl (x : CardPort) : x.SameCard x := ⟨rfl, rfl, rfl, rfl, rfl, rfl, rfl⟩

theorem CardPort.SameCard.trans {x y z : CardPort} (h : x.SameCard y) (g : y.SameCard z) : x.SameCard z := by
  obtain ⟨h1, h2, h3, h4, h5, h6, h7⟩ := h
  obtain ⟨g1, g2, g3, g4, g5, g6, g7⟩ := g
  exact ⟨g1.trans h1, g2.trans h2, g3.trans h3, g4.trans h4, g5.trans h5, g6.trans h6, g7.trans h7⟩

theorem State.SameBooks.refl (s : State) : s.SameBooks s := ⟨rfl, rfl, rfl, rfl, rfl, rfl, rfl⟩

theorem State.SameBooks.trans {s t u : State} (h : s.SameBooks t) (g : t.SameBooks u) : s.SameBooks u := by
  obtain ⟨h1, h2, h3, h4, h5, h6, h7⟩ := h
  obtain ⟨g1, g2, g3, g4, g5, g6, g7⟩ := g
  exact ⟨g1.trans h1, g2.trans h2, g3.trans h3, g4.trans h4, g5.trans h5, g6.trans h6, g7.trans h7⟩

theorem State.LampsOnly.refl (s : State) : s.LampsOnly s :=
  ⟨.refl s, rfl, rfl, .refl _, fun _ => ⟨.refl _, rfl, rfl, rfl⟩⟩

theorem State.LampsOnly.trans {s t u : State} (h : s.LampsOnly t) (g : t.LampsOnly u) : s.LampsOnly u := by
  obtain ⟨h1, h2, h3, h4, h5⟩ := h
  obtain ⟨g1, g2, g3, g4, g5⟩ := g
  refine ⟨h1.trans g1, g2.trans h2, g3.trans h3, h4.trans g4, fun q => ?_⟩
  obtain ⟨a1, a2, a3, a4⟩ := h5 q
  obtain ⟨b1, b2, b3, b4⟩ := g5 q
  exact ⟨a1.trans b1, b2.trans a2, b3.trans a3, b4.trans a4⟩

theorem State.refreshLamp_lampsOnly (s : State) (p : PortNo) : s.LampsOnly (s.refreshLamp p) := by
  rcases s.refreshLamp_cases p with ⟨-, h⟩ | h
  · rw [h]; exact .refl s
  · rw [h]
    refine ⟨⟨rfl, rfl, rfl, rfl, rfl, rfl, rfl⟩, rfl, rfl, State.notify_onlyNotices _ _, fun q => ?_⟩
    rw [State.port_notify]
    by_cases hq : p = q
    · subst hq; rw [State.port_modPort_self]; exact ⟨⟨rfl, rfl, rfl, rfl, rfl, rfl, rfl⟩, rfl, rfl, rfl⟩
    · rw [State.port_modPort_of_ne _ hq]; exact ⟨.refl _, rfl, rfl, rfl⟩

theorem State.refreshLamp_lamp (s : State) (p q : PortNo) :
    ((s.refreshLamp p).port q).lamp = if q = p then s.formLamp p else (s.port q).lamp := by
  rcases s.refreshLamp_cases p with ⟨h, hr⟩ | hr <;> rw [hr]
  · split
    · rename_i hq; subst hq; exact h.symm
    · rfl
  · rw [State.port_notify]
    split
    · rename_i hq; subst hq; rw [State.port_modPort_self]
    · rename_i hq; rw [State.port_modPort_of_ne _ (fun h => hq h.symm)]

/-! ### Every lamp -/

/-- Re-forming the lamps changes the lamps and queues notices, and nothing else. -/
theorem State.refreshLamps_lampsOnly (s : State) : s.LampsOnly s.refreshLamps := by
  unfold State.refreshLamps
  exact foldl_invariant (s.LampsOnly ·) _ (fun t p h => h.trans (t.refreshLamp_lampsOnly p)) _ (.refl s)

theorem State.LampsOnly.formLamp {s t : State} (h : s.LampsOnly t) (p : PortNo) : t.formLamp p = s.formLamp p :=
  State.formLamp_congr p h.1.1 h.1.2.1 (h.2.2.2.2 p).1

/-- After it, every lamp is the one R43 forms. -/
theorem State.refreshLamps_formed (s : State) : s.refreshLamps.LampsFormed := by
  have key : ∀ (l : List PortNo) (t : State), s.LampsOnly t →
      ∀ p, p ∈ l ∨ (t.port p).lamp = s.formLamp p → ((l.foldl State.refreshLamp t).port p).lamp = s.formLamp p := by
    intro l
    induction l with
    | nil => intro t _ p hp; simpa using hp
    | cons q l ih =>
      intro t ht p hp
      refine ih _ (ht.trans (t.refreshLamp_lampsOnly q)) p ?_
      by_cases hpq : p = q
      · right; rw [State.refreshLamp_lamp, if_pos hpq, ← hpq]; exact ht.formLamp p
      · rcases hp with hp | hp
        · left; simpa [hpq] using hp
        · right; rw [State.refreshLamp_lamp, if_neg hpq]; exact hp
  intro p
  rw [s.refreshLamps_lampsOnly.formLamp p]
  unfold State.refreshLamps
  exact key allPorts s (.refl s) p (.inl (mem_allPorts p))

/-- With every lamp as R43 forms it, re-forming changes nothing. -/
theorem State.refreshLamps_of_formed {s : State} (h : s.LampsFormed) : s.refreshLamps = s := by
  unfold State.refreshLamps
  have key : ∀ l : List PortNo, l.foldl State.refreshLamp s = s := by
    intro l
    induction l with
    | nil => rfl
    | cons p l ih =>
      rw [List.foldl_cons]
      have : s.refreshLamp p = s := by unfold State.refreshLamp; rw [if_pos (h p).symm]
      rw [this, ih]
  exact key _

end Sys2Proof.Machine
end

