-- ==== Sys2Proof/Laws/Issue.lean ====
section
/-! SUPPORT. Laws/Issue.lean: what arbiters and reader links change when they are served, said once (R32, R99). -/

namespace Sys2Proof.Machine

theorem DestPort.SameDrive.refl (x : DestPort) : x.SameDrive x :=
  ⟨rfl, rfl, rfl, rfl, rfl, rfl, rfl, rfl, rfl, rfl, rfl⟩

theorem DestPort.SameDrive.trans {x y z : DestPort} (h : x.SameDrive y) (g : y.SameDrive z) : x.SameDrive z := by
  obtain ⟨h1, h2, h3, h4, h5, h6, h7, h8, h9, h10, h11⟩ := h
  obtain ⟨g1, g2, g3, g4, g5, g6, g7, g8, g9, g10, g11⟩ := g
  exact ⟨g1.trans h1, g2.trans h2, g3.trans h3, g4.trans h4, g5.trans h5, g6.trans h6, g7.trans h7, g8.trans h8,
    g9.trans h9, g10.trans h10, g11.trans h11⟩

/-- From `s` to `t` requests were issued on reader and drive links, and nothing else. -/
def State.IssueOnly (s t : State) : Prop :=
  s.SameBooks t ∧ t.link = s.link ∧ (∀ p, (s.port p).SameCard (t.port p) ∧ (t.port p).lamp = (s.port p).lamp)
    ∧ ∀ d, (s.dest d).SameDrive (t.dest d)

theorem State.IssueOnly.refl (s : State) : s.IssueOnly s := ⟨.refl s, rfl, fun _ => ⟨.refl _, rfl⟩, fun _ => .refl _⟩

theorem State.IssueOnly.trans {s t u : State} (h : s.IssueOnly t) (g : t.IssueOnly u) : s.IssueOnly u := by
  obtain ⟨h1, h2, h3, h4⟩ := h
  obtain ⟨g1, g2, g3, g4⟩ := g
  exact ⟨h1.trans g1, g2.trans h2, fun p => ⟨(h3 p).1.trans (g3 p).1, (g3 p).2.trans (h3 p).2⟩,
    fun d => (h4 d).trans (g4 d)⟩

/-! ### Arbiters -/

/-- A change of one destination port that keeps its drive, and something on a line. -/
theorem State.IssueOnly.modDest {s : State} {d : DestNo} {f : DestPort → DestPort} (h : (s.dest d).SameDrive (f (s.dest d))) :
    s.IssueOnly (s.modDest d f) := by
  refine ⟨⟨rfl, rfl, rfl, rfl, rfl, rfl, rfl⟩, rfl, fun _ => ⟨.refl _, rfl⟩, fun e => ?_⟩
  by_cases he : d = e
  · subst he; rw [State.dest_modDest_self]; exact h
  · rw [State.dest_modDest_of_ne _ he]; exact .refl _

theorem State.IssueOnly.emitLine (s : State) (o : LineOut) : s.IssueOnly (s.emitLine o) :=
  ⟨⟨rfl, rfl, rfl, rfl, rfl, rfl, rfl⟩, rfl, fun _ => ⟨.refl _, rfl⟩, fun _ => .refl _⟩

theorem State.issueDrive_issueOnly (s : State) (d : DestNo) (r : DriveRequest) : s.IssueOnly (s.issueDrive d r) :=
  (State.IssueOnly.modDest (f := fun x => { x with outstanding := some r, abandoned := false, timer := true })
    ⟨rfl, rfl, rfl, rfl, rfl, rfl, rfl, rfl, rfl, rfl, rfl⟩).trans (.emitLine _ _)

theorem State.carryGrant_issueOnly (s : State) (d : DestNo) (g : Grant) : s.IssueOnly (s.carryGrant d g) := by
  cases g with
  | writer w =>
    simp only [State.carryGrant]
    split
    · exact .refl s
    · exact (s.issueDrive_issueOnly d _).trans (.modDest ⟨rfl, rfl, rfl, rfl, rfl, rfl, rfl, rfl, rfl, rfl, rfl⟩)
  | readLane =>
    simp only [State.carryGrant]
    split
    · exact (s.issueDrive_issueOnly d _).trans (.modDest ⟨rfl, rfl, rfl, rfl, rfl, rfl, rfl, rfl, rfl, rfl, rfl⟩)
    · exact .refl s

theorem State.arbitrate_issueOnly (s : State) (d : DestNo) : s.IssueOnly (s.arbitrate d) := by
  unfold State.arbitrate
  split
  · exact .refl s
  · exact s.carryGrant_issueOnly d _

/-! ### Reader links -/

theorem State.serveReader_issueOnly (s : State) (p : PortNo) : s.IssueOnly (s.serveReader p) := by
  unfold State.serveReader
  split
  · exact .refl s
  · split
    · refine ⟨⟨rfl, rfl, rfl, rfl, rfl, rfl, rfl⟩, rfl, fun q => ?_, fun _ => .refl _⟩
      simp only [State.issueRead, State.port_emitLine]
      by_cases hq : p = q
      · subst hq; rw [State.port_modPort_self]; exact ⟨⟨rfl, rfl, rfl, rfl, rfl, rfl, rfl⟩, rfl⟩
      · rw [State.port_modPort_of_ne _ hq]; exact ⟨.refl _, rfl⟩
    · exact .refl s

/-! ### The end of an event -/

/-- Arbiters and reader links issue requests, and nothing else. -/
theorem State.serveLinks_issueOnly (s : State) : s.IssueOnly s.serveLinks :=
  serveLinks_invariant (s.IssueOnly ·) (fun t d h => h.trans (t.arbitrate_issueOnly d))
    (fun t p h => h.trans (t.serveReader_issueOnly p)) (.refl s)

theorem State.IssueOnly.lampsFormed {s t : State} (h : s.IssueOnly t) (hs : s.LampsFormed) : t.LampsFormed := fun p => by
  rw [(h.2.2.1 p).2, hs p, State.formLamp_congr p h.1.1 h.1.2.1 (h.2.2.1 p).1]

/-- All that the end of an event can change: lamps with their notices, and requests issued. -/
theorem State.closeEvent_spec (s : State) :
    s.SameBooks s.closeEvent ∧ s.link.OnlyNotices s.closeEvent.link
      ∧ (∀ p, (s.port p).SameCard (s.closeEvent.port p)) ∧ (∀ d, (s.dest d).SameDrive (s.closeEvent.dest d))
      ∧ s.closeEvent.LampsFormed := by
  have h := s.refreshLamps_lampsOnly
  have g := s.refreshLamps.serveLinks_issueOnly
  refine ⟨h.1.trans g.1, ?_, fun p => (h.2.2.2.2 p).1.trans (g.2.2.1 p).1, fun d => ?_,
    g.lampsFormed s.refreshLamps_formed⟩
  · have hl : s.closeEvent.link = s.refreshLamps.link := g.2.1
    rw [hl]; exact h.2.2.2.1
  · have hd : s.refreshLamps.dest d = s.dest d := State.dest_congr h.2.1 d
    have := g.2.2.2 d
    rwa [hd] at this

/-- An event from which nothing follows ends at once. -/
theorem event_still_eq (s : State) : event s.still = .next s.closeEvent := event_still s

/-- Every event that ends leaves the lamps as R43 forms them. -/
theorem runTasks_formed {n : Nat} {ts : List Task} {s s' : State} (hs : s.LampsFormed) (h : runTasks n ts s = some s') :
    s'.LampsFormed := by
  induction n generalizing ts s with
  | zero =>
    cases ts with
    | nil => simp at h; exact h ▸ hs
    | cons t ts => cases h
  | succ n ih =>
    cases ts with
    | nil => simp at h; exact h ▸ hs
    | cons t ts => exact ih (State.refreshLamps_formed _) h

end Sys2Proof.Machine
end

