-- ==== Sys2Proof/Laws/Arbiter.lean ====
section
/-! SUPPORT. Laws/Arbiter.lean: what a grant does to the rotation and the count, and what an allocation answers, said
once (R87–R89, R101, R102). -/

namespace Sys2Proof.Machine

/-- A write requester moved to the end of the rotation: the same requesters. -/
theorem rotate_perm (l : List Writer) (w : Writer) : (l.filter (· ≠ w) ++ l.filter (· = w)).Perm l := by
  have := List.filter_append_perm (fun x => decide (x = w)) l
  refine List.Perm.trans List.perm_append_comm (List.Perm.trans ?_ this)
  simp [decide_not]

/-- A grant to a write requester issues the request of its head item, moves the requester to the end of the rotation
and raises the count up to 3. -/
theorem State.carryGrant_writer {s : State} {d : DestNo} {w : Writer} {r : DriveRequest} (h : s.formWrite d w = some r) :
    let t := s.carryGrant d (.writer w)
    (t.dest d).outstanding = some r ∧ (t.dest d).abandoned = false ∧ (t.dest d).timer = true
      ∧ (t.dest d).arb =
        { rotation := (s.dest d).arb.rotation.filter (· ≠ w) ++ (s.dest d).arb.rotation.filter (· = w)
          lock := (s.dest d).arb.lock
          grants := min 3 ((s.dest d).arb.grants + 1) }
      ∧ t.lines = s.lines ++ [.drive d r.cmd] := by
  simp [State.carryGrant, h, State.issueDrive, State.emitLine_lines_eq]

/-- A grant to the read lane issues its formed request, leaves the rotation and empties the count. -/
theorem State.carryGrant_readLane {s : State} {d : DestNo} {step : ReadStep} {cmd : DriveCmd} {n : Nat}
    (h : (s.dest d).rl.active = some ⟨step, some cmd, n⟩) :
    let t := s.carryGrant d .readLane
    (t.dest d).outstanding = some ⟨cmd, .readLane⟩ ∧ (t.dest d).abandoned = false ∧ (t.dest d).timer = true
      ∧ (t.dest d).arb = { (s.dest d).arb with grants := 0 } ∧ (t.dest d).rl.active = some ⟨step, none, n⟩
      ∧ t.lines = s.lines ++ [.drive d cmd] := by
  simp [State.carryGrant, h, State.issueDrive, State.emitLine_lines_eq]

theorem Arbiter.reset_sound : Arbiter.reset.Sound := ⟨List.Perm.refl _, by decide⟩

theorem State.carryGrant_sound {s : State} {d : DestNo} (hs : (s.dest d).arb.Sound) (g : Grant) :
    ((s.carryGrant d g).dest d).arb.Sound := by
  cases g with
  | writer w =>
    cases h : s.formWrite d w with
    | none => simpa [State.carryGrant, h] using hs
    | some r =>
      have := (s.carryGrant_writer h).2.2.2.1
      rw [this]
      exact ⟨(rotate_perm _ w).trans hs.1, by simp only; omega⟩
  | readLane =>
    simp only [State.carryGrant]
    split
    · simp only [State.dest_modDest_self, State.issueDrive, State.dest_emitLine]
      exact ⟨hs.1, by simp⟩
    · exact hs

/-- What an allocation places lies at the bump pointers and below the bounds of the attempt. -/
theorem DestPort.allocate_placed {x : DestPort} {attempt n : Nat} {w : Window} {t : Nat}
    (h : x.allocate attempt n = .placed w t) :
    ∃ b, x.binding = some b ∧ w = ⟨b.nextUnit, n⟩ ∧ t = b.nextTrailer ∧ b.nextTrailer < b.strip
      ∧ b.nextUnit + n ≤ (if attempt = 1 then b.ceiling else b.dataUnits) := by
  unfold DestPort.allocate at h
  split at h
  · cases h
  · rename_i b hb
    refine ⟨b, hb, ?_⟩
    split at h
    · rename_i ha
      split at h
      · cases h
      · split at h
        · rename_i hc
          cases h
          exact ⟨rfl, rfl, hc.2, by rw [if_pos ha]; exact hc.1⟩
        · cases h
    · rename_i ha
      split at h
      · cases h
      · rename_i hc
        split at h
        · cases h
          exact ⟨rfl, rfl, ‹_›, by rw [if_neg ha]; omega⟩
        · cases h

theorem Binding.ceiling_le (b : Binding) : b.ceiling ≤ b.dataUnits := Nat.sub_le _ _

/-- A placed allocation moves the pointers within their bounds. -/
theorem Binding.Sound.advance {b : Binding} (h : b.Sound) {n : Nat} (hn : b.nextUnit + n ≤ b.dataUnits)
    (ht : b.nextTrailer < b.strip) :
    ({ b with nextUnit := b.nextUnit + n, nextTrailer := b.nextTrailer + 1 } : Binding).Sound := by
  obtain ⟨h1, h2, h3, h4⟩ := h
  exact ⟨by simp only; omega, hn, by simp only; omega, ht⟩

end Sys2Proof.Machine
end

