-- ==== Sys2Proof/Laws/Bytes.lean ====
section
/-! SUPPORT. Laws/Bytes.lean: numbers written as bytes are read back as they were (R181). -/

namespace Sys2Proof.Bytes

@[simp] theorem le_length (n x : Nat) : (le n x).length = n := by
  induction n generalizing x with
  | zero => rfl
  | succ n ih => simp [le, ih]

@[simp] theorem be_length (n x : Nat) : (be n x).length = n := by simp [be]

/-- A number that fits `n` bytes is read back from them. -/
theorem ofLe_le {n x : Nat} (h : x < 256 ^ n) : ofLe (le n x) = x := by
  induction n generalizing x with
  | zero => simp [le, ofLe]; omega
  | succ n ih =>
    have hx : x / 256 < 256 ^ n := by
      rw [Nat.div_lt_iff_lt_mul (by norm_num)]; simpa [pow_succ] using h
    simp only [le, ofLe, ih hx, BitVec.toNat_ofNat]
    omega

theorem ofBe_be {n x : Nat} (h : x < 256 ^ n) : ofBe (be n x) = x := by simp [ofBe, be, ofLe_le h]

/-- A field of a fixed layout is read and the rest goes on. -/
theorem readFields_le {n x : Nat} (h : x < 256 ^ n) (ns : List Nat) (rest : List Byte) :
    readFields (n :: ns) (le n x ++ rest) = (readFields ns rest).map (x :: ·) := by
  simp only [readFields, List.length_append, le_length]
  rw [if_neg (by omega)]
  have h1 : (le n x ++ rest).take n = le n x := by
    rw [List.take_append_of_le_length (by simp)]; simp [List.take_of_length_le]
  have h2 : (le n x ++ rest).drop n = rest := by
    rw [List.drop_append_of_le_length (by simp)]; simp [List.drop_of_length_le]
  rw [h1, h2, ofLe_le h]

end Sys2Proof.Bytes
end

