-- ==== Sys2Proof/Laws/Requests.lean ====
section
/-! SUPPORT. Laws/Requests.lean: what admission and an answer at once leave, said once (R173, R176). -/

namespace Sys2Proof.Machine

theorem State.quiet_takeEntry (s : State) (e : EntryNo) (tag : Byte) (code : Nat) :
    s.quiet.takeEntry e tag code = s.quiet.owing e tag code := rfl

/-- A reply given back for an entry still owed. -/
theorem State.reply_of_owed {s : State} {e : EntryNo} {tag : Byte} {code : Nat}
    (h : s.link.table[e] = some ⟨tag, code, false⟩) (st : Status) (b : List Byte) :
    s.reply e st b = s.answered e tag code st b := by
  unfold State.reply Link.queueReply
  rw [h]
  rfl

/-- A request answered as it is taken. -/
theorem State.reply_owing (s : State) (e : EntryNo) (tag : Byte) (code : Nat) (st : Status) (b : List Byte) :
    (s.owing e tag code).reply e st b = s.answered e tag code st b := by
  rw [State.reply_of_owed (tag := tag) (code := code) (by simp [State.owing])]
  simp [State.answered, State.owing]

/-- A request its owner refuses. -/
theorem State.request_refuse {s : State} {e : EntryNo} {tag : Byte} {code : Nat} {owner : EntryNo → State → Ruling}
    {st : Status} (h : s.link.freeEntry = some e) (ho : owner e (s.owing e tag code) = .refuse st) :
    s.request tag code owner = .next (s.answered e tag code st []) := by
  rw [State.request_of_free h]
  change (owner e (s.owing e tag code)).carry e (s.owing e tag code) = _
  rw [ho, Ruling.carry_refuse, State.reply_owing]

/-- A request its owner takes and answers at once. -/
theorem State.request_tell {s s' : State} {e : EntryNo} {tag : Byte} {code : Nat} {owner : EntryNo → State → Ruling}
    {b : List Byte} (h : s.link.freeEntry = some e) (ho : owner e (s.owing e tag code) = .tell b s') :
    s.request tag code owner = .next (s'.reply e .ok b) := by
  rw [State.request_of_free h]
  change (owner e (s.owing e tag code)).carry e (s.owing e tag code) = _
  rw [ho, Ruling.carry_tell]

/-- The entry a request takes was free (R173). -/
theorem Link.freeEntry_free {l : Link} {e : EntryNo} (h : l.freeEntry = some e) : l.table[e] = none := by
  have := List.find?_some h
  simpa using this

/-- The lowest-numbered free entry: every lower one is in use (R173). -/
theorem Link.freeEntry_lowest {l : Link} {e : EntryNo} (h : l.freeEntry = some e) {f : EntryNo} (hf : f < e) :
    (l.table[f]).isSome := by
  unfold freeEntry at h
  rw [List.find?_eq_some_iff_append] at h
  obtain ⟨-, as, bs, hl, ha⟩ := h
  have hall : allEntries.Pairwise (· < ·) := by decide
  have hmem : ∀ g : EntryNo, g ∈ allEntries := by decide
  have : f ∈ as := by
    have hf' := hmem f
    rw [hl] at hf' hall
    rcases List.mem_append.1 hf' with h | h
    · exact h
    · exfalso
      have hp := (List.pairwise_append.1 hall).2.1
      rcases List.mem_cons.1 h with h | h
      · exact absurd hf (by rw [h]; exact lt_irrefl _)
      · exact absurd hf (not_lt_of_gt ((List.pairwise_cons.1 hp).1 f h))
  have := ha f this
  simpa [Option.isSome_iff_ne_none] using this

end Sys2Proof.Machine
end

