-- ==== Sys2Proof/Laws/Table.lean ====
section
/-! SUPPORT. Laws/Table.lean: what reading and writing a numbered table does, and that every operation keeps the
canonical form. -/

namespace Sys2Proof.Table

variable {α : Type}

/-- The numbers in use. -/
def keys (t : List (Nat × α)) : List Nat := t.map Prod.fst

@[simp] theorem keys_nil : keys ([] : List (Nat × α)) = [] := rfl

@[simp] theorem keys_cons (p : Nat × α) (t : List (Nat × α)) : keys (p :: t) = p.1 :: keys t := rfl

theorem wf_iff (t : List (Nat × α)) : wf t = true ↔ (keys t).Pairwise (· < ·) := by simp [wf, keys]

@[simp] theorem wf_nil : wf ([] : List (Nat × α)) = true := by simp [wf]

/-! ### Reading after writing -/

@[simp] theorem find_insert_self (k : Nat) (v : α) (t : List (Nat × α)) : find k (insert k v t) = some v := by
  induction t with
  | nil => simp [insert, find]
  | cons p t ih =>
    obtain ⟨k', v'⟩ := p
    simp only [insert]
    split_ifs with h1 h2
    · simp [find]
    · simp [find]
    · simp [find, h2, ih]

theorem find_insert_of_ne {k k' : Nat} (h : k' ≠ k) (v : α) (t : List (Nat × α)) :
    find k' (insert k v t) = find k' t := by
  induction t with
  | nil => simp [insert, find, h]
  | cons p t ih =>
    obtain ⟨k'', v''⟩ := p
    simp only [insert]
    split_ifs with h1 h2
    · simp [find, h]
    · subst h2
      simp [find, h]
    · simp only [find, ih]

@[simp] theorem find_erase_self (k : Nat) (t : List (Nat × α)) : find k (erase k t) = none := by
  induction t with
  | nil => rfl
  | cons p t ih =>
    obtain ⟨k', v'⟩ := p
    simp only [erase]
    split_ifs with h
    · exact ih
    · simp [find, h, ih]

theorem find_erase_of_ne {k k' : Nat} (h : k' ≠ k) (t : List (Nat × α)) : find k' (erase k t) = find k' t := by
  induction t with
  | nil => rfl
  | cons p t ih =>
    obtain ⟨k'', v''⟩ := p
    simp only [erase]
    split_ifs with h1
    · subst h1
      simp [find, h, ih]
    · simp only [find, ih]

theorem find_mapAll (f : Nat → α → α) (k : Nat) (t : List (Nat × α)) : find k (mapAll f t) = (find k t).map (f k) := by
  induction t with
  | nil => rfl
  | cons p t ih =>
    obtain ⟨k', v'⟩ := p
    simp only [mapAll, List.map_cons, find]
    split_ifs with h
    · subst h; rfl
    · exact ih

theorem mem_keys_of_find {k : Nat} {v : α} {t : List (Nat × α)} (h : find k t = some v) : k ∈ keys t := by
  induction t with
  | nil => simp [find] at h
  | cons p t ih =>
    obtain ⟨k', v'⟩ := p
    simp only [find] at h
    split_ifs at h with hk
    · simp [hk]
    · simp [ih h]

/-! ### The canonical form -/

theorem mem_keys_insert {k j : Nat} (v : α) (t : List (Nat × α)) : j ∈ keys (insert k v t) ↔ j = k ∨ j ∈ keys t := by
  induction t with
  | nil => simp [insert]
  | cons p t ih =>
    obtain ⟨k', v'⟩ := p
    simp only [insert]
    split_ifs with h1 h2
    · simp
    · subst h2; simp
    · simp only [keys_cons, List.mem_cons, ih]; tauto

/-- Writing keeps the canonical form. -/
theorem wf_insert {t : List (Nat × α)} (h : wf t = true) (k : Nat) (v : α) : wf (insert k v t) = true := by
  rw [wf_iff] at h ⊢
  induction t with
  | nil => simp [insert]
  | cons p t ih =>
    obtain ⟨k', v'⟩ := p
    simp only [keys_cons, List.pairwise_cons] at h
    simp only [insert]
    split_ifs with h1 h2
    · simp only [keys_cons, List.pairwise_cons, List.mem_cons]
      exact ⟨fun a ha => ha.elim (· ▸ h1) fun ha => h1.trans (h.1 a ha), h⟩
    · subst h2; simpa using h
    · simp only [keys_cons, List.pairwise_cons]
      refine ⟨fun a ha => ?_, ih h.2⟩
      rcases (mem_keys_insert v t).1 ha with rfl | ha
      · omega
      · exact h.1 a ha

theorem keys_erase_sublist (k : Nat) (t : List (Nat × α)) : (keys (erase k t)).Sublist (keys t) := by
  induction t with
  | nil => simp [erase]
  | cons p t ih =>
    obtain ⟨k', v'⟩ := p
    simp only [erase]
    split_ifs with h
    · exact ih.cons _
    · exact ih.cons_cons _

/-- Freeing a record keeps the canonical form. -/
theorem wf_erase {t : List (Nat × α)} (h : wf t = true) (k : Nat) : wf (erase k t) = true := by
  rw [wf_iff] at h ⊢
  exact h.sublist (keys_erase_sublist k t)

@[simp] theorem keys_mapAll (f : Nat → α → α) (t : List (Nat × α)) : keys (mapAll f t) = keys t := by
  simp [keys, mapAll, Function.comp_def]

/-- Changing every record in place keeps the canonical form. -/
theorem wf_mapAll {t : List (Nat × α)} (h : wf t = true) (f : Nat → α → α) : wf (mapAll f t) = true := by
  rw [wf_iff] at h ⊢; simpa using h

/-- Dropping records keeps the canonical form. -/
theorem wf_filter {t : List (Nat × α)} (h : wf t = true) (p : Nat × α → Bool) : wf (t.filter p) = true := by
  rw [wf_iff] at h ⊢
  exact h.sublist ((List.filter_sublist).map _)

/-- Writing a record in use leaves the numbers in use as they were. -/
theorem keys_insert_of_mem {t : List (Nat × α)} (h : wf t = true) {k : Nat} (hk : k ∈ keys t) (v : α) :
    keys (insert k v t) = keys t := by
  rw [wf_iff] at h
  induction t with
  | nil => simp at hk
  | cons p t ih =>
    obtain ⟨k', v'⟩ := p
    simp only [keys_cons, List.pairwise_cons, List.mem_cons] at h hk
    simp only [insert]
    split_ifs with h1 h2
    · rcases hk with rfl | hk
      · omega
      · have := h.1 k hk; omega
    · subst h2; rfl
    · have hk' : k ∈ keys t := by
        rcases hk with rfl | hk
        · exact absurd rfl h2
        · exact hk
      simp [ih h.2 hk']

/-- A new record joins the numbers in use. -/
theorem keys_insert_perm {t : List (Nat × α)} {k : Nat} (hk : k ∉ keys t) (v : α) :
    (keys (insert k v t)).Perm (k :: keys t) := by
  induction t with
  | nil => simp [insert]
  | cons p t ih =>
    obtain ⟨k', v'⟩ := p
    simp only [keys_cons, List.mem_cons, not_or] at hk
    simp only [insert]
    split_ifs with h1 h2
    · simp
    · exact absurd h2 hk.1
    · exact ((ih hk.2).cons k').trans (List.Perm.swap _ _ _)

/-- A record freed leaves the numbers in use. -/
theorem keys_erase_perm {t : List (Nat × α)} (h : wf t = true) {k : Nat} (hk : k ∈ keys t) :
    (k :: keys (erase k t)).Perm (keys t) := by
  rw [wf_iff] at h
  induction t with
  | nil => simp at hk
  | cons p t ih =>
    obtain ⟨k', v'⟩ := p
    simp only [keys_cons, List.pairwise_cons, List.mem_cons] at h hk
    simp only [erase]
    split_ifs with h1
    · subst h1
      have : keys (erase k t) = keys t := by
        clear ih hk
        have hn : ∀ a ∈ keys t, k < a := h.1
        clear h
        induction t with
        | nil => rfl
        | cons q t iht =>
          obtain ⟨k2, v2⟩ := q
          have h2 : k < k2 := hn k2 (by simp)
          simp only [erase]
          rw [if_neg (by omega)]
          simp [iht fun a ha => hn a (by simp [ha])]
      simp [this]
    · have hk' : k ∈ keys t := hk.resolve_left h1
      exact (List.Perm.swap _ _ _).trans ((ih h.2 hk').cons k')

end Sys2Proof.Table
end

