-- ==== Sys2Proof/Laws/Ring.lean ====
section
/-! SUPPORT. Laws/Ring.lean: what giving, changing and freeing a slot do to the ring, said once (R58–R66). -/

namespace Sys2Proof.Machine

open Table

/-! ### Giving a slot (R59) -/

/-- A slot given is the head of the free list, FILLING for its requester; without a free slot, or a clip, none is given. -/
theorem State.giveSlot_cases {s s' : State} {r : Requester} {c k n : Nat} (h : s.giveSlot r c k = some (n, s')) :
    ∃ rest x, s.ring.freeList = n :: rest ∧ s.clip? c = some x
      ∧ s'.ring =
        { s.ring with
          freeList := rest
          held := Table.insert n
            { state := .filling, owner := r, clip := c, unit := k, byteCount := unitByteCount x.length k, pending := [],
              data := [] } s.ring.held } := by
  unfold State.giveSlot at h
  split at h
  · simp only [Option.some.injEq, Prod.mk.injEq] at h
    obtain ⟨rfl, rfl⟩ := h
    exact ⟨_, _, ‹_›, ‹_›, by simp⟩
  · cases h

theorem nodup_of_sound {r : Ring} (h : r.Sound) : (r.freeList ++ r.held.map Prod.fst).Nodup :=
  h.2.nodup_iff.2 List.nodup_range

theorem State.giveSlot_sound {s s' : State} (hs : s.ring.Sound) {r : Requester} {c k n : Nat}
    (h : s.giveSlot r c k = some (n, s')) : s'.ring.Sound := by
  obtain ⟨rest, x, hf, -, hr⟩ := s.giveSlot_cases h
  rw [hr]
  refine ⟨wf_insert hs.1 _ _, ?_⟩
  have hn : n ∉ keys s.ring.held := by
    have := nodup_of_sound hs
    rw [hf, List.cons_append, List.nodup_cons] at this
    exact fun hm => this.1 (List.mem_append_right _ hm)
  refine List.Perm.trans ?_ hs.2
  rw [hf, List.cons_append]
  exact (List.Perm.append_left rest (keys_insert_perm hn _)).trans List.perm_middle

/-! ### Freeing a slot (R64) -/

/-- A slot freed joins the tail of the free list; a FREE slot is left as it is. -/
theorem State.freeSlot_ring (s : State) (n : Nat) :
    (s.slot? n = none ∧ s.freeSlot n = s)
      ∨ ((s.slot? n).isSome ∧ (s.freeSlot n).ring =
          { s.ring with freeList := s.ring.freeList ++ [n], held := Table.erase n s.ring.held }) := by
  unfold State.freeSlot
  split
  · exact .inl ⟨‹_›, rfl⟩
  · rename_i x hx; exact .inr ⟨by simp [hx], by simp⟩

theorem State.freeSlot_sound {s : State} (hs : s.ring.Sound) (n : Nat) : (s.freeSlot n).ring.Sound := by
  rcases s.freeSlot_ring n with ⟨-, h⟩ | ⟨hx, h⟩
  · rw [h]; exact hs
  · rw [h]
    obtain ⟨x, hx⟩ := Option.isSome_iff_exists.1 hx
    have hk : n ∈ keys s.ring.held := mem_keys_of_find hx
    refine ⟨wf_erase hs.1 _, List.Perm.trans ?_ hs.2⟩
    rw [List.append_assoc, List.singleton_append]
    exact List.Perm.append_left _ (keys_erase_perm hs.1 hk)

/-! ### Changing a slot -/

theorem State.modSlot_sound {s : State} (hs : s.ring.Sound) (n : Nat) (f : Slot → Slot) : (s.modSlot n f).ring.Sound := by
  unfold State.modSlot
  split
  · exact hs
  · rename_i x hx
    refine ⟨wf_insert hs.1 _ _, ?_⟩
    have := keys_insert_of_mem hs.1 (mem_keys_of_find hx) (f x)
    simp only [keys] at this
    rw [show (Table.insert n (f x) s.ring.held).map Prod.fst = s.ring.held.map Prod.fst from this]
    exact hs.2

theorem State.leavePending_sound {s : State} (hs : s.ring.Sound) (c : Nat) (d : DestNo) : (s.leavePending c d).ring.Sound := by
  have key (f : Nat → Slot → Slot) :
      ({ s.ring with held := Table.mapAll f s.ring.held } : Ring).Sound := by
    refine ⟨wf_mapAll hs.1 f, ?_⟩
    have := keys_mapAll f s.ring.held
    simp only [keys] at this
    simp only [this]
    exact hs.2
  exact key _

end Sys2Proof.Machine
end

