-- ==== Sys2Proof/Tests/Slice0.lean ====
section
/-! SUPPORT. Tests/Slice0.lean: the model run on the manual's own examples, and a witness for every statement with
hypotheses.

Expected values come from the manual: its worked examples and tables, or hand calculation from a rule.  Each theorem
is about one command on a small state. -/

namespace Sys2Proof.Tests

set_option Elab.async false

open Sys2Proof Sys2Proof.Machine

/-! ## Helpers -/

/-- The next state of an outcome. -/
def after : Host.Outcome State Fault Refusal → Option State
  | .next t => some t
  | .fault _ => none
  | .refused _ => none

/-- A fact about the next state of an outcome. -/
def gives (o : Host.Outcome State Fault Refusal) (f : State → Bool) : Bool := (after o).any f

/-- The frames queued last. -/
def answers (o : Host.Outcome State Fault Refusal) (kind : Byte) (payload : List Byte) : Bool :=
  gives o fun t => (t.link.outq.getLast?).any fun f => decide (f.kind = kind ∧ f.payload = payload)

/-- The engine with few slots, so that a test stays small. -/
def base : State := { State.reset with ring := { freeList := [0, 1, 2, 3], held := [], waitList := [] } }

/-- An area of D = 10 units, one in reserve, behind a strip of 64 trailers; nothing allocated. -/
def area0 : Binding :=
  { areaStart := 2048, area := 20544, strip := 64, spare := 1, firstUnit := 0, firstTrailer := 0, nextUnit := 0
    nextTrailer := 0 }

/-- A destination in use. -/
def drive0 : DestPort := { DestPort.reset with present := true, capacity := some 100000, state := .active, binding := some area0 }

/-- The card of the tests. -/
def card0 : Identity := ⟨7, 4000⟩

/-- A clip of ten bytes of job 0 (section 3.4). -/
def clip0 (st : ClipState) : Clip :=
  { job := 0, state := st, length := 10, extents := [⟨5, 1⟩], token := [0x41], sum := none, unstable := false
    mstatus := .none, prior := none, copies := #v[none, none, none, none] }

/-- The ten bytes of section 3.4. -/
def ten : List Byte := [1, 2, 3, 4, 5, 6, 7, 8, 9, 10]

/-- Their closed sum (section 3.4). -/
def sum0 : ClosedSum := ⟨201986576, 471276569, 0x507A7660#32⟩

/-- A copy of one unit at the start of the area. -/
def copy0 (st : CopyState) : Copy :=
  { state := st, origin := .plan, attempt := 1, window := some ⟨0, 1⟩, trailer := some 0, written := 0
    suspended := false, readback := none }

/-- Job 0 with the card in CP2 and clip 0 in its list. -/
def job0 (st : JobState) : Job :=
  { Job.free with state := st, identity := some card0, boundPort := some 2, clips := [0] }

/-- A port bound to job 0. -/
def port0 : CardPort :=
  { CardPort.idle true with state := .bound, identity := some card0, boundJob := some 0, lamp := .amber }

/-- Job 0 in a state, its card in CP2, with clip 0 as given. -/
def withJob (st : JobState) (x : Clip) : State :=
  (((base.setJob 0 (job0 st)).setPort 2 port0).setClip 0 x).setDest 0 drive0

/-- The plan of the tests: one mirror, DP0, and R = 1. -/
def plan0 : Plan := { r := 1, roles := #v[.mirror, .off, .off, .off], lock := false }

/-! ## WellFormed refuses what no link can deliver -/

theorem test_wellFormed_seated_rising : (Instr.powerOnReset .eightPort [3, 1]).wellFormed = false := by decide
theorem test_wellFormed_planSet : (Instr.planSet 0 256 0 0 0 0).wellFormed = false := by decide
theorem test_wellFormed_destBind :
    (Instr.destBind 0 256 0 0 0 0 0 0).wellFormed = false ∧ (Instr.destBind 0 0 (2 ^ 48) 0 0 0 0 0).wellFormed = false
      ∧ (Instr.destBind 0 0 0 (2 ^ 48) 0 0 0 0).wellFormed = false
      ∧ (Instr.destBind 0 0 0 0 (2 ^ 32) 0 0 0).wellFormed = false
      ∧ (Instr.destBind 0 0 0 0 0 65536 0 0).wellFormed = false
      ∧ (Instr.destBind 0 0 0 0 0 0 (2 ^ 48) 0).wellFormed = false
      ∧ (Instr.destBind 0 0 0 0 0 0 0 (2 ^ 32)).wellFormed = false := by decide
theorem test_wellFormed_oneByte :
    (Instr.destUnbind 0 256).wellFormed = false ∧ (Instr.destQuery 0 256).wellFormed = false
      ∧ (Instr.jobOpen 0 256).wellFormed = false ∧ (Instr.jobPause 0 256).wellFormed = false
      ∧ (Instr.jobResume 0 256).wellFormed = false ∧ (Instr.jobAbandon 0 256).wellFormed = false
      ∧ (Instr.jobClose 0 256).wellFormed = false ∧ (Instr.jobQuery 0 256).wellFormed = false
      ∧ (Instr.manifestRead 0 256).wellFormed = false ∧ (Instr.faultClear 0 256).wellFormed = false := by decide
theorem test_wellFormed_sectorRead :
    (Instr.sectorRead 0 256 0 1).wellFormed = false ∧ (Instr.sectorRead 0 0 (2 ^ 48) 1).wellFormed = false
      ∧ (Instr.sectorRead 0 0 0 256).wellFormed = false := by decide
theorem test_wellFormed_clipAdd :
    (Instr.clipAdd 0 256 []).wellFormed = false ∧ (Instr.clipAdd 0 0 [⟨2 ^ 40, [], []⟩]).wellFormed = false
      ∧ (Instr.clipAdd 0 0 [⟨1, [], [⟨2 ^ 48, 1⟩]⟩]).wellFormed = false
      ∧ (Instr.clipAdd 0 0 [⟨1, [], [⟨0, 2 ^ 32⟩]⟩]).wellFormed = false
      ∧ (Instr.clipAdd 0 0 [⟨1, List.replicate 256 0, []⟩]).wellFormed = false
      ∧ (Instr.clipAdd 0 0 [⟨1, [], List.replicate 256 ⟨0, 1⟩⟩]).wellFormed = false
      ∧ (Instr.clipAdd 0 0 (List.replicate 256 ⟨0, [], []⟩)).wellFormed = false := by decide +kernel
theorem test_wellFormed_clipAdd_size :
    (Instr.clipAdd 0 0 (List.replicate 8 ⟨1, [], List.replicate 64 ⟨0, 1⟩⟩)).wellFormed = false := by decide +kernel
theorem test_wellFormed_jobStart :
    (Instr.jobStart 0 256 0 0).wellFormed = false ∧ (Instr.jobStart 0 0 65536 0).wellFormed = false
      ∧ (Instr.jobStart 0 0 0 256).wellFormed = false := by decide
theorem test_wellFormed_clips :
    (Instr.clipQuery 0 (.byNumber 65536)).wellFormed = false
      ∧ (Instr.clipQuery 0 (.byTag (2 ^ 32) 0)).wellFormed = false
      ∧ (Instr.clipQuery 0 (.byTag 0 (2 ^ 40))).wellFormed = false
      ∧ (Instr.clipExclude 0 65536).wellFormed = false ∧ (Instr.clipRetry 0 65536).wellFormed = false
      ∧ (Instr.copyAdd 0 65536 0).wellFormed = false ∧ (Instr.copyAdd 0 0 256).wellFormed = false := by decide
theorem test_wellFormed_faultRoute :
    (Instr.faultRoute 0 256 0).wellFormed = false ∧ (Instr.faultRoute 0 0 256).wellFormed = false := by decide
theorem test_wellFormed_reports :
    (Instr.cardIn 0 (2 ^ 64) 1).wellFormed = false ∧ (Instr.cardIn 0 1 (2 ^ 48)).wellFormed = false
      ∧ (Instr.driveIn 0 0).wellFormed = false ∧ (Instr.driveIn 0 (2 ^ 48)).wellFormed = false := by decide

/-! ## Words of the control link -/

/-- R168's worked value, and the frame of section 11.3's example. -/
theorem test_crc : Bytes.crc [0x31, 0x32, 0x33, 0x34, 0x35, 0x36, 0x37, 0x38, 0x39] = 0x29B1#16 := by decide +kernel
theorem test_identify_frame :
    requestFrame (.identify 5) = some [0xB5, 0x4A, 0x01, 0x05, 0x00, 0x00, 0x19, 0x84] := by decide +kernel
/-- The example of section 11.3: the request runs, the second frame is discarded, the parser is back in HUNT. -/
theorem test_frame_boundary :
    gives (feedBytes [0x00, 0xB5, 0xB5, 0x4A, 0x01, 0x05, 0x00, 0x00, 0x19, 0x84, 0xB5, 0x4A, 0x30, 0x06, 0x00, 0x20] base)
      (fun t => decide (t.link.parser = .hunt ∧ t.link.outq.length = 1 ∧ t.link.table[0] = some ⟨5, 1, true⟩)) = true := by
  decide +kernel
/-- Had the check been 0x1985, LINK_CHECK would have been raised. -/
theorem test_link_check :
    gives (feedBytes [0xB5, 0x4A, 0x01, 0x05, 0x00, 0x00, 0x19, 0x85] base)
      (fun t => t.faults.flag .linkCheck && decide (t.link.parser = .hunt)) = true := by decide +kernel
theorem test_table_has_no_words : decodeTableWord 8 0 = none := rfl
/-- One payload for each family of requests, written out from the layouts of section 11.7. -/
theorem test_payload_words :
    decodeRequest 0x02 5 [] = .good (.status 5) ∧ decodeRequest 0x03 5 [] = .good (.reset 5)
      ∧ decodeRequest 0x09 5 [] = .good (.planLock 5) ∧ decodeRequest 0x0A 5 [] = .good (.planQuery 5)
      ∧ decodeRequest 0x11 5 [2] = .good (.destUnbind 5 2) ∧ decodeRequest 0x12 5 [2] = .good (.destQuery 5 2)
      ∧ decodeRequest 0x20 5 [7] = .good (.jobOpen 5 7) ∧ decodeRequest 0x23 5 [3] = .good (.jobPause 5 3)
      ∧ decodeRequest 0x24 5 [3] = .good (.jobResume 5 3) ∧ decodeRequest 0x25 5 [3] = .good (.jobAbandon 5 3)
      ∧ decodeRequest 0x26 5 [3] = .good (.jobClose 5 3) ∧ decodeRequest 0x27 5 [3] = .good (.jobQuery 5 3)
      ∧ decodeRequest 0x28 5 [0, 0xFF, 0x0F] = .good (.clipQuery 5 (.byNumber 4095))
      ∧ decodeRequest 0x29 5 [0x34, 0x02] = .good (.clipExclude 5 564)
      ∧ decodeRequest 0x2A 5 [0x34, 0x02] = .good (.clipRetry 5 564)
      ∧ decodeRequest 0x38 5 [] = .good (.faultRead 5) ∧ decodeRequest 0x39 5 [8] = .good (.faultClear 5 8)
      ∧ decodeRequest 0x3F 5 [] = .unknown ∧ decodeRequest 0x01 5 [0] = .malformed
      ∧ decodeRequest 0x28 5 [2, 0, 0] = .malformed := by decide +kernel

/-! ## The manual's arithmetic -/

/-- Section 3.4. -/
theorem test_ten_byte_sum : Sums.start.feed ten = ⟨201986576, 471276569⟩ ∧ (Sums.start.feed ten).close 10 = sum0 := by
  decide +kernel
/-- Section 3.5: the reduction of S1 at its edges, and the short clips. -/
theorem test_sum_limits :
    (Sums.step ⟨10, 0⟩ 4294967295).s1 = 14 ∧ (Sums.step ⟨4294967290, 0⟩ 4294967295).s1 = 3
      ∧ (Sums.step ⟨500, 0⟩ 4294967291).s1 = 500 ∧ (Sums.start.close 0).f = 1#32
      ∧ (Sums.start.feed [0, 0, 0, 0]).close 4 = ⟨1, 1, 17#32⟩
      ∧ (Sums.start.feed [0xFB, 0xFF, 0xFF, 0xFF]).close 4 = ⟨1, 1, 17#32⟩
      ∧ (Sums.start.feed [5]).close 1 = ⟨6, 6, 10#32⟩ ∧ (Sums.start.feed [5, 0]).close 2 = ⟨6, 6, 30#32⟩ := by
  decide +kernel
/-- Section 2.10. -/
theorem test_pieces :
    let x : Clip := { clip0 .listed with length := 3000000, extents := [⟨1000, 1500⟩, ⟨9000, 3000⟩, ⟨20000, 2000⟩] }
    unitCount x.length = 3 ∧ unitPieces x 0 = [(1000, 1500), (9000, 548)] ∧ unitPieces x 1 = [(9548, 2048)]
      ∧ unitPieces x 2 = [(11596, 404), (20000, 1360)] ∧ unitByteCount x.length 2 = 902848 := by decide +kernel
/-- Section 5.6: allocations that fill an area. -/
theorem test_allocations :
    let b : Binding :=
      { areaStart := 0, area := 106496, strip := 4, spare := 8, firstUnit := 0, firstTrailer := 0, nextUnit := 0, nextTrailer := 0 }
    let x (u t : Nat) (st : DestState) : DestPort :=
      { drive0 with state := st, binding := some { b with nextUnit := u, nextTrailer := t } }
    b.dataUnits = 51 ∧ b.ceiling = 43
      ∧ (x 0 0 .active).allocate 1 30 = .placed ⟨0, 30⟩ 0 ∧ (x 30 1 .active).allocate 1 10 = .placed ⟨30, 10⟩ 1
      ∧ (x 40 2 .active).allocate 1 5 = .noRoom true ∧ (x 40 2 .full).allocate 2 10 = .placed ⟨40, 10⟩ 2
      ∧ (x 50 3 .full).allocate 2 30 = .noRoom false := by decide +kernel
/-- Section 5.6: a large clip on a large area. -/
theorem test_large_area :
    let b : Binding :=
      { areaStart := 2048, area := 3906250000, strip := 8192, spare := 64, firstUnit := 0, firstTrailer := 0
        nextUnit := 0, nextTrailer := 0 }
    b.dataUnits = 1907344 ∧ b.ceiling = 1907280 ∧ unitCount 5000000000 = 4769 ∧ b.unitLba 4768 = 9775104
      ∧ sectorsOf (unitByteCount 5000000000 4768) = 761 ∧ b.trailerLba 1 = 2049 := by decide +kernel

/-! ## One command on a small state -/

/-- A requester's slot for clip 0, unit 0. -/
def slot0 (st : SlotState) (pending : List DestNo) (data : List Byte) : Slot :=
  { state := st, owner := .job 0, clip := 0, unit := 0, byteCount := 10, pending := pending, data := data }

/-- The sector that holds the ten bytes. -/
def sector0 : List Byte := ten ++ List.replicate 502 0

/-- The piece of unit 0 of clip 0. -/
def piece0 : ReaderItem := ⟨.job 0 0 0, 5, 1⟩

/-- Clip 0 with a copy on DP0. -/
def clipWith (st : ClipState) (k : Copy) : Clip :=
  { clip0 st with sum := if st = .reading then none else some sum0, copies := #v[some k, none, none, none] }

/-- Job 0 started: R = 1, mirror DP0. -/
def jobRunning : Job :=
  { job0 .running with snapshot := some { r := 1, mirrors := [0], spares := [] }, held := 1 }

/-- Job 0 reads unit 0 of clip 0, its one piece outstanding at CP2. -/
def reading : State :=
  { ((((base.setJob 0 jobRunning).setPort 2
        { port0 with fifo := [piece0], outstanding := some ⟨piece0, 1, none⟩, readerTimer := true }).setClip
      0 (clipWith .reading (copy0 .writing))).setDest 0 drive0) with
    ring := { freeList := [1, 2, 3], held := [(0, slot0 .filling [] [])], waitList := [] } }

/-- The WRITE of unit 0 at the start of the area. -/
def write0 : DriveCmd := { kind := .write, lba := 2112, count := 1, data := sector0 }

/-- Job 0 draining, the WRITE of its one unit outstanding on DP0, the trailer behind it. -/
def writing : State :=
  { ((((base.setJob 0 { jobRunning with state := .draining, readPos := ⟨1, 0⟩ }).setPort 2 port0).setClip
      0 (clipWith .read (copy0 .writing))).setDest 0
        { (drive0.setQueue (.wq 0) [Item.new 0 (.data 0), Item.new 0 .trailer]) with
          outstanding := some ⟨write0, .data (.wq 0) 0 1 0⟩, timer := true }) with
    ring := { freeList := [1, 2, 3], held := [(0, slot0 .staged [0] ten)], waitList := [] } }

/-- Job 0 draining, its copy under verification with the trailer's READ outstanding. -/
def verifying : State :=
  (((base.setJob 0 { jobRunning with state := .draining, held := 0 }).setPort 2 port0).setClip
      0 (clipWith .read (copy0 .verifying))).setDest 0
        { drive0 with
          outstanding := some ⟨⟨.read, 2048, 1, []⟩, .readLane⟩, timer := true
          rl := { jobs := [.verify 0], active := some ⟨.trailer, none, 0⟩, sum := some ⟨10, ⟨201986576, 471276569⟩, 10⟩ } }

/-- The trailer of the copy (section 11.7). -/
def trailer0 : List Byte := trailerBytes 0 card0 10 sum0 ⟨0, 1⟩ 1 [0x41]

theorem test_power_on :
    gives (exec (.powerOnReset .fourPort [1, 5]) base) (fun t =>
      decide ((t.port 1).state = .mounting ∧ (t.port 5).enabled = false ∧ (t.port 5).state = .empty
        ∧ (t.port 0).state = .empty ∧ t.plan.r = 2)) = true := by decide +kernel
theorem test_soft_reset :
    gives (exec (.reset 9) reading) (fun t =>
      decide ((t.port 2).state = .mounting ∧ (t.port 2).abandoned = true ∧ (t.dest 0).state = .active ∧ t.clips = []
        ∧ t.link.outq = [replyFrame (.reply 0) 9 .ok []])) = true := by decide +kernel
theorem test_identify : answers (exec (.identify 1) base) 0x40
    ([0x42, 0x52, 0x45, 0x44, 0x53, 0x48, 0x4F, 0x4C, 0x54] ++ List.replicate 7 0
      ++ [0x57, 0x45, 0x5A, 0x50, 0x49, 0x4E, 0x20, 0x4F, 0x45, 0x31, 0x36] ++ List.replicate 5 0 ++ [1, 8, 4]) = true := by
  decide +kernel
theorem test_status_length : gives (exec (.status 1) reading) (fun t =>
    (t.link.outq.getLast?).any fun f => decide (f.payload.length = 56 ∧ f.payload.take 3 = [1, 0, 0])) = true := by
  decide +kernel
theorem test_plan_set : gives (exec (.planSet 1 2 1 1 0 2) base) (fun t =>
    decide (t.plan = { r := 2, roles := #v[.mirror, .mirror, .off, .spare], lock := false })) = true := by decide +kernel
theorem test_plan_set_few : answers (exec (.planSet 1 2 1 0 0 2) base) 0x43 [] = true := by decide +kernel
theorem test_plan_lock : gives (exec (.planLock 1) { base with plan := plan0 }) (fun t => t.plan.lock) = true := by
  decide +kernel
theorem test_plan_query : answers (exec (.planQuery 1) { withJob .loading (clip0 .listed) with plan := plan0 }) 0x40
    [1, 1, 0, 0, 0, 0, 1, 1, 0] = true := by decide +kernel
/-- The binding of section 5.6's example: D = 51 and C = 43. -/
theorem test_dest_bind : answers
    (exec (.destBind 1 2 0 106496 4 8 0 0) (base.setDest 2 { DestPort.reset with present := true, capacity := some 2000000, state := .unbound }))
    0x40 [51, 0, 0, 0, 0, 0, 43, 0, 0, 0, 0, 0] = true := by decide +kernel
theorem test_dest_bind_live : answers (exec (.destBind 1 0 0 106496 4 8 0 0) reading) 0x45 [] = true := by decide +kernel
theorem test_dest_unbind : gives (exec (.destUnbind 1 0) (base.setDest 0 drive0)) (fun t =>
    decide ((t.dest 0).state = .unbound ∧ (t.dest 0).binding = none)) = true := by decide +kernel
theorem test_sector_read : gives (exec (.sectorRead 4 2 3999 1) (withJob .loading (clip0 .listed))) (fun t =>
    decide (t.lines = [.readReq 2 3999 1] ∧ t.link.table[0] = some ⟨4, 0x18, false⟩)) = true := by decide +kernel
theorem test_sector_read_past_end : answers (exec (.sectorRead 4 2 4000 1) (withJob .loading (clip0 .listed))) 0x43 [] = true := by
  decide +kernel
theorem test_job_open : gives (exec (.jobOpen 1 3)
    (base.setPort 3 { CardPort.idle true with state := .present, identity := some card0, lamp := .amber })) (fun t =>
      decide ((t.job 0).state = .loading ∧ (t.port 3).boundJob = some 0 ∧ (t.job 0).identity = some card0)) = true := by
  decide +kernel
theorem test_clip_add : gives (exec (.clipAdd 1 0 [⟨10, [], [⟨3999, 1⟩]⟩, ⟨0, [], []⟩]) (withJob .loading (clip0 .listed)))
    (fun t => decide ((t.job 0).clips = [0, 1, 2] ∧ t.clipState? 2 = some .listed)) = true := by decide +kernel
/-- An extent that ends past the card (R6). -/
theorem test_clip_add_past_card : answers (exec (.clipAdd 1 0 [⟨10, [], [⟨4000, 1⟩]⟩]) (withJob .loading (clip0 .listed)))
    0x43 [] = true := by decide +kernel
theorem test_job_start : gives (exec (.jobStart 1 0 1 1) { withJob .loading (clip0 .listed) with plan := plan0 }) (fun t =>
    decide ((t.job 0).state = .running ∧ (t.job 0).quota = 16 ∧ (t.job 0).urgent = true ∧ t.clipState? 0 = some .reading
      ∧ t.lines = [.readReq 2 5 1] ∧ t.copy? 0 0 = some (copy0 .writing))) = true := by decide +kernel
theorem test_job_pause : gives (exec (.jobPause 1 0) reading) (fun t =>
    decide ((t.job 0).pausePending = true ∧ (t.job 0).state = .running)) = true := by decide +kernel
theorem test_job_resume : gives (exec (.jobResume 1 0)
    { withJob .paused (clipWith .reading (copy0 .writing)) with lines := [] }) (fun t =>
      decide ((t.job 0).state = .running ∧ t.lines = [.readReq 2 5 1])) = true := by decide +kernel
theorem test_job_abandon : gives (exec (.jobAbandon 1 0) writing) (fun t =>
    decide (t.job 0 = Job.free ∧ t.clips = [] ∧ (t.port 2).state = .present ∧ t.ring.freeList = [1, 2, 3, 0]
      ∧ (t.dest 0).abandoned = true)) = true := by decide +kernel
theorem test_job_close : answers (exec (.jobClose 1 0) reading) 0x45 [] = true
    ∧ gives (exec (.jobClose 1 0) (withJob .loading (clip0 .listed))) (fun t =>
        decide (t.job 0 = Job.free ∧ (t.port 2).state = .present)) = true := by decide +kernel
theorem test_job_query : answers (exec (.jobQuery 1 3) base) 0x44 [] = true
    ∧ gives (exec (.jobQuery 1 0) reading) (fun t =>
        (t.link.outq.getLast?).any fun f => decide (f.kind = 0x40)) = true := by decide +kernel
theorem test_clip_query_by_tag : gives (exec (.clipQuery 1 (.byTag 0x507A7660 10)) writing) (fun t =>
    (t.link.outq.getLast?).any fun f => decide (f.payload.take 4 = [1, 0, 0, 0])) = true := by decide +kernel
theorem test_clip_exclude : gives (exec (.clipExclude 1 0) writing) (fun t =>
    decide (t.clipState? 0 = some .excluded ∧ (t.job 0).state = .reporting ∧ t.manifest.queue.length = 1)
      && (t.copy? 0 0).any fun k => decide (k.state = .aborted)) = true := by decide +kernel
theorem test_clip_retry : gives (exec (.clipRetry 1 0)
    ((withJob .held (clip0 .sourceFault)).modJob 0 fun x => { x with snapshot := jobRunning.snapshot })) (fun t =>
      decide ((t.job 0).state = .running ∧ t.clipState? 0 = some .reading ∧ t.lines = [.readReq 2 5 1])) = true := by
  decide +kernel
theorem test_copy_add : gives (exec (.copyAdd 1 0 1) (verifying.setDest 1 drive0)) (fun t =>
    decide (t.copy? 0 1 = some { copy0 .writing with origin := .host } ∧ t.lines = [.readReq 2 5 1])) = true := by
  decide +kernel
/-- A record taken: the REPORTING job is RELEASED and its card shows GREEN (R147, R149, R150). -/
theorem test_manifest_read :
    let s := (withJob .reporting { clipWith .secured (copy0 .verified) with mstatus := .queued })
    gives (exec (.manifestRead 1 1) { s with manifest := { queue := [s.formRecord 0 (clipWith .secured (copy0 .verified))], deferred := [] } })
      (fun t => decide ((t.job 0).state = .released ∧ (t.port 2).lamp = .green ∧ t.manifest.queue = [])
        && (t.clip? 0).any fun x => decide (x.mstatus = .taken)) = true := by decide +kernel
theorem test_fault_clear : gives (exec (.faultClear 1 8) (base.raise ⟨.destLost, none, none, some 0, none, .driveRemoved⟩))
    (fun t => !t.faults.alarm && !t.faults.flag .destLost && decide (t.faults.capture = none)) = true := by decide +kernel
theorem test_fault_route : gives (exec (.faultRoute 1 0 2) (base.raise linkCheck)) (fun t => t.faults.alarm) = true := by
  decide +kernel
theorem test_fault_read : answers (exec (.faultRead 1) (base.raise ⟨.destLost, none, none, some 0, none, .driveRemoved⟩)) 0x40
    [0, 0, 0, 0, 0, 0, 0, 0, 1, 0, 0, 1, 1, 2, 1, 2, 1, 2, 0, 8, 1, 255, 255, 255, 0, 255, 6, 1] = true := by decide +kernel
theorem test_seated : gives (exec (.readerSlotSeated 3) base) (fun t =>
    decide ((t.port 3).state = .mounting ∧ (t.port 3).lamp = .amber)) = true := by decide +kernel
theorem test_card_in : gives (exec (.cardIn 3 7 4000) (base.setJob 0 { job0 .pulled with boundPort := none, resumeTarget := some .paused }))
    (fun t => decide ((t.port 3).state = .bound ∧ (t.job 0).state = .paused ∧ (t.job 0).boundPort = some 3)) = true := by
  decide +kernel
theorem test_identity_timer :
    gives (exec (.identityTimerExpiry 3) (base.setPort 3 { CardPort.idle true with state := .mounting, identityTimer := true, lamp := .amber }))
      (fun t => decide ((t.port 3).state = .unreadable)) = true := by decide +kernel
/-- A card pulled in mid-unit (section 2.11): the slot freed, the job PULLED to run again, CARD_PULLED. -/
theorem test_card_out : gives (exec (.cardOut 2) reading) (fun t =>
    decide ((t.job 0).state = .pulled ∧ (t.job 0).resumeTarget = some .running ∧ (t.job 0).held = 0
      ∧ t.ring.freeList = [1, 2, 3, 0] ∧ (t.port 2).state = .empty ∧ (t.port 2).abandoned = true ∧ (t.port 2).lamp = .off)
      && t.faults.flag .cardPulled) = true := by decide +kernel
theorem test_not_seated : gives (exec (.readerSlotNotSeated 2) (withJob .loading (clip0 .listed))) (fun t =>
    decide ((t.port 2).state = .empty ∧ (t.job 0).state = .loading ∧ (t.job 0).boundPort = none)) = true := by decide +kernel
/-- The last piece of the clip: READ with the sum of section 3.4, its unit written at the area's start. -/
theorem test_reader_data : gives (exec (.readerData 2 sector0) reading) (fun t =>
    decide ((t.clip? 0).map (·.sum) = some (some sum0) ∧ t.clipState? 0 = some .read ∧ t.lines = [.drive 0 write0]
      ∧ (t.job 0).state = .draining)) = true := by decide +kernel
theorem test_reader_error : gives (exec (.readerError 2) reading) (fun t =>
    decide ((t.port 2).outstanding = some ⟨piece0, 2, some .readerError⟩)) = true
    ∧ gives (exec (.readerError 2) (reading.modPort 2 fun x => { x with outstanding := some ⟨piece0, 4, some .readerError⟩ })) (fun t =>
        decide (t.clipState? 0 = some .sourceFault ∧ t.ring.freeList = [1, 2, 3, 0]) && t.faults.flag .cardFault) = true := by
  decide +kernel
theorem test_reader_timer : gives (exec (.readerTimerExpiry 2) reading) (fun t =>
    decide (t.lines = [.restartReader 2, .readReq 2 5 1])) = true := by decide +kernel
/-- The copy's last data write: the lock, the slot freed, and the trailer at the area's first sector (section 6.7). -/
theorem test_drive_done : gives (exec (.driveDone 0 []) writing) (fun t =>
    decide ((t.dest 0).arb.lock = some (.wq 0, 0) ∧ t.ring.freeList = [1, 2, 3, 0]
      ∧ t.lines = [.drive 0 ⟨.write, 2048, 1, trailer0⟩])) = true := by decide +kernel
theorem test_drive_done_trailer : gives (exec (.driveDone 0 trailer0) verifying) (fun t =>
    decide (t.clipState? 0 = some .secured ∧ (t.job 0).state = .reporting ∧ t.manifest.queue.length = 1)) = true := by
  decide +kernel
theorem test_drive_retry : gives (exec (.driveRetry 0) writing) (fun t =>
    decide (((t.dest 0).queue (.wq 0)).map (·.retries) = [1, 0] ∧ t.lines = [.drive 0 write0])) = true := by decide +kernel
theorem test_drive_fail : gives (exec (.driveFail 0) verifying) (fun t =>
    t.faults.flag .copyRepair
      && (t.copy? 0 0).any fun k => decide (k.attempt = 2 ∧ k.origin = .repair ∧ k.window = some ⟨0, 1⟩ ∧ k.trailer = some 0)) = true := by
  decide +kernel
theorem test_drive_in : gives (exec (.driveIn 1 2000000) base) (fun t =>
    decide ((t.dest 1).state = .unbound ∧ (t.dest 1).capacity = some 2000000)) = true := by decide +kernel
theorem test_drive_out : gives (exec (.driveOut 0) verifying) (fun t =>
    decide ((t.dest 0).state = .lost ∧ (t.dest 0).binding = some area0 ∧ (t.job 0).state = .held)
      && t.faults.alarm && (t.copy? 0 0).any fun k => decide (k.state = .aborted)) = true := by decide +kernel
theorem test_response_timer : gives (exec (.responseTimerExpiry 0) verifying) (fun t =>
    decide ((t.dest 0).state = .lost ∧ t.lines = [.restartDrive 0])) = true := by decide +kernel
theorem test_bulk_in : gives (exec .frameTakenBulkIn { base with link := { base.link with table := base.link.table.set 0 (some ⟨5, 1, true⟩), outq := [replyFrame (.reply 0) 5 .ok []] } })
    (fun t => decide (t.link.outq = [] ∧ t.link.table[0] = none) && decide (t.lines.length = 1)) = true := by decide +kernel
theorem test_stall : gives (exec .stallTimerExpiry { base with link := { base.link with parser := .body, buf := [1, 5, 1, 0], stall := true } })
    (fun t => decide (t.link = base.link)) = true := by decide +kernel

/-! ## Witnesses: the hypotheses of each statement met together

One theorem for each statement of Obligations.lean that has hypotheses, at the boundary values of its clauses. -/

/-- The engine with every entry of its table in use. -/
def full : State := { base with link := { base.link with table := Vector.replicate 8 (some ⟨1, 1, false⟩) } }

/-- The parser in a state with a buffer. -/
def parsing (p : ParserState) (buf : List Byte) : State :=
  { base with link := { base.link with parser := p, buf := buf, stall := decide (p ≠ .hunt) } }

/-- A command waits. -/
def waiting : State := { State.reset with pending := [.identify 1], plan := { plan0 with lock := true } }

/-- The staging ring with slot 0 held. -/
def ringOf (x : Slot) : Ring := { freeList := (List.range 2047).map Nat.succ, held := [(0, x)], waitList := [] }

theorem ringOf_sound (x : Slot) : (ringOf x).Sound := by
  refine ⟨by simp [ringOf, Table.wf], ?_⟩
  have h : ∀ n, ((List.range n).map Nat.succ ++ [0]).Perm (List.range (n + 1)) := fun n => by
    rw [List.range_succ_eq_map]; exact List.perm_append_comm
  have e : slotCount = 2047 + 1 := rfl
  simp only [ringOf, List.map_cons, List.map_nil, e]
  exact h 2047

theorem witness_StepRunsFrontCommand : base.pending = [] := rfl

theorem witness_FrameRunsItsRequest :
    (Instr.manifestRead 255 255).wellFormed = true
      ∧ requestFrame (.manifestRead 255 255) = some (frameBytes 0x30 255 [255]) ∧ base.link.Hunting :=
  ⟨by decide, by decide +kernel, rfl, rfl, rfl⟩

theorem witness_RequestsReadAsWritten :
    (Instr.destBind 1 255 (2 ^ 48 - 1) (2 ^ 48 - 1) (2 ^ 32 - 1) 65535 (2 ^ 48 - 1) (2 ^ 32 - 1)).wellFormed = true
      ∧ (encodeRequest (.destBind 1 255 (2 ^ 48 - 1) (2 ^ 48 - 1) (2 ^ 32 - 1) 65535 (2 ^ 48 - 1) (2 ^ 32 - 1))).isSome = true :=
  ⟨by decide, rfl⟩

/-- Both clauses: the refusal place empty, and taken. -/
theorem witness_RequestsAreAdmitted_table :
    encodeRequest (.identify 1) = some (1, 1, []) ∧ (1 : Nat) ≠ 3 ∧ (∀ e : EntryNo, (full.link.table[e]).isSome)
      ∧ full.link.refusal.isSome = false
      ∧ (∀ e : EntryNo, (({ full with link := { full.link with refusal := some 3 } } : State).link.table[e]).isSome) := by
  decide +kernel

theorem witness_RequestsAreAdmitted_forms :
    base.link.freeEntry = some 0
      ∧ (0x3B ∉ fixedLayouts.map Prod.fst ∧ (0x3B : Nat) ≠ 0x21 ∧ (0x3B : Nat) ≠ 0x28)
      ∧ (0 ∉ fixedLayouts.map Prod.fst) ∧ ((0x01, 0) ∈ fixedLayouts ∧ ([0] : List Byte).length ≠ 0)
      ∧ ((0x3A, 2) ∈ fixedLayouts ∧ ([0] : List Byte).length ≠ 2) ∧ full.link.freeEntry = none ∧ ([0] : List Byte) ≠ [] := by
  decide +kernel

theorem witness_LinkTakesAndGivesBytes_mark :
    (base.link.buf = [] ∧ base.link.stall = false ∧ base.link.parser = .hunt)
      ∧ let s : State := { base with link := { base.link with parser := .mark } }
        s.link.buf = [] ∧ s.link.stall = false ∧ s.link.parser = .mark := by decide

/-- Each clause at its boundary: the third and the fourth byte of HEAD (lengths 4096, 4097 and 0), the last byte but one
and the last of BODY, the first and the last of CHECK, agreeing and not. -/
theorem witness_LinkTakesAndGivesBytes_frames :
    let c := Bytes.be 2 (Bytes.crc [0x40, 0, 0, 0]).toNat
    ((parsing .head [0x40, 0]).link.parser = .head ∧ ((parsing .head [0x40, 0]).link.buf ++ [0]).length < 4)
      ∧ (((parsing .head [0x40, 0, 0]).link.buf ++ [0]).length = 4 ∧ announced [0x40, 0, 0, 0x10] = 4096
          ∧ announced [0x40, 0, 1, 0x10] = 4097 ∧ announced [0x40, 0, 0, 0] = 0)
      ∧ (parsing .body [0x40, 0, 2, 0]).link.parser = .body
      ∧ ((parsing .body [0x40, 0, 2, 0]).link.buf ++ [9]).length < 4 + announced [0x40, 0, 2, 0, 9]
      ∧ ¬((parsing .body [0x40, 0, 2, 0, 9]).link.buf ++ [9]).length < 4 + announced [0x40, 0, 2, 0, 9, 9]
      ∧ (parsing .check [0x40, 0, 0, 0]).link.parser = .check
      ∧ ((parsing .check [0x40, 0, 0, 0]).link.buf ++ [9]).length < 6 + announced [0x40, 0, 0, 0, 9]
      ∧ ((parsing .check [0x40, 0, 0, 0, 9]).link.buf ++ [9]).length = 6 + announced [0x40, 0, 0, 0, 9, 9]
      ∧ ([9, 9] : List Byte) ≠ c ∧ c.length = 2 ∧ 64 ≤ (([0x40, 0, 0, 0] ++ c).getD 0 0).toNat := by decide +kernel

theorem witness_LinkTakesAndGivesBytes_stall :
    (parsing .body [0x40, 0, 2, 0]).link.stall = true ∧ base.link.stall = false ∧ base.link.outq = []
      ∧ ({ base with link := { base.link with outq := [replyFrame .busy 1 .busy []] } } : State).link.outq
          = replyFrame .busy 1 .busy [] :: [] := by decide +kernel

theorem witness_IdentifyAnswers : base.link.freeEntry = some 0 := by decide
theorem witness_StatusAnswers : reading.link.freeEntry = some 0 := by decide
theorem witness_QueriesOnlyAnswer_plan : base.link.freeEntry = some 0 := by decide
theorem witness_FaultReadAnswers : base.link.freeEntry = some 0 := by decide

/-- The three refusals and the plan taken, at the boundaries of the count and the roles. -/
theorem witness_PlanRequestRules_set :
    base.link.freeEntry = some 0 ∧ 4 < 5 ∧ (∃ r ∈ [1, 0, 0, 3], 2 < r) ∧ (∀ r ∈ [1, 0, 0, 2], r ≤ 2)
      ∧ waiting.link.freeEntry = some 0 ∧ waiting.plan.lock = true ∧ base.plan.lock = false
      ∧ [1, 0, 0, 2].count 1 < 2 ∧ 4 ≤ [1, 1, 1, 1].count 1 := by decide +kernel

theorem witness_PlanRequestRules_lock :
    base.link.freeEntry = some 0 ∧ waiting.plan.lock = true ∧ base.plan.lock = false
      ∧ rolesCounted base .mirror (fun _ => true) < base.plan.r
      ∧ ({ base with plan := plan0 } : State).plan.r ≤ rolesCounted { base with plan := plan0 } .mirror (fun _ => true) := by
  decide +kernel

theorem witness_StrapAndLockedPlanStay :
    waiting.plan.lock = true ∧ gives (step waiting) (fun _ => true) = true
      ∧ ∀ strap seated rest, waiting.pending ≠ .powerOnReset strap seated :: rest :=
  ⟨rfl, by decide +kernel, by intro _ _ _ h; simp [waiting] at h⟩

theorem witness_FaultRequestRules_clear :
    base.link.freeEntry = some 0 ∧ 9 ≤ 9 ∧ FaultClass.linkCheck.code.val = 0 ∧ FaultClass.destLost.code.val = 8 := by decide

theorem witness_FaultRequestRules_route :
    base.link.freeEntry = some 0 ∧ 9 ≤ 9 ∧ 4 ≤ 4 ∧ FaultClass.destLost.code.val = 8 ∧ Route.hold.code = 3
      ∧ FaultClass.linkCheck.code.val = 0 ∧ Route.quiet.code = 0 := by decide

/-- Something is left to read where job 0 stands in the middle of a clip. -/
theorem reads_on {s : State} (h1 : (s.job 0).clips[(s.job 0).readPos.clip]? = some 0) (h2 : s.clip? 0 = some (clip0 .reading)) :
    ReadsOn s 0 := ⟨0, _, h1, h2, Or.inr ⟨rfl, by decide⟩⟩

/-- The clauses: RUNNING with a unit in flight, with something left to read and without, PULLED to run again, and any
other job. -/
theorem witness_OccurrencesAndTheHoldRoute :
    let held (s : State) : State := { s with faults := s.faults.setRoute .cardRetry .hold }
    (held reading).faults.route .cardRetry = .hold ∧ ((held reading).job 0).state = .running
      ∧ (∃ n y, (n, y) ∈ (held reading).ring.held ∧ y.state = .filling ∧ y.owner = .job 0)
      ∧ (∀ n y, (n, y) ∉ (held (withJob .running (clip0 .reading))).ring.held)
      ∧ ((held (withJob .running (clip0 .reading))).job 0).state = .running
      ∧ ReadsOn (held (withJob .running (clip0 .reading))) 0 ∧ ¬ReadsOn (held (withJob .running (clip0 .read))) 0
      ∧ (let s := held (base.setJob 0 { job0 .pulled with resumeTarget := some .running })
         (s.job 0).state = .pulled ∧ (s.job 0).resumeTarget = some .running)
      ∧ ((held reading).job 1).state ≠ .running ∧ ((held reading).job 1).state ≠ .pulled := by
  refine ⟨by decide +kernel, by decide +kernel, ⟨0, slot0 .filling [] [], ?_, rfl, rfl⟩, ?_, by decide +kernel,
    reads_on (by decide +kernel) (by decide +kernel), ?_, by decide +kernel, by decide +kernel, by decide +kernel⟩
  · exact List.mem_singleton.2 rfl
  · intro n y h; cases h
  · rintro ⟨c, x, h1, h2, h3⟩
    have e1 : ((withJob .running (clip0 .read)).job 0).clips[((withJob .running (clip0 .read)).job 0).readPos.clip]? = some 0 := by
      decide +kernel
    have e2 : (withJob .running (clip0 .read)).clip? 0 = some (clip0 .read) := by decide +kernel
    cases e1.symm.trans h1
    cases e2.symm.trans h2
    exact absurd h3 (by decide)

theorem witness_FaultUnitStaysSound : waiting.faults.Sound ∧ gives (step waiting) (fun _ => true) = true :=
  ⟨⟨by decide +kernel, by intro o h; cases h⟩, by decide +kernel⟩

/-- A live copy stands on DP0. -/
theorem reading_live : LiveCopyOn reading 0 :=
  ⟨0, clipWith .reading (copy0 .writing), copy0 .writing, List.mem_singleton.2 rfl, rfl, rfl⟩

/-- With no clip there is no live copy. -/
theorem no_live {s : State} (h : s.clips = []) (d : DestNo) : ¬LiveCopyOn s d := by
  rintro ⟨c, x, k, hm, _⟩; rw [h] at hm; cases hm

/-- The refusals in their order, each parameter just past its bound, and the binding at the bounds. -/
theorem witness_DestRequestRules_bind :
    let s := base.setDest 0 drive0
    (base.link.freeEntry = some 0 ∧ 4 ≤ 4 ∧ (base.dest 0).present = false)
      ∧ ((reading.dest 0).present = true ∧ InUse (reading.dest 0) ∧ LiveCopyOn reading 0 ∧ reading.plan.lock = false)
      ∧ (({ reading with plan := { plan0 with lock := true } } : State).plan.lock = true)
      ∧ ((s.dest 0).present = true ∧ s.plan.lock = false ∧ ¬LiveCopyOn s 0)
      ∧ (65536 < 65537 ∧ 4096 < 4097 ∧ (s.dest 0).capacity.getD 0 < 79457 + 20544 ∧ 20544 ≤ 20544
          ∧ (2111 - 64) / 2048 < 1 ∧ (2112 - 64) / 2048 ≤ 1 ∧ (20544 - 64) / 2048 - 1 < 10 ∧ 64 < 65)
      ∧ ((∃ sectors, (s.dest 0).capacity = some sectors ∧ 79456 + 20544 ≤ sectors) ∧ (s.dest 0).rl.jobs = [] ∧ 1 ≤ 64
          ∧ 64 ≤ 65536 ∧ 1 ≤ 4096 ∧ 64 < 20544 ∧ 1 < (20544 - 64) / 2048 ∧ 9 ≤ (20544 - 64) / 2048 - 1 ∧ 64 ≤ 64) :=
  ⟨by decide +kernel, ⟨by decide +kernel, Or.inl (by decide +kernel), reading_live, by decide +kernel⟩, rfl,
    ⟨by decide +kernel, by decide +kernel, no_live (by decide +kernel) 0⟩, by decide +kernel,
    ⟨⟨100000, by decide +kernel⟩, by decide +kernel⟩⟩

theorem witness_DestRequestRules_unbind :
    let s := base.setDest 0 drive0
    (base.link.freeEntry = some 0 ∧ 4 ≤ 4 ∧ (base.dest 0).state = .absent)
      ∧ (InUse (reading.dest 0) ∧ reading.plan.lock = false ∧ LiveCopyOn reading 0)
      ∧ (InUse (s.dest 0) ∧ s.plan.lock = false ∧ ¬LiveCopyOn s 0 ∧ (s.dest 0).rl.jobs = [])
      ∧ ({ s with plan := { plan0 with lock := true } } : State).plan.lock = true
      ∧ ((base.setDest 0 { drive0 with state := .lost }).dest 0).state = .lost :=
  ⟨by decide +kernel, ⟨Or.inl (by decide +kernel), by decide +kernel, reading_live⟩,
    ⟨Or.inl (by decide +kernel), by decide +kernel, no_live (by decide +kernel) 0, by decide +kernel⟩, rfl, by decide +kernel⟩

/-- The area of D = 10, C = 9 and 64 trailers at its bounds, and a plan copy with room and without. -/
theorem witness_PlacesAreAllocated :
    let last : Binding := { area0 with nextTrailer := 64 }
    drive0.binding = some area0 ∧ drive0.state = .active ∧ (area0.area - area0.strip) / 2048 = 10
      ∧ (0 + 9 ≤ 10 - 1 ∧ 0 < 64) ∧ 10 - 1 < 0 + 10 ∧ last.strip ≤ last.nextTrailer ∧ (0 + 10 ≤ 10 ∧ 10 < 0 + 11)
      ∧ ({ drive0 with state := .full } : DestPort).state = .full
      ∧ (reading.clip? 0 = some (clipWith .reading (copy0 .writing)) ∧ (reading.dest 0).state = .active
          ∧ (reading.dest 0).binding = some area0 ∧ clipUnits 10 = 1)
      ∧ ((reading.setDest 0 { drive0 with binding := some last }).dest 0).binding = some last := by decide +kernel

theorem witness_DrivesComeAndGo :
    let s := base.setDest 0 { drive0 with state := .unbound, binding := none, timer := true, outSinceIn := true }
    let lost := base.setDest 0 { drive0 with state := .lost }
    (base.dest 0).state = .absent
      ∧ ((s.dest 0).state = .unbound ∧ (s.dest 0).capacity = some 100000 ∧ (s.dest 0).present = true)
      ∧ ((reading.dest 0).capacity = some 100000 ∧ (reading.dest 0).present = true)
      ∧ (lost.dest 0).state = .lost ∧ (base.dest 0).timer = false
      ∧ ((s.dest 0).timer = true ∧ (s.dest 0).state ≠ .active ∧ (s.dest 0).state ≠ .full) := by decide +kernel

/-- The three losses of a destination in use. -/
theorem witness_IdleDestinationIsLost :
    let x : DestPort := { drive0 with timer := true }
    let s := base.setDest 0 x
    Loses (s.dest 0) 0 (.driveOut 0) .driveRemoved false none
      ∧ Loses (s.dest 0) 0 (.responseTimerExpiry 0) .driveTimeout true (some 100000)
      ∧ Loses (s.dest 0) 0 (.driveIn 0 100001) .driveRemoved true (some 100001)
      ∧ InUse (s.dest 0) ∧ ¬LiveCopyOn s 0 ∧ (s.dest 0).rl.jobs = [] :=
  ⟨.out, .timer rfl, .newDrive _ (by decide +kernel), Or.inl (by decide +kernel), no_live rfl 0, by decide +kernel⟩

/-- DP0's queues ready with nothing outstanding: a data write, or its trailer, at the head of job 0's queue. -/
def granting (items : List Item) (ready : SlotState) : State :=
  { writing.setDest 0 (drive0.setQueue (.wq 0) items) with
    ring := { freeList := [1, 2, 3], held := [(0, slot0 ready [0] ten)], waitList := [] } }

theorem data_waits : Waits (granting [Item.new 0 (.data 0)] .staged) 0 (.wq 0) :=
  ⟨Item.new 0 (.data 0), [], by decide +kernel, Or.inr ⟨0, slot0 .staged [0] ten, rfl, by decide +kernel, rfl⟩⟩

/-- Nobody else waits. -/
theorem only_first_waits (v : Writer) (h : Waits (granting [Item.new 0 (.data 0)] .staged) 0 v) : v = .wq 0 := by
  obtain ⟨i, rest, hq, _⟩ := h
  cases v with
  | cq =>
    have : ((granting [Item.new 0 (.data 0)] .staged).dest 0).queue .cq = [] := by decide +kernel
    rw [this] at hq; cases hq
  | wq j =>
    by_cases hj : j = 0
    · rw [hj]
    · exact absurd hq (by
        have : ∀ j : JobNo, j ≠ 0 → ((granting [Item.new 0 (.data 0)] .staged).dest 0).queue (.wq j) = [] := by decide +kernel
        rw [this j hj]; simp)

/-- The read lane waits, three writes granted since its last turn. -/
def sharing : State :=
  base.setDest 0
    { drive0 with
      rl := { jobs := [.verify 0], active := some ⟨.flush, some State.flushCmd, 0⟩, sum := none }
      arb := { Arbiter.reset with grants := 3 } }

/-- Each case of the selection: nothing to select, the lock, the read lane's share, an urgent writer, any writer, and none. -/
theorem witness_ArbiterChoosesInOrder :
    (writing.dest 0).outstanding.isSome = true
      ∧ ((base.setDest 0 drive0).dest 0).outstanding = none ∧ InUse ((base.setDest 0 drive0).dest 0)
      ∧ ((base.setDest 0 { drive0 with arb := { Arbiter.reset with lock := some (.wq 0, 0) } }).dest 0).arb.lock = some (.wq 0, 0)
      ∧ (∃ a, (sharing.dest 0).rl.active = some a ∧ a.formed.isSome = true ∧ 3 ≤ (sharing.dest 0).arb.grants)
      ∧ (let s := granting [Item.new 0 (.data 0)] .staged
         FirstInTurn s 0 (Waits s 0) (.wq 0) ∧ (s.dest 0).rl.active = none
          ∧ ∀ v ∈ (s.dest 0).arb.rotation, ¬(Waits s 0 v ∧ IsUrgent s v))
      ∧ (let s := (granting [Item.new 0 (.data 0)] .staged).modJob 0 fun y => { y with urgent := true }
         IsUrgent s (.wq 0))
      ∧ (∀ v, ¬Waits (base.setDest 0 drive0) 0 v) := by
  refine ⟨by decide +kernel, by decide +kernel, Or.inl (by decide +kernel), by decide +kernel,
    ⟨⟨.flush, some State.flushCmd, 0⟩, by decide +kernel, rfl, by decide +kernel⟩, ⟨⟨data_waits, [], _, rfl, by simp⟩, by decide +kernel, ?_⟩,
    ⟨0, rfl, by decide +kernel⟩, ?_⟩
  · rintro v - ⟨hv, j, rfl, hj⟩
    cases only_first_waits _ hv
    exact absurd hj (by decide +kernel)
  · rintro v ⟨i, rest, hq, _⟩
    cases v with
    | cq => exact absurd hq (by simp [drive0, DestPort.queue, DestPort.reset, State.dest, State.setDest])
    | wq j =>
      have : ∀ j : JobNo, ((base.setDest 0 drive0).dest 0).queue (.wq j) = [] := by decide +kernel
      rw [this j] at hq; cases hq

theorem witness_GrantsIssueRequests :
    (let s := granting [Item.new 0 (.data 0)] .staged
     s.select 0 = some (.writer (.wq 0)) ∧ (s.dest 0).queue (.wq 0) = [Item.new 0 (.data 0)]
      ∧ s.clip? 0 = some (clipWith .read (copy0 .writing)) ∧ (s.dest 0).binding = some area0
      ∧ s.slot? 0 = some (slot0 .staged [0] ten))
    ∧ (let s := granting [Item.new 0 .trailer] .staged
       s.select 0 = some (.writer (.wq 0)) ∧ (s.dest 0).queue (.wq 0) = [Item.new 0 .trailer]
        ∧ (clipWith .read (copy0 .writing)).sum = some sum0 ∧ (copy0 .writing).trailer = some 0
        ∧ (s.job 0).identity = some card0 ∧ (clipWith .read (copy0 .writing)).token.length ≤ 48)
    ∧ sharing.select 0 = some .readLane
    ∧ (sharing.dest 0).rl.active = some ⟨.flush, some State.flushCmd, 0⟩ := by decide +kernel

theorem witness_DestinationsStaySound :
    (∀ d, (waiting.dest d).Sound) ∧ gives (step waiting) (fun _ => true) = true := by
  refine ⟨fun d => ?_, by decide +kernel⟩
  have h : ∀ d, waiting.dest d = DestPort.reset := by decide +kernel
  rw [h d]
  exact ⟨⟨List.Perm.refl _, by decide⟩, by intro b hb; (cases hb), by decide⟩

/-- The three kinds of request, at the seventh RETRY. -/
theorem witness_DriveRetryRules :
    ((writing.dest 0).outstanding = some ⟨write0, .data (.wq 0) 0 1 0⟩ ∧ (writing.dest 0).abandoned = false
        ∧ (let s := writing.modDest 0 fun x => x.setQueue (.wq 0) [{ Item.new 0 (.data 0) with retries := 6 }]
           (s.dest 0).queue (.wq 0) = [{ Item.new 0 (.data 0) with retries := 6 }] ∧ 6 < 7))
      ∧ (let s := writing.modDest 0 fun x =>
            { (x.setQueue (.wq 0) [Item.new 0 .trailer]) with outstanding := some ⟨write0, .trailer (.wq 0) 0 1⟩ }
         (s.dest 0).outstanding = some ⟨write0, .trailer (.wq 0) 0 1⟩ ∧ (s.dest 0).queue (.wq 0) = [Item.new 0 .trailer])
      ∧ ((verifying.dest 0).outstanding = some ⟨⟨.read, 2048, 1, []⟩, .readLane⟩
          ∧ (verifying.dest 0).rl.active = some ⟨.trailer, none, 0⟩) := by decide +kernel

/-- The slot still needed by DP1, and needed by no other destination. -/
theorem witness_DataWritesAreCounted :
    (writing.dest 0).outstanding = some ⟨write0, .data (.wq 0) 0 1 0⟩ ∧ (writing.dest 0).abandoned = false
      ∧ (writing.dest 0).queue (.wq 0) = Item.new 0 (.data 0) :: [Item.new 0 .trailer]
      ∧ writing.clip? 0 = some (clipWith .read (copy0 .writing))
      ∧ (clipWith .read (copy0 .writing)).copies[(0 : DestNo)] = some (copy0 .writing)
      ∧ writing.slot? 0 = some (slot0 .staged [0] ten) ∧ (slot0 .staged [0] ten).pending.filter (· ≠ 0) = []
      ∧ (writing.modSlot 0 fun y => { y with pending := [0, 1] }).slot? 0 = some (slot0 .staged [0, 1] ten)
      ∧ (slot0 .staged [0, 1] ten).pending.filter (· ≠ 0) ≠ [] ∧ (slot0 .staged [0] ten).owner = .job 0
      ∧ NotStalled writing (.job 0) ∧ writing.ring.waitList = []
      ∧ NotStalled (writing.modLane 1 fun l => { l with standing := some (0, .card), held := 7 }) (.lane 1)
      ∧ NotStalled (writing.modLane 1 fun l => { l with held := 8 }) (.lane 1) := by
  constructorm* _ ∧ _
  all_goals first
    | decide +kernel
    | exact fun h => absurd h (by decide +kernel)
    | exact fun _ => by decide +kernel

theorem witness_TrailerDoneStartsVerification :
    let s := writing.modDest 0 fun x =>
      { (x.setQueue (.wq 0) [Item.new 0 .trailer]) with outstanding := some ⟨write0, .trailer (.wq 0) 0 1⟩ }
    (s.dest 0).outstanding = some ⟨write0, .trailer (.wq 0) 0 1⟩ ∧ (s.dest 0).abandoned = false
      ∧ (s.dest 0).queue (.wq 0) = [Item.new 0 .trailer] ∧ s.clip? 0 = some (clipWith .read (copy0 .writing))
      ∧ (copy0 .writing).state = .writing ∧ (copy0 .writing).attempt = 1
      ∧ ((s.dest 0).rl.active = none ↔ (s.dest 0).rl.jobs = []) := by decide +kernel

/-- The VERIFY job of clip 0 with another request outstanding. -/
def verifyingAt (step : ReadStep) (cmd : DriveCmd) : State :=
  verifying.setDest 0
    { drive0 with
      outstanding := some ⟨cmd, .readLane⟩, timer := true
      rl := { jobs := [.verify 0], active := some ⟨step, none, 0⟩, sum := some (SumUnit.start 10) } }

/-- The FLUSH, and the last unit of the window. -/
theorem witness_VerificationRules_reads :
    (((verifyingAt .flush State.flushCmd).dest 0).outstanding = some ⟨State.flushCmd, .readLane⟩
        ∧ ((verifyingAt .flush State.flushCmd).dest 0).abandoned = false ∧ State.flushCmd.kind = .flush
        ∧ ((verifyingAt .flush State.flushCmd).dest 0).rl.jobs = .verify 0 :: []
        ∧ ((verifyingAt .flush State.flushCmd).dest 0).rl.active = some ⟨.flush, none, 0⟩
        ∧ ((verifyingAt .flush State.flushCmd).dest 0).binding = some area0)
      ∧ (((verifyingAt (.unit 0) ⟨.read, 2112, 1, []⟩).dest 0).outstanding = some ⟨⟨.read, 2112, 1, []⟩, .readLane⟩
          ∧ sector0.length = 1 * 512
          ∧ ((verifyingAt (.unit 0) ⟨.read, 2112, 1, []⟩).dest 0).rl.active = some ⟨.unit 0, none, 0⟩
          ∧ ((verifyingAt (.unit 0) ⟨.read, 2112, 1, []⟩).dest 0).rl.sum = some (SumUnit.start 10)) := by decide +kernel

theorem trailer0_matches : TrailerMatches trailer0 0 10 sum0 ⟨0, 1⟩ := by
  unfold TrailerMatches; decide +kernel

/-- The trailer that agrees. -/
theorem witness_VerificationRules_decision :
    (verifying.dest 0).outstanding = some ⟨⟨.read, 2048, 1, []⟩, .readLane⟩
      ∧ verifying.clip? 0 = some (clipWith .read (copy0 .verifying)) ∧ trailer0.length = 1 * 512
      ∧ (verifying.dest 0).rl.jobs = [.verify 0] ∧ (verifying.dest 0).rl.active = some ⟨.trailer, none, 0⟩
      ∧ (SumUnit.close ⟨10, ⟨201986576, 471276569⟩, 10⟩).s1 = sum0.s1
      ∧ (SumUnit.close ⟨10, ⟨201986576, 471276569⟩, 10⟩).s2 = sum0.s2
      ∧ TrailerMatches trailer0 0 10 sum0 ⟨0, 1⟩
      ∧ (∀ d, (verifying.dest d).lane.copies = [] ∧ (verifying.dest d).lane.current = none)
      ∧ (∀ f : DestNo, verifying.copy? 0 f = none ∨ verifying.copy? 0 f = some (copy0 .verifying))
      ∧ verifying.manifest.queue.length < 512 ∧ 1 ≤ (clipWith .read (copy0 .verifying)).verifiedCount + 1 :=
  by
  constructorm* _ ∧ _
  all_goals first | exact trailer0_matches | decide +kernel

theorem witness_FailedAttemptsBecomeRepairs_reading :
    let s := reading.modDest 0 fun x => { x with outstanding := some ⟨write0, .data (.wq 0) 0 1 0⟩ }
    (s.dest 0).outstanding = some ⟨write0, .data (.wq 0) 0 1 0⟩ ∧ (s.dest 0).abandoned = false
      ∧ s.clip? 0 = some (clipWith .reading (copy0 .writing)) ∧ (copy0 .writing).attempt = 1
      ∧ (s.job 0).state = .running ∧ s.LanesIdle ∧ (s.dest 0).rl.jobs = [] ∧ OthersAtRest s 0 0 := by
  refine ⟨by decide +kernel, by decide +kernel, by decide +kernel, rfl, by decide +kernel,
    (by decide +kernel : ∀ d, _ ∧ _), by decide +kernel, by decide +kernel, fun m y h => ?_⟩
  cases List.mem_singleton.1 h
  exact ⟨fun h => (by cases h), fun _ f h => (by cases h)⟩

/-- Every refusal and the reading of the card's last sectors. -/
theorem witness_SectorReads_requests :
    let s := withJob .loading (clip0 .listed)
    s.link.freeEntry = some 0 ∧ 8 ≤ 8
      ∧ ((base.setPort 5 (CardPort.idle false)).port 5).enabled = false ∧ (s.port 2).enabled = true ∧ 8 < 9
      ∧ (s.port 3).state = .empty ∧ ((base.setPort 5 { CardPort.idle true with state := .unreadable }).port 5).state = .unreadable
      ∧ (s.port 2).state = .bound ∧ (s.port 2).identity = some card0 ∧ card0.capacity < 3993 + 8 ∧ 3992 + 8 ≤ card0.capacity := by
  decide +kernel

theorem witness_CardsArriveUnbound :
    let mounting := base.setPort 3 { CardPort.idle true with state := .mounting, identityTimer := true }
    let off := base.setPort 3 (CardPort.idle false)
    ((base.port 3).enabled = true ∧ (base.port 3).state = .empty) ∧ (off.port 3).enabled = false
      ∧ ((mounting.port 3).enabled = true ∧ (mounting.port 3).state = .mounting ∧ (mounting.port 3).identityTimer = true)
      ∧ ((reading.port 2).state = .bound ∧ (reading.port 2).identity = some ⟨7, 4000⟩)
      ∧ (∀ j, ¬Holds base j ⟨7, 4000⟩)
      ∧ ∀ j, Holds reading j ⟨7, 4000⟩ → (reading.job j).boundPort.isSome := by
  unfold Holds; decide +kernel

/-- A LOADING, REPORTING, RELEASED or PULLED job waiting for its card. -/
theorem witness_CardInBinds (st : JobState) (h : st = .loading ∨ st = .reporting ∨ st = .released ∨ st = .pulled) :
    let s := base.setJob 0 { job0 st with boundPort := none, resumeTarget := some .paused }
    (s.port 3).enabled = true ∧ (s.port 3).state = .empty ∧ Holds s 0 ⟨7, 4000⟩
      ∧ (∀ i, Holds s i ⟨7, 4000⟩ → i = 0) ∧ (s.job 0).boundPort = none ∧ s.clips.length ≤ 4096 ∧ s.LanesIdle
      ∧ (∀ c ∈ (s.job 0).clips, ∀ (d : DestNo) (k : Copy), s.copy? c d = some k → k.suspended = false)
      ∧ (s.job 0).state = st ∧ (s.job 0).resumeTarget = some .paused := by
  have hc : ∀ (s : State), s.clips = [] → ∀ c d k, s.copy? c d = some k → k.suspended = false := by
    intro s hs c d k hk
    simp [State.copy?, State.clip?, hs, Table.find] at hk
  rcases h with rfl | rfl | rfl | rfl <;>
    exact ⟨by decide +kernel, by decide +kernel, by unfold Holds; decide +kernel, by unfold Holds; decide +kernel,
      by decide +kernel, by decide +kernel, (by decide +kernel : ∀ d, _ ∧ _), fun c _ d k => hc _ rfl c d k,
      by decide +kernel, by decide +kernel⟩

/-- Job 0 reading, in the whole staging ring. -/
def readingInRing : State := { reading with ring := ringOf (slot0 .filling [] []) }

theorem readingInRing_sound : readingInRing.ring.Sound := ringOf_sound _

theorem witness_RemovalRules :
    let off := base.setPort 3 (CardPort.idle false)
    let present := (base.setPort 3
      { CardPort.idle true with state := .present, identity := some card0, fifo := [⟨.sector 0 4, 0, 1⟩] }).owing 0 4 0x18
    IsRemoval 3 (.cardOut 3) ∧ IsRemoval 3 (.readerSlotNotSeated 3) ∧ (off.port 3).enabled = false
      ∧ ((base.port 3).enabled = true ∧ (base.port 3).state = .empty)
      ∧ ((present.port 3).state = .present ∧ (present.port 3).fifo.length ≤ 4096 ∧ ⟨.sector 0 4, 0, 1⟩ ∈ (present.port 3).fifo
          ∧ present.link.table[(0 : EntryNo)] = some ⟨4, 0x18, false⟩)
      ∧ ((readingInRing.port 2).enabled = true ∧ (readingInRing.port 2).state = .bound
          ∧ (readingInRing.port 2).boundJob = some 0 ∧ (∀ w ∈ (readingInRing.port 2).fifo, ∃ c k, w.work = .job 0 c k)
          ∧ readingInRing.ring.Sound ∧ readingInRing.ring.waitList = []
          ∧ readingInRing.faults.route .cardPulled ≠ .hold ∧ (readingInRing.job 0).state = .running) := by
  refine ⟨Or.inl rfl, Or.inr rfl, by decide +kernel, by decide +kernel, by decide +kernel, by decide +kernel, by decide +kernel,
    rfl, fun w h => ⟨0, 0, ?_⟩, readingInRing_sound, rfl, by decide +kernel, by decide +kernel⟩
  have : (readingInRing.port 2).fifo = [piece0] := by decide +kernel
  rw [this] at h
  rw [List.mem_singleton.1 h]; rfl

/-- The card that takes the place of another. -/
def card1 : Identity := ⟨8, 4000⟩

/-- Another card at a PRESENT port: no job waits for it, a LOADING job does, the notices have just room; and at a port BOUND
to a job. -/
theorem witness_RemovalRules_replaced :
    let item : ReaderItem := ⟨.sector 0 4, 0, 1⟩
    let x : CardPort := { CardPort.idle true with state := .present, identity := some card0, lamp := .amber }
    let served := (base.setPort 3 { x with fifo := [item], outstanding := some ⟨item, 1, none⟩ }).owing 0 4 0x18
    let quiet : State :=
      { base.setPort 3 x with link := { base.link with outq := List.replicate 29 ⟨.notice, 0x84, 0, [1, 0]⟩ } }
    let waits := (base.setPort 3 x).setJob 0 { job0 .loading with identity := some card1, boundPort := none }
    ((served.port 3).enabled = true ∧ (served.port 3).state = .present ∧ (served.port 3).identity = some card0
        ∧ card0 ≠ card1 ∧ (served.port 3).fifo = [item] ∧ (∀ j, ¬Holds served j card1)
        ∧ served.link.table[(0 : EntryNo)] = some ⟨4, 0x18, false⟩ ∧ (served.port 3).outstanding.isSome = true)
      ∧ ((quiet.port 3).fifo = [] ∧ quiet.LampsFormed ∧ (∀ j, ¬Holds quiet j card1)
          ∧ (quiet.link.outq.filter fun f => decide (f.owner = .notice)).length + 3 ≤ 32)
      ∧ ((waits.port 3).state = .present ∧ Holds waits 0 card1 ∧ (∀ i, Holds waits i card1 → i = 0)
          ∧ (waits.job 0).boundPort = none ∧ waits.clips.length ≤ 4096 ∧ waits.LanesIdle ∧ (waits.job 0).state = .loading
          ∧ ∀ c ∈ (waits.job 0).clips, ∀ d, waits.copy? c d = none)
      ∧ ((readingInRing.port 2).identity = some card0 ∧ (readingInRing.port 2).fifo = [piece0]
          ∧ piece0.work = .job 0 0 0 ∧ readingInRing.ring.waitList = [] ∧ ∀ i, ¬Holds readingInRing i card1) := by
  unfold Holds State.LampsFormed State.LanesIdle; decide +kernel

theorem witness_ResponsesWithoutEffect_retry :
    (reading.port 2).enabled = true ∧ (reading.port 2).outstanding = some ⟨piece0, 1, none⟩
      ∧ (reading.port 2).abandoned = false ∧ (3 < 4) ∧ ten.length ≠ piece0.count * 512
      ∧ (reading.port 2).readerTimer = true := by decide +kernel

theorem witness_ResponsesWithoutEffect_late :
    ((reading.dest 0).outstanding = none)
      ∧ (let s := writing.modDest 0 fun x => { x with abandoned := true }
         (s.dest 0).outstanding.isSome = true ∧ (s.dest 0).abandoned = true)
      ∧ ((base.port 2).outstanding = none ∧ (base.port 2).readerTimer = false)
      ∧ (let s := reading.modPort 2 fun x => { x with abandoned := true }
         (s.port 2).enabled = true ∧ (s.port 2).outstanding.isSome = true ∧ (s.port 2).abandoned = true
          ∧ (s.port 2).readerTimer = true) := by decide +kernel

/-- The first, a retried and the fourth attempt of a sector read. -/
theorem witness_SectorReads_ends :
    let item : ReaderItem := ⟨.sector 0 4, 0, 1⟩
    let s (attempt : Nat) (fail : Option Detail) : State :=
      (base.setPort 3
        { CardPort.idle true with
          state := .present, identity := some card0, fifo := [item], outstanding := some ⟨item, attempt, fail⟩
          readerTimer := true }).owing 0 4 0x18
    let ok (t : State) (r : ReaderRequest) : Bool :=
      (t.port 3).enabled && decide ((t.port 3).outstanding = some r ∧ (t.port 3).abandoned = false ∧ (t.port 3).fifo = r.item :: []
        ∧ t.link.table[(0 : EntryNo)] = some ⟨4, 0x18, false⟩)
    ok (s 1 none) ⟨item, 1, none⟩ ∧ ok (s 2 (some .readerError)) ⟨item, 2, some .readerError⟩
      ∧ ok (s 4 (some .readerTimeout)) ⟨item, 4, some .readerTimeout⟩ ∧ sector0.length = item.count * 512
      ∧ ∀ c, (s 1 none).faults.route c ≠ .hold := by
  intro item s ok
  exact ⟨by decide +kernel, by decide +kernel, by decide +kernel, by decide +kernel, by intro c; cases c <;> decide +kernel⟩

/-- Job 0 reads a clip of two units; of unit 0, whose slot is in the whole ring, the pieces `fifo` are left. -/
def readingTwo (fifo : List ReaderItem) : State :=
  { reading with
    clips := [(0, { clipWith .reading (copy0 .writing) with length := 1048577, extents := [⟨5, 2049⟩] })]
    ports := base.ports.set 2
      { port0 with fifo := fifo, outstanding := some ⟨piece0, 1, none⟩, readerTimer := true }
    ring := ringOf (slot0 .filling [] []) }

/-- More pieces to come, and the last. -/
theorem witness_PiecesBecomeUnits :
    let more := readingTwo [piece0, ⟨.job 0 0 0, 7, 1⟩]
    let last := readingTwo [piece0]
    ((more.port 2).enabled = true ∧ (more.port 2).outstanding = some ⟨piece0, 1, none⟩ ∧ (more.port 2).abandoned = false
        ∧ sector0.length = piece0.count * 512 ∧ (more.port 2).fifo = piece0 :: [⟨.job 0 0 0, 7, 1⟩]
        ∧ (∃ i ∈ ([⟨.job 0 0 0, 7, 1⟩] : List ReaderItem), i.work = .job 0 0 0) ∧ more.fillingOf (.job 0) = some 0
        ∧ more.slot? 0 = some (slot0 .filling [] []))
      ∧ ((last.port 2).fifo = piece0 :: [] ∧ last.clipState? 0 = some .reading ∧ 0 + 1 < clipUnits 1048577
          ∧ (last.job 0).state = .running ∧ (last.job 0).pausePending = false
          ∧ (last.job 0).clips[(last.job 0).readPos.clip]? = some 0
          ∧ ((last.clip? 0).map fun x => x.destsWith fun q => decide (q.origin = .plan ∧ q.state = .writing)) = some [0])
      ∧ last.ring.Sound :=
  ⟨by decide +kernel, by decide +kernel, ringOf_sound _⟩

/-- The last unit of the clip of section 2.10. -/
theorem witness_PiecesCoverTheUnit :
    3000000 ≤ (([⟨1000, 1500⟩, ⟨9000, 3000⟩, ⟨20000, 2000⟩] : List Extent).map (·.count)).sum * 512
      ∧ 2 < clipUnits 3000000 := by decide

/-- Every refusal, and a card no job holds. -/
theorem witness_JobOpenRules :
    let present := base.setPort 3 { CardPort.idle true with state := .present, identity := some card0 }
    let held := withJob .loading (clip0 .listed)
    let twice := held.setPort 3 { CardPort.idle true with state := .present, identity := some card0 }
    let none' : State := { present with jobs := Vector.replicate 16 { Job.free with state := .released } }
    base.link.freeEntry = some 0 ∧ 8 ≤ 8 ∧ ((base.setPort 3 (CardPort.idle false)).port 3).enabled = false
      ∧ ((base.port 3).enabled = true ∧ (base.port 3).state = .empty) ∧ (held.port 2).state = .bound
      ∧ ((twice.port 3).state = .present ∧ (twice.port 3).identity = some card0
          ∧ (twice.job 0).state ≠ .free ∧ (twice.job 0).identity = some card0)
      ∧ ((∀ j, (none'.job j).state ≠ .free) ∧ ∀ j, (none'.job j).identity = none)
      ∧ ((present.port 3).state = .present ∧ (present.job 0).state = .free ∧ ∀ j, (present.job j).identity = none) := by
  decide +kernel

/-- Each bound of an entry crossed, and an entry at the bounds. -/
theorem witness_ClipAddRules_entries :
    (IllFormed ⟨1099511627776, [], [⟨0, 1⟩]⟩ ∧ IllFormed ⟨513, [], [⟨0, 1⟩]⟩ ∧ IllFormed ⟨0, [], [⟨0, 1⟩]⟩)
      ∧ (IllFormed ⟨1, [], []⟩ ∧ IllFormed ⟨1, [], [⟨0, 16777217⟩]⟩ ∧ IllFormed ⟨1, List.replicate 49 0, [⟨0, 1⟩]⟩)
      ∧ IllFormed ⟨1, [], List.replicate 65 ⟨0, 1⟩⟩ ∧ ¬IllFormed ⟨512, List.replicate 48 0, [⟨3999, 1⟩]⟩ := by
  refine ⟨⟨?_, ?_, ?_⟩, ⟨?_, ?_, ?_⟩, ?_, ?_⟩ <;> unfold IllFormed <;> decide

/-- Every other refusal at its bound, and a LOADING job with room for one clip more. -/
theorem witness_ClipAddRules :
    let s := withJob .loading (clip0 .listed)
    (s.link.freeEntry = some 0 ∧ 16 ≤ 16 ∧ (List.replicate 33 (⟨0, [], []⟩ : ClipEntry)).length = 33)
      ∧ (s.job 1).state = .free
      ∧ ((s.job 0).state = .loading ∧ (s.job 0).identity = some card0 ∧ card0.capacity ≤ 4000 + 1 - 1
          ∧ 3999 + 1 - 1 < card0.capacity)
      ∧ (reading.job 0).state ≠ .loading ∧ 1 ≤ ((List.range 4096).filter fun c => (s.clip? c).isNone).length := by
  decide +kernel

/-- With every clip record in use no record is free for one entry more. -/
theorem witness_ClipAddRules_full (s : State) :
    ((List.range 4096).filter fun c =>
      (({ s with clips := (List.range 4096).map fun c => (c, clip0 .listed) } : State).clip? c).isNone).length < 1 := by
  have find_some : ∀ (t : List Nat) (c : Nat), c ∈ t → (Table.find c (t.map fun c => (c, clip0 .listed))).isNone = false := by
    intro t c h
    induction t with
    | nil => cases h
    | cons a t ih =>
      by_cases e : c = a
      · simp [Table.find, e]
      · simpa [Table.find, e] using ih ((List.mem_cons.1 h).resolve_left e)
  rw [List.filter_eq_nil_iff.2 fun c h => by rw [show State.clip? _ c = Table.find c _ from rfl, find_some _ c h]; decide]
  decide

/-- A number out of range, a FREE record, and each refusal of JOB_START. -/
theorem witness_JobAndClipRequestsAreRefused_jobs :
    let loading := withJob .loading (clip0 .listed)
    base.link.freeEntry = some 0 ∧ 16 ≤ 16 ∧ (base.job 15).state = .free
      ∧ ((reading.job 0).state ≠ .free ∧ (reading.job 0).state ≠ .loading)
      ∧ ((loading.modJob 0 fun y => { y with clips := [] }).job 0).clips = []
      ∧ ((loading.job 0).clips ≠ [] ∧ ((loading.modJob 0 fun y => { y with boundPort := none }).job 0).boundPort = none)
      ∧ ((loading.job 0).boundPort.isSome ∧ activePlanned loading < loading.plan.r) := by decide +kernel

/-- Job 0 about to start. -/
def starting : State := { withJob .loading (clip0 .listed) with plan := plan0 }

theorem atRest_of_empty {s : State} (h : s.ring = base.ring) (j : JobNo) : AtRest s j := by
  refine ⟨fun n y hm => ?_, ?_⟩
  · rw [h] at hm; cases hm
  · rw [h]; simp [base]

theorem starting_first : FirstListed starting 0 0 0 :=
  ⟨by decide +kernel, by decide +kernel, fun i _ h => absurd h (Nat.not_lt_zero i)⟩

/-- A clip LISTED, and none. -/
theorem witness_JobStartReads :
    (starting.link.freeEntry = some 0 ∧ (starting.job 0).state = .loading ∧ (starting.job 0).boundPort.isSome = true
      ∧ starting.plan.r ≤ activePlanned starting ∧ FirstListed starting 0 0 0
      ∧ starting.clip? 0 = some (clip0 .listed) ∧ (clip0 .listed).job = 0 ∧ 0 < (clip0 .listed).length ∧ AtRest starting 0
      ∧ (starting.job 0).pausePending = false ∧ starting.LanesIdle ∧ starting.faults.route .destFull ≠ .hold)
      ∧ (let s := starting.setClip 0 (clip0 .excluded)
         s.link.freeEntry = some 0 ∧ (s.job 0).state = .loading ∧ (s.job 0).clips ≠ [] ∧ (s.job 0).boundPort.isSome = true
          ∧ s.plan.r ≤ activePlanned s ∧ ∀ b ∈ (s.job 0).clips, s.clipState? b ≠ some .listed) := by
  refine ⟨?_, by decide +kernel⟩
  constructorm* _ ∧ _
  all_goals first
    | exact starting_first
    | exact atRest_of_empty rfl 0
    | decide +kernel
    | (unfold State.LanesIdle; decide +kernel)

/-- Every clause of both requests. -/
theorem witness_PauseAndResumeRules :
    let at' (st : JobState) : State := withJob st (clip0 .reading)
    reading.link.freeEntry = some 0 ∧ (reading.job 0).state = .running
      ∧ (∃ n y, (n, y) ∈ reading.ring.held ∧ y.state = .filling ∧ y.owner = .job 0)
      ∧ ((at' .running).job 0).state = .running ∧ (∀ n y, (n, y) ∉ (at' .running).ring.held) ∧ ReadsOn (at' .running) 0
      ∧ ((at' .pulled).job 0).state = .pulled ∧ ((at' .draining).job 0).state = .draining
      ∧ (((at' .paused).job 0).state = .paused ∧ ((at' .paused).job 0).clips[((at' .paused).job 0).readPos.clip]? = some 0
          ∧ (at' .paused).clipState? 0 = some .reading ∧ ((at' .paused).job 0).pausePending = false)
      ∧ (let ended := withJob .paused (clip0 .read)
         ended.link.freeEntry = some 0 ∧ (ended.job 0).state = .paused
          ∧ ∀ b ∈ (ended.job 0).clips, ended.clipState? b ≠ some .listed ∧ ended.clipState? b ≠ some .reading) := by
  refine ⟨by decide +kernel, by decide +kernel, ⟨0, slot0 .filling [] [], List.mem_singleton.2 rfl, rfl, rfl⟩,
    by decide +kernel, fun n y h => ?_, reads_on (by decide +kernel) (by decide +kernel), by decide +kernel, by decide +kernel,
    by decide +kernel, by decide +kernel⟩
  cases h

/-- Both open ends, and a job that may not be closed. -/
theorem witness_JobCloseRules :
    MayClose (withJob .loading (clip0 .listed)) 0 ∧ MayClose (withJob .released (clipWith .secured (copy0 .verified))) 0
      ∧ ¬MayClose (withJob .running (clip0 .reading)) 0 ∧ ((withJob .running (clip0 .reading)).job 0).state ≠ .free
      ∧ (withJob .running (clip0 .reading)).link.freeEntry = some 0 := by
  have h1 : ((withJob .loading (clip0 .listed)).job 0).clips = [0] := by decide +kernel
  have h2 : ((withJob .released (clipWith .secured (copy0 .verified))).job 0).clips = [0] := by decide +kernel
  have h3 : ∀ d : DestNo, (withJob .released (clipWith .secured (copy0 .verified))).copy? 0 d = none
      ∨ (withJob .released (clipWith .secured (copy0 .verified))).copy? 0 d = some (copy0 .verified) := by decide +kernel
  refine ⟨Or.inl ⟨by decide +kernel, ?_⟩, Or.inr ⟨by decide +kernel, ?_⟩, ?_, by decide +kernel, by decide +kernel⟩
  · rw [h1]
    intro c hc x hx
    cases List.mem_singleton.1 hc
    have : (withJob .loading (clip0 .listed)).clip? 0 = some (clip0 .listed) := by decide +kernel
    rw [this] at hx; cases hx; decide
  · rw [h2]
    intro c hc d k hk
    cases List.mem_singleton.1 hc
    rcases h3 d with h | h <;> rw [h] at hk <;> cases hk
    rfl
  · rintro (⟨h, -⟩ | ⟨h, -⟩) <;> exact absurd h (by decide +kernel)

theorem witness_JobAbandonEndsTheJob :
    readingInRing.link.freeEntry = some 0 ∧ (readingInRing.job 0).state ≠ .free ∧ readingInRing.LanesIdle
      ∧ (∀ d, (readingInRing.dest d).rl.jobs = []) ∧ readingInRing.ring.Sound ∧ readingInRing.ring.waitList = []
      ∧ (∀ c x, (c, x) ∈ readingInRing.clips → (x.job = 0 ↔ c ∈ (readingInRing.job 0).clips))
      ∧ (∀ p, ∀ i ∈ (readingInRing.port p).fifo, ∀ d l b k n, i.work ≠ .supply d l b k n)
      ∧ (∀ n y, (n, y) ∈ readingInRing.ring.held → y.clip ∈ (readingInRing.job 0).clips → y.owner = .job 0)
      ∧ ∀ p, (readingInRing.job 0).boundPort = some p → (readingInRing.port p).state = .bound := by
  have hf : ∀ p, (readingInRing.port p).fifo = [] ∨ (readingInRing.port p).fifo = [piece0] := by decide +kernel
  refine ⟨by decide +kernel, by decide +kernel, (by decide +kernel : ∀ d, _ ∧ _), by decide +kernel, readingInRing_sound,
    rfl, fun c x h => ?_, fun p i hi d l b k n => ?_, fun n y h _ => ?_, by decide +kernel⟩
  · cases List.mem_singleton.1 h
    decide +kernel
  · rcases hf p with h | h <;> rw [h] at hi
    · cases hi
    · rw [List.mem_singleton.1 hi]; intro e; cases e
  · cases List.mem_singleton.1 h; rfl

/-- A job in use, a clip in use and one that is not, and a tag that is found and one that is not. -/
theorem witness_QueriesOnlyAnswer :
    reading.link.freeEntry = some 0 ∧ (reading.job 0).state ≠ .free ∧ 4 ≤ 4 ∧ 4096 ≤ 4096
      ∧ (4095 < 4096 ∧ reading.clip? 4095 = none) ∧ (reading.clip? 0).isSome = true
      ∧ (writing.clips.filter fun c => match c.2.sum with
          | some sum => decide (sum.f.toNat = 0x507A7660 ∧ c.2.length = 10)
          | none => false) = (0, clipWith .read (copy0 .writing)) :: []
      ∧ (reading.clips.filter fun c => match c.2.sum with
          | some sum => decide (sum.f.toNat = 0x507A7660 ∧ c.2.length = 10)
          | none => false) = [] := by decide +kernel

theorem witness_JobAndClipRequestsAreRefused_clips :
    reading.link.freeEntry = some 0 ∧ 4096 ≤ 4096 ∧ 4 ≤ 4 ∧ (4095 < 4096 ∧ reading.clip? 4095 = none)
      ∧ (reading.clipState? 0 = some .reading ∧ (clip0 .reading).state ≠ .sourceFault)
      ∧ ((clip0 .reading).state ≠ .read ∧ (clip0 .reading).state ≠ .secured ∧ (clip0 .reading).state ≠ .unstable)
      ∧ (writing.copy? 0 0 = some (copy0 .writing) ∧ (copy0 .writing).state.live = true)
      ∧ (verifying.dest 1).state ≠ .active := by decide +kernel

/-- Clip 0 READ with nothing of it left in the ring, in the whole ring with another clip's slot. -/
def readInRing : State :=
  { verifying with
    ring := ringOf { slot0 .staged [1] ten with clip := 9 }
    dests := base.dests.set 0 drive0 }

theorem readInRing_sound : readInRing.ring.Sound := ringOf_sound _

/-- The four states that may be excluded, and the rest of the hypotheses. -/
theorem witness_ClipExcludeSettles :
    readInRing.link.freeEntry = some 0 ∧ 0 < 4096 ∧ readInRing.clip? 0 = some (clipWith .read (copy0 .verifying))
      ∧ ((clip0 .listed).state = .listed ∧ (clip0 .sourceFault).state = .sourceFault ∧ (clip0 .unstable).state = .unstable)
      ∧ readInRing.LanesIdle ∧ (∀ d, (readInRing.dest d).rl.jobs = []) ∧ readInRing.ring.Sound
      ∧ readInRing.ring.waitList = [] ∧ readInRing.manifest.queue.length < 512 :=
  ⟨by decide +kernel, by decide, by decide +kernel, by decide, (by decide +kernel : ∀ d, _ ∧ _), by decide +kernel,
    readInRing_sound, rfl, by decide +kernel⟩

theorem spares_fit_of_none {x : Job} (h : x.snapshot = none) : SparesFit x := fun snap e => by rw [h] at e; cases e

/-- A job that reads or waits, one without its card, and one with it. -/
theorem witness_ClipRetryRules :
    let at' (st : JobState) : State := withJob st (clip0 .sourceFault)
    let away := (at' .held).modJob 0 fun y => { y with boundPort := none }
    ((at' .running).link.freeEntry = some 0 ∧ (at' .running).clip? 0 = some (clip0 .sourceFault)
        ∧ ((at' .running).job 0).state = .running)
      ∧ ((away.job 0).state = .held ∧ (away.job 0).boundPort = none ∧ (away.job 0).clips[0]? = some 0)
      ∧ (((at' .draining).job 0).state = .draining ∧ ((at' .draining).job 0).boundPort.isSome = true
          ∧ ((at' .draining).job 0).clips[0]? = some 0 ∧ 0 < (clip0 .sourceFault).length ∧ AtRest (at' .draining) 0
          ∧ ((at' .draining).job 0).pausePending = false ∧ SparesFit ((at' .draining).job 0) ∧ (at' .draining).LanesIdle
          ∧ (at' .draining).faults.route .destFull ≠ .hold) :=
  ⟨by decide +kernel, by decide +kernel, (by decide +kernel : _ = _), (by decide +kernel : _ = _), by decide +kernel,
    by decide +kernel, atRest_of_empty rfl 0, by decide +kernel, spares_fit_of_none (by decide +kernel),
    (by decide +kernel : ∀ d, _ ∧ _), by decide +kernel⟩

/-- DP1's lane waits for a slot for clip 1 while the copy of clip 0 is added. -/
def laneBusy : State :=
  (verifying.setClip 1 (clip0 .read)).setDest 1
    { drive0 with lane := { Lane.empty with copies := [1], current := some 1, standing := some (0, .card) } }

theorem witness_CopyAddQueues :
    laneBusy.link.freeEntry = some 0 ∧ 0 < 4096 ∧ laneBusy.clip? 0 = some (clipWith .read (copy0 .verifying))
      ∧ (clipWith .read (copy0 .verifying)).copies[(1 : DestNo)] = none ∧ (laneBusy.dest 1).state = .active
      ∧ (laneBusy.dest 1).lane.current = some 1 ∧ (laneBusy.clip? 1).isSome = true
      ∧ (laneBusy.dest 1).lane.standing.isSome = true ∧ 0 ∉ (laneBusy.dest 1).lane.copies ∧ 0 ∈ (laneBusy.job 0).clips := by
  decide +kernel

/-- Clip 0's record queued and clip 1 DEFERRED; the last record of a REPORTING job; nothing queued. -/
theorem witness_ManifestReadRules :
    let x := { clipWith .secured (copy0 .verified) with mstatus := .queued }
    let s0 := withJob .reporting x
    let m : Manifest := { queue := [s0.formRecord 0 x], deferred := [1] }
    let s : State := { s0.setClip 1 { clip0 .excluded with mstatus := .deferred } with manifest := m }
    let last : State := { s0 with manifest := { m with deferred := [] } }
    s.link.freeEntry = some 0 ∧ (∀ c ∈ s.manifest.deferred.take (s.manifest.queue.take (min 1 8)).length, (s.clip? c).isSome)
      ∧ (s.manifest.deferred.take (s.manifest.queue.take (min 1 8)).length) = [1]
      ∧ (last.link.freeEntry = some 0 ∧ (last.job 0).state = .reporting
          ∧ ∃ r ∈ last.manifest.queue.take (min 255 8), r.job = 0 ∧ r.detached = false ∧ r.token.length ≤ 48)
      ∧ base.link.freeEntry = some 0 ∧ base.manifest.deferred = [] := by decide +kernel

theorem witness_SumsAddUp :
    (4294967290 < 4294967291) ∧ 4 ∣ ([1, 2, 3, 4] : List Byte).length ∧ ¬4 ∣ ten.length
      ∧ (Sums.close ⟨6, 6⟩ 1).agrees (Sums.close ⟨6, 6⟩ 1) = true ∧ 31 < 32 := by decide +kernel

/-- The destinations, one by one. -/
theorem four (d : DestNo) : d = 0 ∨ d = 1 ∨ d = 2 ∨ d = 3 := by revert d; decide

theorem three (d : DestNo) (h : d ≠ 0) : d = 1 ∨ d = 2 ∨ d = 3 := (four d).resolve_left h

/-! ### Notices -/

/-- `n` notices stand in the outbound queue. -/
def withNotices (n : Nat) (s : State) : State :=
  { s with link := { s.link with outq := List.replicate n ⟨.notice, 0x84, 0, [1, 0]⟩ } }

/-- Each route, the capture record empty and full; JOB_OPEN and a removal with just room for their notices; a first record
and a later one. -/
theorem witness_NoticesFollowTheirChanges :
    let opening := withNotices 30 (base.setPort 3 { CardPort.idle true with state := .present, identity := some card0 })
    let pulling := withNotices 29 readingInRing
    let excluding := withNotices 31 (withJob .loading (clip0 .listed))
    (base.faults.route .cardFault = .notice ∧ base.faults.route .linkCheck = .quiet ∧ base.faults.route .destLost = .alarm
        ∧ base.faults.capture = none
        ∧ (base.raise ⟨.destLost, none, none, some 0, none, .driveRemoved⟩).faults.capture.any (fun o => decide (o.cls.severity = .lasting)))
      ∧ (opening.link.freeEntry = some 0 ∧ (opening.port 3).enabled = true ∧ (opening.port 3).state = .present
          ∧ (opening.port 3).identity = some card0 ∧ (∀ i, ¬Holds opening i card0) ∧ (opening.job 0).state = .free
          ∧ (opening.link.outq.filter fun f => decide (f.owner = .notice)).length + 2 ≤ 32)
      ∧ (IsRemoval 2 (.cardOut 2) ∧ (pulling.port 2).enabled = true ∧ (pulling.port 2).state = .bound
          ∧ (pulling.port 2).boundJob = some 0 ∧ (pulling.port 2).fifo = [piece0] ∧ (pulling.job 0).state = .running
          ∧ Table.wf pulling.ring.held = true ∧ pulling.ring.waitList = [] ∧ pulling.faults.route .cardPulled = .notice
          ∧ pulling.LampsFormed ∧ pulling.faults.capture = none
          ∧ (pulling.link.outq.filter fun f => decide (f.owner = .notice)).length + 3 ≤ 32)
      ∧ (excluding.link.freeEntry = some 0 ∧ 0 < 4096 ∧ excluding.clip? 0 = some (clip0 .listed)
          ∧ (∀ d : DestNo, (clip0 .listed).copies[d] = none) ∧ (excluding.job 0).state = .loading ∧ excluding.LanesIdle
          ∧ excluding.LampsFormed ∧ excluding.manifest.queue.length < 512
          ∧ (excluding.link.outq.filter fun f => decide (f.owner = .notice)).length < 32) :=
  ⟨by decide +kernel, by unfold Holds; decide +kernel,
    ⟨Or.inl rfl, by
      constructorm* _ ∧ _
      all_goals first | decide +kernel | (unfold State.LampsFormed; decide +kernel)⟩,
    ⟨by decide +kernel, by decide, by decide +kernel, by decide +kernel, by decide +kernel, (by decide +kernel : ∀ d, _ ∧ _),
      by unfold State.LampsFormed; decide +kernel, by decide +kernel, by decide +kernel⟩⟩

/-! ### Freed slots -/

/-- The WRITE of slot 0 outstanding on DP0 with no other slot free; job 1 at CP3 and DP1's lane want one. -/
def wanting (wait : List Requester) (y : Job) : State :=
  { (((((writing.setJob 0 y).setJob 1 { jobRunning with boundPort := some 3, clips := [5], held := 0 }).setClip
        5 { clip0 .reading with job := 1 }).setClip 6 (clip0 .reading)).setClip 1 (clip0 .read)).setDest 1
          { drive0 with lane := { Lane.empty with copies := [1], current := some 1, standing := some (0, .card), held := 7 } } with
    ring := { freeList := [], held := [(0, slot0 .staged [0] ten)], waitList := wait } }

/-- Job 0 draining, and RUNNING at its quota before clip 6. -/
def drained : Job := { jobRunning with state := .draining, readPos := ⟨1, 0⟩ }
def stalled : Job := { jobRunning with quota := 1, clips := [0, 6], readPos := ⟨1, 0⟩ }

theorem wanting_last (wait : List Requester) (y : Job) : LastWrite (wanting wait y) 0 (.wq 0) 0 0 0 :=
  ⟨write0, 1, Item.new 0 (.data 0), [Item.new 0 .trailer], clipWith .read (copy0 .writing), copy0 .writing,
    slot0 .staged [0] ten, rfl, rfl, rfl, rfl, rfl, rfl, rfl, rfl, rfl, rfl⟩

theorem wanting_atQuota (wait : List Requester) (h : Requester.job 0 ∉ wait) : AtQuota (wanting wait stalled) 0 :=
  ⟨rfl, rfl, rfl, (by decide : 0 < stalled.quota), fun n y hm => by cases List.mem_singleton.1 hm; decide, h⟩

theorem wanting_notStalled (wait : List Requester) : NotStalled (wanting wait drained) (.job 0) := fun h => by cases h

/-- A job and a lane that head the wait list, with an owner that wants nothing and one at its quota. -/
theorem witness_FreedSlotsServeRequesters :
    (let s (y : Job) := wanting [.job 1, .lane 1] y
     LastWrite (s drained) 0 (.wq 0) 0 0 0 ∧ LastWrite (s stalled) 0 (.wq 0) 0 0 0 ∧ NotStalled (s drained) (.job 0)
      ∧ AtQuota (s stalled) 0 ∧ (s stalled).ring.freeList = [] ∧ (s stalled).ring.waitList = .job 1 :: [.lane 1]
      ∧ Requester.job 1 ∉ [Requester.lane 1] ∧ ((s stalled).job 1).state = .running
      ∧ ((s stalled).job 1).boundPort = some 3 ∧ ((s stalled).job 1).held < ((s stalled).job 1).quota
      ∧ (∀ m y, (m, y) ∈ (s stalled).ring.held → ¬(y.state = .filling ∧ y.owner = .job 1))
      ∧ ((s stalled).job 1).clips[((s stalled).job 1).readPos.clip]? = some 5
      ∧ (s stalled).clip? 5 = some { clip0 .reading with job := 1 })
    ∧ (let s := wanting [] stalled
       LastWrite s 0 (.wq 0) 0 0 0 ∧ s.ring.waitList = [] ∧ AtQuota s 0 ∧ (s.job 0).boundPort = some 2
        ∧ s.ring.freeList ++ [0] = 0 :: [] ∧ (s.job 0).clips[(s.job 0).readPos.clip]? = some 6
        ∧ s.clip? 6 = some (clip0 .reading))
    ∧ (let s := wanting [.lane 1, .job 1] drained
       LastWrite s 0 (.wq 0) 0 0 0 ∧ NotStalled s (.job 0) ∧ s.ring.freeList = []
        ∧ s.ring.waitList = .lane 1 :: [.job 1] ∧ Requester.lane 1 ∉ [Requester.job 1] ∧ (s.dest 1).lane.current = some 1
        ∧ (s.dest 1).lane.standing = some (0, .card) ∧ (s.dest 1).lane.held < 8 ∧ s.clip? 1 = some (clip0 .read)
        ∧ (s.job (clip0 .read).job).boundPort = some 2 ∧ 0 + 1 = clipUnits (clip0 .read).length) :=
  ⟨⟨wanting_last _ _, wanting_last _ _, wanting_notStalled _, wanting_atQuota _ (by decide), rfl, rfl, by decide, rfl, rfl,
      by decide +kernel, fun m y hm => by cases List.mem_singleton.1 hm; decide, rfl, rfl⟩,
    ⟨wanting_last _ _, rfl, wanting_atQuota _ (by decide), rfl, rfl, rfl, rfl⟩,
    ⟨wanting_last _ _, wanting_notStalled _, rfl, rfl, by decide, rfl, rfl, by decide +kernel, rfl, rfl, by decide⟩⟩

/-! ### Failed attempts -/

/-- A destination whose lane waits for a slot for clip 1. -/
def busy (x : DestPort) : DestPort :=
  { x with lane := { Lane.empty with copies := [1], current := some 1, standing := some (0, .card) } }

/-- Clip 0 READ with the copy `k` on DP0, R = 1, mirror DP0 and spare DP1; every lane waits for a slot. -/
def failing (k : Copy) (x : DestPort) : State :=
  { (((base.setJob 0
        { job0 .draining with snapshot := some { r := 1, mirrors := [0], spares := [1] }, held := 1 }).setPort 2 port0).setClip
      0 (clipWith .read k)).setClip 1 (clip0 .read) with
    dests := #v[busy x, busy drive0, busy drive0, busy drive0]
    ring := { freeList := [1, 2, 3], held := [(0, slot0 .staged [0, 1] ten)], waitList := [] } }

/-- A copy in attempt `a`. -/
def copyOf (a : Nat) (st : CopyState) : Copy := { copy0 st with attempt := a }

/-- The WRITE or the trailer of attempt `a` outstanding, its item's count at 7. -/
def failingWrite (a : Nat) (i : ItemKind) (serves : Serves) : State :=
  failing (copyOf a .writing)
    { (drive0.setQueue (.wq 0) [{ Item.new 0 i with retries := 7 }]) with outstanding := some ⟨write0, serves⟩ }

/-- The trailer's READ of attempt `a` outstanding, its count at 7, the running sums as given. -/
def failingRead (a : Nat) (sums : Sums) : State :=
  failing (copyOf a .verifying)
    { drive0 with
      outstanding := some ⟨⟨.read, 2048, 1, []⟩, .readLane⟩
      rl := { jobs := [.verify 0], active := some ⟨.trailer, none, 7⟩, sum := some ⟨10, sums, 10⟩ } }

theorem failing_rest (k : Copy) (x : DestPort) : OthersAtRest (failing k x) 0 0 := by
  refine ⟨fun e he => ?_, fun m y hm => ?_⟩
  · have : ∀ e : DestNo, e ≠ 0 → ((failing k x).dest e).rl.jobs = [] := by
      intro e he
      rcases three e he with rfl | rfl | rfl <;> rfl
    exact this e he
  · cases List.mem_singleton.1 hm
    exact ⟨fun _ _ => ⟨1, by decide, by decide⟩, fun h => by cases h⟩

theorem failing_waits (k : Copy) (x : DestPort) (f : DestNo) : LaneWaits (failing k x) 0 f := by
  rcases four f with rfl | rfl | rfl | rfl <;> exact ⟨1, rfl, by decide, rfl, rfl, (by decide : 0 ∉ ([1] : List Nat))⟩

/-- Every way in which attempt `a` fails. -/
theorem failing_ways (a : Nat) :
    (let s := failingWrite a (.data 0) (.data (.wq 0) 0 a 0)
     let k := copyOf a .writing
     FailsAttempt s 0 0 (clipWith .read k) k (.driveFail 0) .driveFail none
      ∧ FailsAttempt s 0 0 (clipWith .read k) k (.driveRetry 0) .driveRetry none)
    ∧ (let s := failingWrite a .trailer (.trailer (.wq 0) 0 a)
       let k := copyOf a .writing
       FailsAttempt s 0 0 (clipWith .read k) k (.driveFail 0) .driveFail none)
    ∧ (let s := failingRead a ⟨1, 1⟩
       let k := copyOf a .verifying
       let sum := some (SumUnit.close ⟨10, ⟨1, 1⟩, 10⟩)
       FailsAttempt s 0 0 (clipWith .read k) k (.driveFail 0) .driveFail sum
        ∧ FailsAttempt s 0 0 (clipWith .read k) k (.driveRetry 0) .driveRetry sum
        ∧ FailsAttempt s 0 0 (clipWith .read k) k (.driveDone 0 ten) .driveFail sum
        ∧ FailsAttempt s 0 0 (clipWith .read k) k (.driveDone 0 trailer0) .sumMismatch sum)
    ∧ (let s := failingRead a ⟨201986576, 471276569⟩
       let k := copyOf a .verifying
       FailsAttempt s 0 0 (clipWith .read k) k (.driveDone 0 sector0) .trailerMismatch
        (some (SumUnit.close ⟨10, ⟨201986576, 471276569⟩, 10⟩))) := by
  have hn : ¬TrailerMatches sector0 0 10 sum0 ⟨0, 1⟩ := by unfold TrailerMatches; decide +kernel
  refine ⟨⟨?_, ?_⟩, ?_, ⟨?_, ?_, ?_, ?_⟩, ?_⟩
  · exact .write write0 (.wq 0) _ _ _ _ _ (Or.inl ⟨0, rfl⟩) rfl rfl rfl rfl (Or.inl ⟨rfl, rfl⟩)
  · exact .write write0 (.wq 0) _ _ _ _ _ (Or.inl ⟨0, rfl⟩) rfl rfl rfl rfl (Or.inr ⟨rfl, rfl, rfl⟩)
  · exact .write write0 (.wq 0) _ _ _ _ _ (Or.inr rfl) rfl rfl rfl rfl (Or.inl ⟨rfl, rfl⟩)
  · exact .verify _ .trailer 7 _ _ rfl rfl rfl rfl (Or.inl ⟨rfl, rfl⟩)
  · exact .verify _ .trailer 7 _ _ rfl rfl rfl rfl (Or.inr (Or.inl ⟨rfl, rfl, rfl⟩))
  · exact .verify ⟨.read, 2048, 1, []⟩ .trailer 7 _ _ rfl rfl rfl rfl (Or.inr (Or.inr ⟨ten, rfl, rfl, rfl, by decide⟩))
  · exact .readback ⟨.read, 2048, 1, []⟩ 7 ⟨10, ⟨1, 1⟩, 10⟩ sum0 ⟨0, 1⟩ _ _ rfl rfl rfl rfl rfl (by decide +kernel) rfl rfl rfl
      (Or.inl ⟨by decide +kernel, rfl⟩)
  · exact .readback ⟨.read, 2048, 1, []⟩ 7 ⟨10, ⟨201986576, 471276569⟩, 10⟩ sum0 ⟨0, 1⟩ _ _ rfl rfl rfl rfl rfl
      (by decide +kernel) rfl rfl rfl (Or.inr ⟨by decide +kernel, by decide +kernel, hn, rfl⟩)

/-- Attempt 1, with `failing_ways 1`. -/
theorem witness_FailedAttemptsBecomeRepairs (k : Copy) (x : DestPort) (h : x.abandoned = false) :
    ((failing k x).dest 0).abandoned = false ∧ (failing k x).clip? 0 = some (clipWith .read k)
      ∧ (clipWith .read k).copies[(0 : DestNo)] = some k ∧ (copyOf 1 .writing).attempt = 1 ∧ (copyOf 1 .verifying).attempt = 1
      ∧ LaneWaits (failing k x) 0 0 ∧ OthersAtRest (failing k x) 0 0 :=
  ⟨h, rfl, rfl, rfl, rfl, failing_waits k x 0, failing_rest k x⟩

/-- Attempt 2, with `failing_ways 2`: a spare to enlist, a clip not short of R, and no spare that qualifies. -/
theorem witness_FailedRepairsEnlistSpares (k : Copy) (x : DestPort) (h : x.abandoned = false) :
    let s := failing k x
    let snap : Snapshot := { r := 1, mirrors := [0], spares := [1] }
    ((s.dest 0).abandoned = false ∧ s.clip? 0 = some (clipWith .read k) ∧ (clipWith .read k).copies[(0 : DestNo)] = some k
        ∧ (copyOf 2 .writing).attempt = 2 ∧ (clipWith .read k).state = .read ∧ (s.job 0).snapshot = some snap
        ∧ (∀ f, LaneWaits s 0 f) ∧ OthersAtRest s 0 0 ∧ (0 : DestNo) ∉ snap.spares ∧ snap.spares.length ≤ 4)
      ∧ (liveOrVerifiedBeside (clipWith .read k) 0 + 1 = snap.r ∧ snap.spares = [] ++ 1 :: []
          ∧ Qualifies s (clipWith .read k) 1)
      ∧ (snap.r ≤ liveOrVerifiedBeside { clipWith .read k with copies := #v[some k, none, some (copy0 .verified), none] } 0
          ∧ ¬Qualifies s { clipWith .read k with copies := #v[some k, some (copy0 .verified), none, none] } 1) := by
  refine ⟨⟨h, rfl, rfl, rfl, rfl, rfl, failing_waits k x, failing_rest k x, by decide, by decide⟩,
    ⟨by simp [liveOrVerifiedBeside, clipWith, allDests], rfl, rfl, fun q hq => ?_⟩,
    by simp [liveOrVerifiedBeside, allDests, copy0], fun hq => ?_⟩
  · cases (show (clipWith .read k).copies[(1 : DestNo)] = none from rfl).symm.trans hq
  · rcases hq.2 (copy0 .verified) rfl with h | h | h <;> cases h

/-! ### Ends of clips and supplies -/

/-- Job 0 in the last piece of clip 0, the second clip of its list LISTED or absent, a pause pending or not. -/
def ending (more : Bool) (pause : Bool) : State :=
  let s := readingInRing.modJob 0 fun y => { y with clips := if more then [0, 6] else [0], pausePending := pause }
  if more then s.setClip 6 (clip0 .listed) else s

theorem ending_holds (more pause : Bool) :
    let s := ending more pause
    (s.port 2).enabled = true ∧ (s.port 2).outstanding = some ⟨piece0, 1, none⟩ ∧ (s.port 2).abandoned = false
      ∧ sector0.length = piece0.count * 512 ∧ (s.port 2).fifo = piece0 :: [] ∧ s.fillingOf (.job 0) = some 0
      ∧ s.slot? 0 = some (slot0 .filling [] []) ∧ s.clip? 0 = some (clipWith .reading (copy0 .writing))
      ∧ 0 ∈ (s.job 0).clips ∧ clipUnits (clipWith .reading (copy0 .writing)).length = 0 + 1 ∧ (s.job 0).state = .running
      ∧ s.LanesIdle ∧ s.faults.route .destFull ≠ .hold ∧ Requester.job 0 ∉ s.ring.waitList
      ∧ (s.job 0).pausePending = pause := by
  intro s
  constructorm* _ ∧ _
  all_goals
    cases more <;> cases pause <;> first | (subst s; decide +kernel) | (subst s; unfold State.LanesIdle; decide +kernel)

theorem ending_ring (more pause : Bool) : (ending more pause).ring = ringOf (slot0 .filling [] []) := by
  cases more <;> cases pause <;> rfl

/-- A list fits when its clips are the job's. -/
theorem fits_of {s : State} {j : JobNo}
    (h : s.clips.length ≤ 4096 ∧ (s.job j).clips.length ≤ 4096 ∧ (s.job j).clips.Nodup
      ∧ ∀ b ∈ (s.job j).clips, (s.clip? b).all (fun z => decide (z.job = j)) = true) : ListFits s j :=
  ⟨h.1, h.2.1, h.2.2.1, fun b hb z hz => by simpa [hz] using h.2.2.2 b hb⟩

/-- The last piece with no clip LISTED behind it and with one; the fourth failed attempt. -/
theorem witness_ClipReadsEnd (more pause : Bool) :
    let s := ending more pause
    let x := clipWith .reading (copy0 .writing)
    s.ring.Sound ∧ SparesFit (s.job 0) ∧ ListFits s 0
      ∧ (∀ m z, (m, z) ∈ s.ring.held → z.state = .filling → z.owner = .job 0 → m = 0)
      ∧ (x.destsWith fun q => decide (q.origin = .plan ∧ q.state = .writing ∧ q.suspended = false)) = [0]
      ∧ (∀ (d : DestNo) (q : Copy), x.copies[d] = some q → q.suspended = false)
      ∧ ((ending false pause).job 0).clips = [0]
      ∧ (((ending true pause).job 0).clips[1]? = some 6 ∧ (ending true pause).clip? 6 = some (clip0 .listed)
          ∧ 0 < (clip0 .listed).length ∧ ∀ i a, i < 1 → ((ending true pause).job 0).clips[i]? = some a → a = 0)
      ∧ (let f := readingInRing.modPort 2 fun x => { x with outstanding := some ⟨piece0, 4, none⟩ }
         (f.port 2).enabled = true ∧ (f.port 2).outstanding = some ⟨piece0, 4, none⟩ ∧ (f.port 2).fifo = piece0 :: []
          ∧ (f.job 0).boundPort = some 2 ∧ f.ring.waitList = [] ∧ f.LanesIdle ∧ (∀ d, (f.dest d).rl.jobs = [])
          ∧ f.faults.route .cardFault ≠ .hold ∧ (f.job 0).clips = [0]
          ∧ ∀ m z, (m, z) ∈ f.ring.held → (z.state = .filling → z.owner = .job 0 → m = 0) ∧ (z.clip = 0 → z.owner = .job 0)) := by
  have hc : ∀ d : DestNo, (clipWith .reading (copy0 .writing)).copies[d] = none
      ∨ (clipWith .reading (copy0 .writing)).copies[d] = some (copy0 .writing) := by decide +kernel
  refine ⟨by simpa only [ending_ring] using ringOf_sound _, fun snap h => ?_,
    fits_of (by cases more <;> cases pause <;> decide +kernel), fun m z hm _ _ => ?_, by decide +kernel,
    fun d q h => ?_, by cases pause <;> decide +kernel, ⟨by cases pause <;> decide +kernel, by cases pause <;> decide +kernel,
      by decide, fun i a hi ha => ?_⟩,
    by decide +kernel, by decide +kernel, by decide +kernel, rfl, rfl, (by decide +kernel : ∀ d, _ ∧ _),
    by decide +kernel, by decide +kernel, rfl, fun m z hm => ?_⟩
  · have e : ((ending more pause).job 0).snapshot = some { r := 1, mirrors := [0], spares := [] } := by
      cases more <;> cases pause <;> decide +kernel
    cases e.symm.trans h; decide
  · rw [ending_ring] at hm; cases List.mem_singleton.1 hm; rfl
  · rcases hc d with e | e <;> rw [e] at h <;> cases h
    rfl
  · have e : ((ending true pause).job 0).clips = [0, 6] := by cases pause <;> decide +kernel
    rw [e] at ha
    cases Nat.lt_one_iff.1 hi
    cases ha; rfl
  · cases List.mem_singleton.1 hm
    exact ⟨fun _ _ => rfl, fun _ => rfl⟩

/-- A clip of two units, VERIFIED on DP0 and DP2, WRITING on DP1. -/
def clipTwo : Clip :=
  { clipWith .read (copy0 .verified) with
    length := 1048577, extents := [⟨5, 2049⟩]
    copies := #v[some (copy0 .verified), some { copy0 .writing with window := some ⟨0, 2⟩ }, some (copy0 .verified), none] }

/-- The slot DP1's lane fills with unit 0, and its item. -/
def slotTwo : Slot := { slot0 .filling [] [] with owner := .lane 1, byteCount := 1048576 }
def itemTwo : Item := Item.new 0 (.data 0)

/-- DP1's lane walks the clip: unit 0 in work in slot 0, unit 1 waiting for a slot; CP2 and DP0 as given. -/
def supplying (p : CardPort) (x : DestPort) : State :=
  { (((((base.setJob 0 { job0 .draining with held := 0 }).setPort 2 p).setClip 0 clipTwo).setDest 0 x).setDest 1
        { drive0 with
          cq := [itemTwo]
          lane :=
            { copies := [0], current := some 0, nextUnit := 1, standing := some (1, .card), held := 1
              sum := some (SumUnit.start 1048577), cardOnly := true } }).setDest 2 drive0 with
    ring := { freeList := [1, 2, 3], held := [(0, slotTwo)], waitList := [] } }

/-- A supply piece outstanding at CP2, and the READ of a SUPPLY job on DP0. -/
def supplyPiece : ReaderItem := ⟨.supply 1 0 0 0 0, 5, 1⟩
def portSupplying (attempt : Nat) : CardPort :=
  { port0 with fifo := [supplyPiece], outstanding := some ⟨supplyPiece, attempt, none⟩ }
def driveSupplying : DestPort :=
  { drive0 with
    outstanding := some ⟨⟨.read, 2112, 1, []⟩, .readLane⟩
    rl := { jobs := [.supply 0 0 0 1], active := some ⟨.supply, none, 7⟩, sum := none } }

theorem supplying_fills (p : CardPort) (x : DestPort) : Fills (supplying p x) 1 0 0 0 slotTwo itemTwo :=
  ⟨rfl, rfl, rfl, rfl, rfl, [], [], rfl, rfl, fun z h => by rcases h with h | h <;> cases h⟩

theorem supplying_next (p : CardPort) : NextSource (supplying p drive0) 1 clipTwo [] 0 :=
  ⟨⟨by decide, by decide, rfl, copy0 .verified, rfl, rfl⟩, fun f h => absurd h (by simp)⟩

theorem supplying_next_beside (p : CardPort) (x : DestPort) : NextSource (supplying p x) 1 clipTwo [0] 2 :=
  ⟨⟨by decide, by decide, rfl, copy0 .verified, rfl, rfl⟩, fun f h hf => by
    rcases four f with rfl | rfl | rfl | rfl
    · exact hf.2.1 (by decide)
    · exact hf.1 rfl
    · exact absurd h (by decide)
    · exact absurd h (by decide)⟩

/-- A supply piece that completes the slot and its fourth failure; a SUPPLY job that completes it and its failures, the
card gone. -/
theorem witness_SuppliesFillTheLanesSlots :
    (let s := supplying (portSupplying 4) drive0
     (s.port 2).enabled = true ∧ (s.port 2).outstanding = some ⟨supplyPiece, 4, none⟩ ∧ (s.port 2).abandoned = false
      ∧ sector0.length = supplyPiece.count * 512 ∧ (s.port 2).fifo = supplyPiece :: [] ∧ s.slot? 0 = some slotTwo
      ∧ (s.dest 1).lane.standing.isSome = true ∧ (s.dest 1).lane.current = some 0 ∧ s.clip? 0 = some clipTwo
      ∧ Fills s 1 0 0 0 slotTwo itemTwo ∧ NextSource s 1 clipTwo itemTwo.noDests 0 ∧ s.faults.route .cardFault ≠ .hold)
    ∧ (let s := (supplying port0 driveSupplying).modJob 0 fun y => { y with boundPort := none }
       (s.dest 0).outstanding = some ⟨⟨.read, 2112, 1, []⟩, .readLane⟩ ∧ (s.dest 0).abandoned = false
        ∧ (s.dest 0).rl.jobs = .supply 0 0 0 1 :: [] ∧ (s.dest 0).rl.active = some ⟨.supply, none, 7⟩
        ∧ s.clip? 0 = some clipTwo ∧ Fills s 1 0 0 0 slotTwo itemTwo ∧ NextSource s 1 clipTwo (0 :: itemTwo.noDests) 2
        ∧ (s.job clipTwo.job).boundPort = none ∧ ten.length ≠ 1 * 512 ∧ sector0.length = 1 * 512) :=
  ⟨⟨rfl, rfl, rfl, by decide +kernel, rfl, rfl, rfl, rfl, rfl, supplying_fills _ _, supplying_next _, by decide +kernel⟩,
    ⟨rfl, rfl, rfl, rfl, rfl, supplying_fills _ _, supplying_next_beside _ _, rfl, by decide, by decide +kernel⟩⟩

/-- The SUPPLY job's destination bound again at the bounds of its parameters, and unbound: the card bound, another verified
copy, and no source left. -/
theorem witness_DestRequestRules_moves :
    let s := supplying port0 driveSupplying
    let away := s.modJob 0 fun y => { y with boundPort := none }
    let last : State := { away.setDest 2 DestPort.reset with ring := ringOf slotTwo }
    (s.link.freeEntry = some 0
        ∧ (∃ payload b, Rebinds (s.dest 0) 1 0 (.destBind 1 0 79456 20544 64 1 9 64) 0x10 payload b .active)
        ∧ Rebinds (s.dest 0) 1 0 (.destUnbind 1 0) 0x11 [] none .unbound ∧ s.plan.lock = false ∧ ¬LiveCopyOn s 0
        ∧ (s.dest 0).rl.jobs = [.supply 0 0 0 1] ∧ s.clip? 0 = some clipTwo ∧ Fills s 1 0 0 0 slotTwo itemTwo
        ∧ (s.job clipTwo.job).boundPort = some 2 ∧ itemTwo.noCard = false ∧ (s.dest 0).outstanding.isSome = true)
      ∧ (¬LiveCopyOn away 0 ∧ Fills away 1 0 0 0 slotTwo itemTwo ∧ (away.job clipTwo.job).boundPort = none
          ∧ NextSource away 1 clipTwo (0 :: itemTwo.noDests) 2)
      ∧ (¬LiveCopyOn last 0 ∧ Fills last 1 0 0 0 slotTwo itemTwo ∧ (∀ g, ¬NextSource last 1 clipTwo (0 :: itemTwo.noDests) g)
          ∧ (∃ q, clipTwo.copies[(1 : DestNo)] = some q) ∧ itemTwo.clip = 0 ∧ (last.dest 1).lane.copies = [0]
          ∧ (last.dest 1).lane.current = some 0 ∧ last.ring.Sound ∧ last.ring.waitList = [] ∧ ∀ r, NotStalled last r) := by
  have hl : ∀ s : State, s.clips = [(0, clipTwo)] → ¬LiveCopyOn s 0 := by
    rintro s hs ⟨c, x, k, hm, hk, hlive⟩
    rw [hs] at hm
    cases List.mem_singleton.1 hm
    cases (show clipTwo.copies[(0 : DestNo)] = some (copy0 .verified) from rfl).symm.trans hk
    cases hlive
  refine ⟨⟨rfl, ⟨_, _, by apply Rebinds.bind (sectors := 100000) <;> decide +kernel⟩, .unbind (fun h => by cases h) (fun h => by cases h), rfl, hl _ rfl, rfl, rfl,
      supplying_fills _ _, rfl, rfl, rfl⟩,
    ⟨hl _ rfl, supplying_fills _ _, rfl, supplying_next_beside _ _⟩,
    ⟨hl _ rfl, ⟨rfl, rfl, rfl, rfl, rfl, [], [], rfl, rfl, fun z h => by rcases h with h | h <;> cases h⟩, fun g hg => ?_,
      ⟨_, rfl⟩, rfl, rfl, rfl, ringOf_sound _, rfl, fun r => ?_⟩⟩
  · obtain ⟨⟨h1, h2, h3, -⟩, -⟩ := hg
    rcases four g with rfl | rfl | rfl | rfl
    · exact h2 (by decide)
    · exact h1 rfl
    · cases h3
    · cases h3
  · cases r with
    | job j => intro h; exact absurd h (by revert j; decide +kernel)
    | lane d => rcases four d with rfl | rfl | rfl | rfl <;> intro _ <;> decide +kernel

/-! ### Loss and return -/

/-- Job 0 draining with its one copy in work on DP0: written from the job's slot, from one DP1's lane left, or from a slot
DP0's lane fills. -/
def losing (y : Slot) (x z : DestPort) : State := { (writing.setDest 0 x).setDest 1 z with ring := ringOf y }

theorem losing_holds (y : Slot) (x z : DestPort) (h : x.rl.jobs = []) (hl : x.lane.standing = none)
    (hz : z.lane.copies = [] ∧ z.lane.current = none ∧ z.rl.jobs = [] ∧ z.lane.standing = none) :
    let s := losing y x z
    (∀ e, e ≠ 0 → (s.dest e).lane.copies = [] ∧ (s.dest e).lane.current = none ∧ (s.dest e).rl.jobs = [])
      ∧ (∀ job ∈ (s.dest 0).rl.jobs, ∃ c, job = .verify c) ∧ Table.wf s.clips = true ∧ s.clips.length ≤ 4096
      ∧ s.ring.Sound ∧ s.ring.waitList = [] ∧ (∀ r, NotStalled s r)
      ∧ (∀ j snap, (s.job j).snapshot = some snap →
          snap.spares.length ≤ 4 ∧ ∀ e ∈ snap.spares, e = 0 ∨ (s.dest e).state ≠ .active) := by
  have hd : ∀ e : DestNo, e ≠ 0 → let v := (losing y x z).dest e
      v.lane.copies = [] ∧ v.lane.current = none ∧ v.rl.jobs = [] ∧ v.lane.standing = none := by
    intro e he
    rcases three e he with rfl | rfl | rfl
    · exact hz
    · exact ⟨rfl, rfl, rfl, rfl⟩
    · exact ⟨rfl, rfl, rfl, rfl⟩
  have h0 : (losing y x z).dest 0 = x := rfl
  have ej : ∀ j, (losing y x z).job j = writing.job j := fun _ => by simp only [losing, State.job, State.setDest]
  have hj : ∀ j, (writing.job j).state ≠ .running ∧ ∀ snap, (writing.job j).snapshot = some snap → snap.spares = [] := by
    have hk : ∀ j, (writing.job j).state ≠ .running ∧ ((writing.job j).snapshot.any fun snap => !snap.spares.isEmpty) = false := by
      decide +kernel
    refine fun j => ⟨(hk j).1, fun snap e => ?_⟩
    have := (hk j).2
    rw [e] at this
    simpa using this
  refine ⟨fun e he => ⟨(hd e he).1, (hd e he).2.1, (hd e he).2.2.1⟩, fun job hm => ?_, rfl, (by decide : 1 ≤ 4096), ringOf_sound _, rfl,
    fun r => ?_, fun j snap hs => ?_⟩
  · rw [h0, h] at hm; cases hm
  · cases r with
    | job j => exact fun hr => absurd ((ej j) ▸ hr) (hj j).1
    | lane d =>
      intro hs
      by_cases he : d = 0
      · subst he
        rw [h0, hl] at hs; cases hs
      · rw [(hd d he).2.2.2] at hs; cases hs
  · rw [ej] at hs
    rw [(hj j).2 snap hs]; exact ⟨by decide, by simp⟩

/-- The slot needed by DP0 alone, by DP1 too, owned by DP1's lane, which is idle, and filled by DP0's lane; the settling of the job; and a lost source, without
the card and with it. -/
theorem witness_LossAbortsLiveCopies :
    let off := DestPort.reset
    let x : DestPort := { drive0 with timer := true }
    let filled : DestPort := { x with cq := [Item.new 0 (.data 0)] }
    let slot : Slot := { slot0 .filling [] [] with owner := .lane 0 }
    (Loses ((losing (slot0 .staged [0] ten) x off).dest 0) 0 (.driveOut 0) .driveRemoved false none
        ∧ Loses ((losing (slot0 .staged [0, 1] ten) x off).dest 0) 0 (.responseTimerExpiry 0) .driveTimeout true (some 100000)
        ∧ InUse ((losing slot filled off).dest 0))
      ∧ (let y : Slot := { slot0 .staged [0] ten with owner := .lane 1 }
         let s := losing y x { drive0 with lane := { Lane.empty with held := 1 } }
         Loses (s.dest 0) 0 (.driveOut 0) .driveRemoved false none ∧ s.slot? 0 = some y ∧ (s.dest 1).lane.held = 1)
      ∧ (∃ k, (losing slot filled off).copy? 0 0 = some k ∧ k.state.live = true)
      ∧ ((losing (slot0 .staged [0] ten) x off).slot? 0 = some (slot0 .staged [0] ten)
          ∧ (losing (slot0 .staged [0, 1] ten) x off).slot? 0 = some (slot0 .staged [0, 1] ten)
          ∧ (losing slot filled off).slot? 0 = some slot ∧ Item.new 0 (.data 0) ∈ ((losing slot filled off).dest 0).cq)
      ∧ (((losing slot filled off).job 0).state = .draining ∧ ((losing slot filled off).job 0).snapshot.isSome = true
          ∧ ((losing slot filled off).job 0).clips = [0] ∧ (losing slot filled off).clip? 0 = some (clipWith .read (copy0 .writing)))
      ∧ (let s := supplying port0 driveSupplying
         let away := s.modJob 0 fun y => { y with boundPort := none }
         Loses (s.dest 0) 0 (.driveOut 0) .driveRemoved false none ∧ InUse (s.dest 0) ∧ ¬LiveCopyOn s 0
          ∧ (s.dest 0).rl.jobs = [.supply 0 0 0 1] ∧ s.clip? 0 = some clipTwo ∧ Fills s 1 0 0 0 slotTwo itemTwo
          ∧ (s.job clipTwo.job).boundPort = some 2 ∧ itemTwo.noCard = false
          ∧ ¬LiveCopyOn away 0 ∧ Fills away 1 0 0 0 slotTwo itemTwo ∧ NextSource away 1 clipTwo (0 :: itemTwo.noDests) 2
          ∧ (away.job clipTwo.job).boundPort = none) := by
  have hl : ∀ s : State, s.clips = [(0, clipTwo)] → ¬LiveCopyOn s 0 := by
    rintro s hs ⟨c, x, k, hm, hk, hlive⟩
    rw [hs] at hm
    cases List.mem_singleton.1 hm
    cases (show clipTwo.copies[(0 : DestNo)] = some (copy0 .verified) from rfl).symm.trans hk
    cases hlive
  exact ⟨⟨.out, .timer rfl, Or.inl rfl⟩, ⟨.out, rfl, rfl⟩, ⟨copy0 .writing, rfl, rfl⟩, ⟨rfl, rfl, rfl, by decide +kernel⟩, ⟨rfl, rfl, rfl, rfl⟩,
    .out, Or.inl rfl, hl _ rfl, rfl, rfl, supplying_fills _ _, rfl, rfl, hl _ rfl, supplying_fills _ _,
    supplying_next_beside _ _, rfl⟩

/-- The card of job 0 away, the job in a state, its clips as given; DP1's lane waits for a slot for clip 9. -/
def away (st : JobState) (target : Option ResumeTarget) (clips : List Nat) (x : Clip) : State :=
  ((((base.setJob 0 { job0 st with boundPort := none, resumeTarget := target, clips := clips }).setClip 0 x).setClip
      1 x).setClip 9 { clip0 .read with job := 1 }).setDest 1
    { drive0 with lane := { Lane.empty with copies := [9], current := some 9, standing := some (0, .card) } }

theorem away_returns (st : JobState) (target : Option ResumeTarget) (clips : List Nat) (x : Clip) (h : st ≠ .free) :
    ReturnsTo (away st target clips x) 3 0 card0 := by
  refine ⟨rfl, Or.inl rfl, ⟨h, rfl⟩, fun i hi => ?_, rfl, (by decide : 3 ≤ 4096)⟩
  by_cases e : i = 0
  · exact e
  · exfalso
    have hj : (away st target clips x).job i = Job.free := by
      have : ∀ i : JobNo, i ≠ 0 → (away st target clips x).job i = Job.free := by
        intro i hi
        simp [away, State.job, State.setJob, State.setClip, State.setDest, base, State.reset]
        rw [Vector.getElem_set_ne]
        · simp
        · intro e; exact hi (Fin.ext e.symm)
      exact this i e
    have := hi.1
    rw [hj] at this
    exact this rfl

/-- A suspended copy on DP1. -/
def parked : Clip :=
  { clip0 .read with sum := some sum0, copies := #v[none, some { copy0 .writing with suspended := true }, none, none] }

theorem parked_on (s : State) (h : ∀ c, c ∈ (s.job 0).clips → c = 0 ∨ c = 1) (h0 : s.clip? 0 = some parked)
    (h1 : s.clip? 1 = some parked) (c : Nat) (d : DestNo) (hc : c ∈ (s.job 0).clips)
    (hr : ∃ k, s.copy? c d = some k ∧ k.state.live = true ∧ k.suspended = true) : d = 1 := by
  obtain ⟨k, hk, -⟩ := hr
  have e : s.copy? c d = parked.copies[d] := by
    rcases h c hc with rfl | rfl <;> simp [State.copy?, h0, h1]
  rw [e] at hk
  rcases four d with rfl | rfl | rfl | rfl
  · cases hk
  · rfl
  · cases hk
  · cases hk

/-- A PULLED job that reads on, below its quota and at it; one whose reading is over; a HELD job whose list is not in
ascending order. -/
theorem witness_CardReturns :
    (let s := base.setJob 0 { job0 .pulled with boundPort := none, resumeTarget := some .running }
     let r := s.setClip 0 (clip0 .reading)
     let ended := s.setClip 0 (clip0 .read)
     (AtRest r 0 ∧ r.LanesIdle ∧ NoneSuspended r 0 ∧ (r.job 0).clips[(r.job 0).readPos.clip]? = some 0
        ∧ r.clip? 0 = some (clip0 .reading) ∧ (r.job 0).pausePending = false ∧ r.ring.freeList = 0 :: [1, 2, 3]
        ∧ (r.job 0).held < (r.job 0).quota ∧ (r.job 0).resumeTarget = some .running ∧ (r.job 0).state = .pulled)
      ∧ (ended.LanesIdle ∧ NoneSuspended ended 0
          ∧ ∀ b ∈ (ended.job 0).clips, ended.clipState? b ≠ some .listed ∧ ended.clipState? b ≠ some .reading))
    ∧ (∀ st target clips x, st ≠ .free → ReturnsTo (away st target clips x) 3 0 card0)
    ∧ (let s := away .held none [1, 0] parked
       Table.wf s.clips = true ∧ (s.job 0).state = .held ∧ (s.job 0).clips = [1, 0]
        ∧ (∃ b, (s.dest 1).lane.current = some b ∧ (s.clip? b).isSome ∧ (s.dest 1).lane.standing.isSome)
        ∧ (∀ c d, c ∈ (s.job 0).clips → (∃ k, s.copy? c d = some k ∧ k.state.live = true ∧ k.suspended = true) → d = 1)
        ∧ (∀ d, d ≠ 1 → (s.dest d).lane.current = none ∧ (s.dest d).lane.copies = [])
        ∧ 0 ∉ (s.dest 1).lane.copies ∧ 1 ∉ (s.dest 1).lane.copies ∧ s.clipState? 0 = some .read
        ∧ ∃ k, s.copy? 0 1 = some k ∧ k.state.live = true ∧ k.suspended = true) := by
  have hs : ∀ (s : State) (x : Clip), s.clip? 0 = some x → (∀ d : DestNo, x.copies[d] = none) → (s.job 0).clips = [0] →
      NoneSuspended s 0 := by
    intro s x h hx hc c hm d k hk
    rw [hc] at hm
    cases List.mem_singleton.1 hm
    rw [State.copy?, h] at hk
    exact absurd ((hx d).symm.trans hk) (by simp)
  refine ⟨⟨⟨atRest_of_empty rfl 0, (by decide +kernel : ∀ d, _ ∧ _), hs _ _ rfl (by decide) rfl, by decide +kernel,
      rfl, rfl, by decide +kernel, by decide +kernel, rfl, by decide +kernel⟩,
      (by decide +kernel : ∀ d, _ ∧ _), hs _ _ rfl (by decide) rfl, by decide +kernel⟩, away_returns,
    by decide +kernel, rfl, rfl, ⟨9, rfl, rfl, rfl⟩, fun c d hc hr => ?_, by decide +kernel, by decide +kernel, (by decide +kernel),
    rfl, _, rfl, rfl, rfl⟩
  refine parked_on _ (fun c h => ?_) rfl rfl c d hc hr
  have h' : c ∈ ([1, 0] : List Nat) := h
  simpa [or_comm] using h'

/-! ### Catch-up lanes -/

/-- DP1's lane holds the copy `k` of clip 0, current or not; the ring as given. -/
def walking (k : Copy) (l : Lane) (ring : Ring) : State :=
  { ((((base.setJob 0 (job0 .draining)).setPort 2 port0).setClip
      0 { clip0 .read with sum := some sum0, copies := #v[some (copy0 .verified), some k, none, none] }).setDest 0 drive0).setDest
        1 { drive0 with lane := l } with
    ring := ring }

/-- The lane with the copy of clip 0 waiting, and current at unit `k`. -/
def laneWaiting : Lane := { Lane.empty with copies := [7, 0] }
def laneAt (k : Nat) : Lane := { Lane.empty with copies := [0], current := some 0, nextUnit := k }

/-- Slot 0 holds unit 0 for DP0. -/
def stagedRing : Ring := { freeList := [1, 2, 3], held := [(0, slot0 .staged [0] ten)], waitList := [] }

theorem staged_joinable (k : Copy) (l : Lane) : Joinable (walking k l stagedRing) 1 0 0 0 (slot0 .staged [0] ten) :=
  ⟨rfl, ⟨rfl, rfl, rfl, by decide, by decide⟩, fun m z _ h => absurd h (Nat.not_lt_zero m)⟩

theorem none_joinable {s : State} (h : s.ring.held = []) (d : DestNo) (c k : Nat) : NoneJoinable s d c k := by
  rintro n y ⟨hs, -⟩
  simp [State.slot?, h, Table.find] at hs

/-- A copy to allocate at the bounds of the area, a repair, one that resumes; each source; the walk's end, agreeing and
not; and the short walks. -/
theorem witness_LanesWalkTheirCopies :
    let queued (a : Nat) : Copy := { copy0 .queued with attempt := a, window := none, trailer := none }
    let c := copy0 .writing
    (let s := walking (queued 1) laneWaiting base.ring
     InUse (s.dest 1) ∧ (s.dest 1).lane.current = none ∧ (s.dest 1).binding = some area0
      ∧ (s.dest 1).lane.copies = [7] ++ 0 :: [] ∧ (∀ a ∈ ([7] : List Nat), ¬Supplied s a) ∧ Supplied s 0
      ∧ (queued 1).window = none ∧ (queued 2).attempt = 2 ∧ (copy0 .writing).window.isSome = true
      ∧ (0 < 64 ∧ 0 + clipUnits 10 ≤ 10 - 1))
    ∧ ((let s := walking c (laneAt 0) stagedRing
        InUse (s.dest 1) ∧ Table.wf s.ring.held = true ∧ (s.dest 1).lane.current = some 0 ∧ (s.dest 1).lane.standing = none
          ∧ (s.dest 1).lane.nextUnit = 0 ∧ 0 < clipUnits 10 ∧ Joinable s 1 0 0 0 (slot0 .staged [0] ten))
      ∧ (let s := walking c (laneAt 0) base.ring
         NoneJoinable s 1 0 0 ∧ (s.job 0).boundPort.isSome = true ∧ s.ring.freeList = 0 :: [1, 2, 3]
          ∧ (s.dest 1).lane.held < 8 ∧ NoneJoinable (walking c { laneAt 0 with held := 8 } base.ring) 1 0 0
          ∧ ((walking c { laneAt 0 with held := 8 } base.ring).dest 1).lane.held = 8
          ∧ (walking c (laneAt 0) { base.ring with freeList := [] }).ring.freeList = [])
      ∧ (let s := (walking c (laneAt 0) base.ring).modJob 0 fun y => { y with boundPort := none }
         let x : Clip := { clip0 .read with sum := some sum0, copies := #v[some (copy0 .verified), some c, none, none] }
         NoneJoinable s 1 0 0 ∧ (s.job 0).boundPort = none ∧ NextSource s 1 x [] 0
          ∧ ∀ e, ¬NextSource s 1 { x with copies := #v[none, some c, none, none] } [] e))
    ∧ (let unstable : Lane := { laneAt 1 with cardOnly := true, sum := some ⟨10, ⟨1, 1⟩, 10⟩ }
       let s := walking c unstable base.ring
       InUse (s.dest 1) ∧ (s.dest 1).lane.current = some 0 ∧ (s.dest 1).lane.standing = none
        ∧ clipUnits 10 ≤ (s.dest 1).lane.nextUnit ∧ (s.dest 1).cq = [] ∧ s.faults.route .sourceUnstable ≠ .hold
        ∧ ¬((SumUnit.close ⟨10, ⟨1, 1⟩, 10⟩).s1 = sum0.s1 ∧ (SumUnit.close ⟨10, ⟨1, 1⟩, 10⟩).s2 = sum0.s2))
    ∧ (let s := verifying.setDest 1 drive0
       s.link.freeEntry = some 0 ∧ s.clip? 0 = some (clipWith .read (copy0 .verifying)) ∧ Supplied s 0
        ∧ (clipWith .read (copy0 .verifying)).copies[(1 : DestNo)] = none ∧ (s.dest 1).state = .active
        ∧ (s.dest 1).binding = some area0 ∧ (s.dest 1).lane = Lane.empty ∧ (s.dest 1).cq = []
        ∧ (∀ e, (s.dest e).rl.active = none → (s.dest e).rl.jobs = []) ∧ Table.wf s.ring.held = true
        ∧ s.ring.waitList = [] ∧ clipUnits 10 ≤ 1 ∧ clipUnits 0 = 0) := by
  have hs : ∀ (k : Copy) (l : Lane) (r : Ring), Supplied (walking k l r) 0 := fun _ _ _ => Or.inl rfl
  refine ⟨⟨Or.inl rfl, rfl, rfl, rfl, fun a ha => ?_, hs _ _ _, rfl, rfl, rfl, by decide⟩,
    ⟨⟨Or.inl rfl, rfl, rfl, rfl, rfl, by decide, staged_joinable _ _⟩,
      ⟨none_joinable rfl _ _ _, rfl, rfl, by decide +kernel, none_joinable rfl _ _ _, rfl, rfl⟩,
      ⟨none_joinable rfl _ _ _, rfl, ⟨⟨by decide, by decide, rfl, copy0 .verified, rfl, rfl⟩, fun f h => absurd h (by simp)⟩,
        fun e he => ?_⟩⟩,
    ⟨Or.inl rfl, rfl, rfl, by decide +kernel, rfl, by decide +kernel, by decide +kernel⟩,
    ⟨rfl, rfl, Or.inl rfl, rfl, rfl, rfl, rfl, rfl, by decide +kernel, rfl, rfl, by decide, by decide⟩⟩
  · cases List.mem_singleton.1 ha
    rintro (h | h | h) <;> exact absurd h (by decide +kernel)
  · obtain ⟨⟨he, -, -, k, hk, hv⟩, -⟩ := he
    rcases four e with rfl | rfl | rfl | rfl
    · cases hk
    · exact he rfl
    · cases hk
    · cases hk

/-- The cut of DP1's lane; the sources left for its unit, and none; each row of the settling check; and the exclusion of
the last unsettled clip. -/
theorem witness_SuspensionAndSettling :
    (let s := supplying port0 drive0
     s.clip? 0 = some clipTwo ∧ clipTwo.copies[(1 : DestNo)] = some { copy0 .writing with window := some ⟨0, 2⟩ }
      ∧ (s.dest 1).cq = [] ++ itemTwo :: [] ∧ (itemTwo.clip = 0 ∧ itemTwo.kind = .data 0 ∧ s.slot? 0 = some slotTwo
          ∧ slotTwo.state = .filling) ∧ (s.dest 1).lane.current = some 0 ∧ Table.wf s.ring.held = true)
    ∧ (let s := supplying port0 drive0
       Fills s 1 0 0 0 slotTwo itemTwo ∧ (s.job clipTwo.job).boundPort = some 2 ∧ itemTwo.noCard = false
        ∧ ∀ e, ¬NextSource s 1 { clipTwo with copies := #v[none, some (copy0 .writing), none, none] } itemTwo.noDests e)
    ∧ ((writing.job 0).state = .draining ∧ writing.clipState? 0 = some .read ∧ (copy0 .writing).state.live = true
        ∧ ((withJob .held (clip0 .read)).job 0).state = .held ∧ (withJob .held (clip0 .read)).clipState? 0 = some .read
        ∧ (withJob .draining (clipWith .secured (copy0 .verified))).clipState? 0 = some .secured)
    ∧ (readInRing.link.freeEntry = some 0 ∧ readInRing.clip? 0 = some (clipWith .read (copy0 .verifying))
        ∧ (readInRing.job 0).clips = [0] ∧ (readInRing.job 0).state = .draining ∧ readInRing.LanesIdle
        ∧ (∀ d, (readInRing.dest d).rl.jobs = []) ∧ readInRing.ring.Sound ∧ readInRing.ring.waitList = []
        ∧ readInRing.manifest.queue.length < 512) := by
  refine ⟨⟨rfl, rfl, rfl, ⟨rfl, rfl, rfl, rfl⟩, rfl, rfl⟩, ⟨supplying_fills _ _, rfl, rfl, fun e he => ?_⟩,
    by decide +kernel, by decide +kernel, rfl, by decide +kernel, rfl,
    (by decide +kernel : ∀ d, _ ∧ _), by decide +kernel, readInRing_sound, rfl, by decide +kernel⟩
  obtain ⟨⟨he, -, -, k, hk, hv⟩, -⟩ := he
  rcases four e with rfl | rfl | rfl | rfl
  · cases hk
  · exact he rfl
  · cases hk
  · cases hk

/-- The last byte of a JOB_CLOSE frame for a LOADING job comes next. -/
def closing : State :=
  let frame := (requestFrame (.jobClose 9 1)).getD []
  { (readInRing.modJob 0 (fun y => { y with held := 1 })).setJob 1 { Job.free with state := .loading, identity := some card1 } with
    link := { readInRing.link with parser := .check, buf := (frame.drop 2).dropLast, stall := true }
    pending := [.bulkOutByte (frame.getLastD 0)] }

/-- The step takes the byte that completes the request, and frees the job's record. -/
theorem witness_SlotsAndBindingsStaySound :
    closing.ring.Sound ∧ closing.StagedAreNeeded ∧ closing.CountsAgree ∧ ClosableOwnNone closing ∧ closing.BindingsAgree
      ∧ (∀ j, (closing.job j).state = .loading → (closing.job j).held = 0) ∧ (closing.job 1).state = .loading
      ∧ MayClose closing 1 ∧ gives (step closing) (fun t => decide (t.job 1 = Job.free ∧ t.pending = [])) = true := by
  refine ⟨readInRing_sound, fun n y h _ => ?_, ⟨readInRing_sound, fun r => ?_, by decide +kernel⟩, fun j hj n y h => ?_,
    by unfold State.BindingsAgree; decide +kernel, by decide +kernel, rfl, Or.inl ⟨rfl, fun c h => by cases h⟩, by decide +kernel⟩
  · cases List.mem_singleton.1 h; decide
  · cases r with
    | job j => revert j; decide +kernel
    | lane d => revert d; decide +kernel
  · cases List.mem_singleton.1 h
    intro e
    cases e
    rcases hj with ⟨h, -⟩ | ⟨h, -⟩ <;> cases h

/-- DP0 idle, its read lane and CQ both brought to wait by one removal: DP1's unit is asked of DP0 first, then DP0's own lane
gives up the unit before its STAGED one. -/
def racing : State :=
  let x (c : Nat) (a b : Option Copy) : Clip :=
    { clip0 .read with sum := some sum0, extents := [⟨5 + c, 1⟩], copies := #v[a, b, none, none] }
  let lane (c : Nat) : Lane := { Lane.empty with copies := [c], current := some c, held := 1 }
  let filled (d : DestNo) (c : Nat) : Slot := { slot0 .filling [] [] with owner := .lane d, clip := c }
  let first : ReaderItem := ⟨.supply 1 0 0 0 0, 5, 1⟩
  { base with
    jobs := base.jobs.set 0 { job0 .draining with clips := [0, 1, 2] }
    ports := base.ports.set 2 { port0 with fifo := [first, ⟨.supply 0 0 1 0 1, 6, 1⟩], outstanding := some ⟨first, 1, none⟩ }
    clips := [(0, x 0 (some (copy0 .verified)) (some (copy0 .writing))), (1, x 1 (some (copy0 .writing)) none),
      (2, x 2 (some (copy0 .writing)) none)]
    dests := #v[{ drive0 with cq := [Item.new 1 (.data 1), Item.new 2 (.data 2)], lane := lane 1 },
      { drive0 with cq := [Item.new 0 (.data 0)], lane := lane 0 }, DestPort.reset, DestPort.reset]
    ring := { freeList := [3], held := [(0, filled 1 0), (1, filled 0 1), (2, { filled 0 2 with state := .staged, pending := [0], data := ten })], waitList := [] } }

/-- The first requester that comes to wait at an idle port is granted, though R100 would choose the other (R30, R99). -/
theorem test_first_to_wait : gives (exec (.cardOut 2) racing) (fun t =>
    decide (t.lines = [.drive 0 ⟨.read, 2112, 1, []⟩] ∧ (t.dest 0).cq = [Item.new 2 (.data 2)] ∧ t.ring.freeList = [3, 1])) = true := by
  decide +kernel

/-- A CARD_RETRY routed HOLD in the event that ends the job's last unit: the job is DRAINING, not PAUSED (R1, R40). -/
theorem test_hold_at_the_last_unit :
    let s : State :=
      { reading.modPort 2 fun x => { x with outstanding := some ⟨piece0, 2, some .readerError⟩ } with
        faults := { reading.faults with routes := reading.faults.routes.map fun _ => .hold } }
    gives (exec (.readerData 2 sector0) s) (fun t =>
      decide ((t.job 0).state = .draining ∧ (t.job 0).pausePending = false ∧ (t.job 0).readPos = ⟨1, 0⟩)
        && t.faults.flag .cardRetry) = true := by decide +kernel
/-- Suspended copies come back in ascending clip number, whatever the clip list's order (R124). -/
theorem test_rejoin_order : gives (exec (.cardIn 3 7 4000) (away .held none [1, 0] parked)) (fun t =>
    decide ((t.dest 1).lane.copies = [9, 0, 1] ∧ (t.job 0).state = .draining)) = true := by decide +kernel

theorem witness_BooksStaySound :
    let s : State := { readInRing with pending := [.identify 1] }
    s.ring.Sound ∧ s.link.Sound ∧ s.manifest.Sound ∧ Table.wf s.clips = true ∧ gives (step s) (fun _ => true) = true :=
  ⟨readInRing_sound, (by decide +kernel : _ ≤ _), (by decide +kernel : _ ≤ _), by decide +kernel, by decide +kernel⟩

end Sys2Proof.Tests
end

/-! Chapter 8: the requests that change the offload plan (PLAN_SET, R134; PLAN_LOCK, R137).

Each ruling is said once, branch by branch, in the numbers of the request; the obligation reads them off through the
laws of an answered request (Laws/Requests.lean). -/

namespace Sys2Proof.Machine

/-! ### Role codes (R181) -/

@[simp] theorem roleOf_code (a : Role) : roleOf a.code = some a := by cases a <;> rfl

theorem Role.code_injective : Function.Injective Role.code := fun a b h =>
  Option.some.inj (by rw [← roleOf_code a, h, roleOf_code])

theorem roleOf_eq_none {n : Nat} (h : 2 < n) : roleOf n = none :=
  match n, h with
  | _ + 3, _ => rfl

theorem exists_role_of_le {n : Nat} (h : n ≤ 2) : ∃ a : Role, a.code = n :=
  match n, h with
  | 0, _ => ⟨.off, rfl⟩
  | 1, _ => ⟨.mirror, rfl⟩
  | 2, _ => ⟨.spare, rfl⟩

@[simp] theorem rolesOf_codes (a b c d : Role) : rolesOf a.code b.code c.code d.code = some #v[a, b, c, d] := by
  simp [rolesOf]

/-- One code outside its list spoils the four. -/
theorem rolesOf_eq_none {r0 r1 r2 r3 : Nat} (h : ∃ r ∈ [r0, r1, r2, r3], 2 < r) : rolesOf r0 r1 r2 r3 = none := by
  obtain ⟨r, hr, hlt⟩ := h
  have hnone : roleOf r = none := roleOf_eq_none hlt
  simp only [List.mem_cons, List.not_mem_nil, or_false] at hr
  rcases hr with rfl | rfl | rfl | rfl <;> simp [rolesOf, hnone]

/-! ### The plan's roles and its bytes (R132, R182) -/

/-- The ports of a role are as many as the entries that name it. -/
theorem Plan.length_withRole (p : Plan) (r : Role) :
    (p.withRole r).length = (allDests.map fun d => p.roles[d]).count r := by
  rw [Plan.withRole, ← List.countP_eq_length_filter, List.count, List.countP_map]
  rfl

/-- The mirrors of a plan are the entries of code 1. -/
theorem Plan.length_mirrors (n : Nat) (a b c d : Role) (lock : Bool) :
    (Plan.withRole ⟨n, #v[a, b, c, d], lock⟩ .mirror).length = [a.code, b.code, c.code, d.code].count 1 :=
  calc (Plan.withRole ⟨n, #v[a, b, c, d], lock⟩ .mirror).length
    _ = [a, b, c, d].count .mirror := Plan.length_withRole _ _
    _ = ([a, b, c, d].map Role.code).count Role.mirror.code :=
        (List.count_map_of_injective _ _ Role.code_injective _).symm

/-- The reply to PLAN_SET carries the count and the codes of the roles (R182). -/
theorem Plan.bytes_mk (n : Nat) (a b c d : Role) (lock : Bool) :
    Plan.bytes ⟨n, #v[a, b, c, d], lock⟩ = [n, a.code, b.code, c.code, d.code].map (BitVec.ofNat 8) := rfl

theorem rolesCounted_all (s : State) (r : Role) : rolesCounted s r (fun _ => true) = (s.plan.withRole r).length := by
  simp [Plan.withRole, rolesCounted]

theorem Plan.lockBytes_eq_planReport (p : Plan) : p.lockBytes = planReport p p.lock := rfl

/-- The lock of a plan stands in a report by its own byte only. -/
theorem planReport_setLock (p : Plan) (old new : Bool) : planReport { p with lock := old } new = planReport p new := rfl

/-! ### A request answered at once, with the books as they were or with another plan -/

/-- A request whose owner changes nothing is answered, and nothing else differs. -/
theorem State.request_tell_unchanged {s : State} {e : EntryNo} {tag : Byte} {code : Nat}
    {owner : EntryNo → State → Ruling} {b : List Byte} (h : s.link.freeEntry = some e)
    (ho : owner e (s.owing e tag code) = .tell b (s.owing e tag code)) :
    s.request tag code owner = .next (s.answered e tag code .ok b) := by
  rw [State.request_tell h ho, State.reply_owing]

/-- A request whose owner changes the plan and nothing else is answered in the state with that plan. -/
theorem State.request_tell_plan {s : State} {e : EntryNo} {tag : Byte} {code : Nat} {owner : EntryNo → State → Ruling}
    {b : List Byte} {p : Plan} (h : s.link.freeEntry = some e)
    (ho : owner e (s.owing e tag code) = .tell b { s.owing e tag code with plan := p }) :
    s.request tag code owner = .next { s.answered e tag code .ok b with plan := p } := by
  rw [State.request_tell h ho, ← State.reply_owing]
  rfl

/-! ### PLAN_SET (R134) -/

theorem exec_planSet (tag : Byte) (n r0 r1 r2 r3 : Nat) (s : State) :
    exec (.planSet tag n r0 r1 r2 r3) s = s.quiet.request tag 0x08 fun _ s => rulePlanSet n r0 r1 r2 r3 s := rfl

/-- The first refusal: a count or a role outside its list. -/
theorem rulePlanSet_out_of_range {n r0 r1 r2 r3 : Nat} (h : n = 0 ∨ 4 < n ∨ ∃ r ∈ [r0, r1, r2, r3], 2 < r)
    (s : State) : rulePlanSet n r0 r1 r2 r3 s = .refuse .badParam := by
  unfold rulePlanSet
  split
  · rfl
  · next roles hroles =>
    have hn : n = 0 ∨ 4 < n := by
      rcases h with h | h | h
      · exact .inl h
      · exact .inr h
      · simp [rolesOf_eq_none h] at hroles
    rw [if_pos hn]

section InRange

variable {n : Nat} {s : State} (hn : ¬(n = 0 ∨ 4 < n)) (a b c d : Role)
include hn

/-- The second refusal: the lock is set. -/
theorem rulePlanSet_locked (hlock : s.plan.lock = true) :
    rulePlanSet n a.code b.code c.code d.code s = .refuse .locked := by
  simp [rulePlanSet, hn, hlock]

/-- The third refusal: fewer mirrors than the count. -/
theorem rulePlanSet_few_mirrors (hlock : s.plan.lock = false)
    (hfew : [a.code, b.code, c.code, d.code].count 1 < n) :
    rulePlanSet n a.code b.code c.code d.code s = .refuse .badParam := by
  simp [rulePlanSet, hn, hlock, Plan.length_mirrors, hfew]

/-- Otherwise the plan takes the count and the roles, and the reply carries them. -/
theorem rulePlanSet_taken (hlock : s.plan.lock = false) (hmany : n ≤ [a.code, b.code, c.code, d.code].count 1) :
    rulePlanSet n a.code b.code c.code d.code s =
      .tell ([n, a.code, b.code, c.code, d.code].map (BitVec.ofNat 8))
        { s with plan := { r := n, roles := #v[a, b, c, d], lock := false } } := by
  simp [rulePlanSet, hn, hlock, Plan.length_mirrors, hmany.not_gt, Plan.bytes_mk]

end InRange

theorem planSetRules : PlanSetRules := by
  intro tag n r0 r1 r2 r3 s e he
  simp only [exec_planSet]
  refine ⟨fun hbad => State.request_refuse he (rulePlanSet_out_of_range hbad _), fun h1 h4 hroles => ?_⟩
  have hn : ¬(n = 0 ∨ 4 < n) := by omega
  obtain ⟨a, rfl⟩ := exists_role_of_le (hroles r0 (by simp))
  obtain ⟨b, rfl⟩ := exists_role_of_le (hroles r1 (by simp))
  obtain ⟨c, rfl⟩ := exists_role_of_le (hroles r2 (by simp))
  obtain ⟨d, rfl⟩ := exists_role_of_le (hroles r3 (by simp))
  refine ⟨fun hlock => ?locked, fun hlock => ⟨fun hfew => ?few, fun hmany => ?taken⟩⟩
  case locked => exact State.request_refuse he (rulePlanSet_locked hn a b c d hlock)
  case few => exact State.request_refuse he (rulePlanSet_few_mirrors hn a b c d hlock hfew)
  case taken =>
    exact ⟨a, b, c, d, roleOf_code a, roleOf_code b, roleOf_code c, roleOf_code d,
      State.request_tell_plan he (rulePlanSet_taken hn a b c d hlock hmany)⟩

/-! ### PLAN_LOCK (R137) -/

theorem exec_planLock (tag : Byte) (s : State) :
    exec (.planLock tag) s = s.quiet.request tag 0x09 fun _ s => rulePlanLock s := rfl

theorem rulePlanLock_locked {s : State} (hlock : s.plan.lock = true) :
    rulePlanLock s = .tell (planReport s.plan true) s := by
  simp [rulePlanLock, hlock, Plan.lockBytes_eq_planReport]

theorem rulePlanLock_few_mirrors {s : State} (hlock : s.plan.lock = false)
    (hfew : (s.plan.withRole .mirror).length < s.plan.r) : rulePlanLock s = .refuse .wrongState := by
  simp [rulePlanLock, hlock, hfew]

theorem rulePlanLock_taken {s : State} (hlock : s.plan.lock = false)
    (hmany : s.plan.r ≤ (s.plan.withRole .mirror).length) :
    rulePlanLock s = .tell (planReport s.plan true) { s with plan := { s.plan with lock := true } } := by
  simp [rulePlanLock, hlock, hmany.not_gt, Plan.lockBytes_eq_planReport, planReport_setLock]

theorem planLockRules : PlanLockRules := by
  intro tag s e he
  simp only [exec_planLock, rolesCounted_all]
  refine ⟨fun hlock => ?locked, fun hlock => ⟨fun hmany => ?taken, fun hfew => ?few⟩⟩
  case locked => exact State.request_tell_unchanged he (rulePlanLock_locked hlock)
  case taken => exact State.request_tell_plan he (rulePlanLock_taken hlock hmany)
  case few => exact State.request_refuse he (rulePlanLock_few_mirrors hlock hfew)

/-- Settles O11: PLAN_SET and PLAN_LOCK each by the branches of its ruling. -/
theorem planRequestRules : Obligations.PlanRequestRules := ⟨planSetRules, planLockRules⟩

end Sys2Proof.Machine

/-! Chapter 10: FAULT_READ (R159) and the report of the fault unit.

The model's lists of bytes run over the classes by name, the obligation's over the codes 0 to 8; the two agree because
the classes are listed in the order of their codes. The parts of the report are named one by one, so that the other
requests of section 10.4 (R160, R161) can use the same equations. -/

namespace Sys2Proof.Machine

/-! ### The fault unit as replies carry it (R182) -/

/-- The classes stand in the order of their codes (R152). -/
theorem allClasses_map_code : allClasses.map FaultClass.code = List.finRange 9 := by decide

/-- One entry for each class, by its code, is one entry for each code. -/
theorem allClasses_map_comp_code {α : Type} (f : Fin 9 → α) :
    (allClasses.map fun c => f c.code) = (List.finRange 9).map f := by
  rw [← allClasses_map_code, List.map_map]
  rfl

theorem FaultUnit.flagBytes_eq (u : FaultUnit) :
    u.flagBytes = (List.finRange 9).map fun c => if u.flags[c] then 1 else 0 :=
  allClasses_map_comp_code fun c => Bytes.flag u.flags[c]

theorem FaultUnit.routeBytes_eq (u : FaultUnit) :
    u.routeBytes = (List.finRange 9).map fun c => BitVec.ofNat 8 (u.routes[c]).code :=
  allClasses_map_comp_code fun c => Bytes.u8 (u.routes[c]).code

theorem Occurrence.bytes_eq_occurrenceReport (o : Occurrence) : o.bytes = occurrenceReport o := rfl

theorem FaultUnit.captureBytes_eq_captureReport (u : FaultUnit) : u.captureBytes = captureReport u.capture := by
  unfold FaultUnit.captureBytes
  cases u.capture with
  | none => rfl
  | some o => exact congrArg (List.cons 0) o.bytes_eq_occurrenceReport

theorem FaultUnit.bytes_eq (u : FaultUnit) :
    u.bytes = (List.finRange 9).map (fun c => if u.flags[c] then 1 else 0)
      ++ (List.finRange 9).map (fun c => BitVec.ofNat 8 (u.routes[c]).code)
      ++ captureReport u.capture ++ [if u.alarm then 1 else 0] := by
  rw [FaultUnit.bytes, FaultUnit.flagBytes_eq, FaultUnit.routeBytes_eq, FaultUnit.captureBytes_eq_captureReport,
    Bytes.flag]

/-! ### FAULT_READ (R159) -/

theorem exec_faultRead (tag : Byte) (s : State) :
    exec (.faultRead tag) s = s.quiet.request tag 0x38 fun _ s => .tell s.faults.bytes s := rfl

/-- Settles O13: the owner of FAULT_READ tells the report of the fault unit and leaves the state as it was. -/
theorem faultReadAnswers : Obligations.FaultReadAnswers := by
  intro tag s e he
  have hreport : (s.quiet.owing e tag 0x38).faults.bytes = s.faults.bytes := rfl
  rw [exec_faultRead, ← FaultUnit.bytes_eq, ← hreport]
  exact State.request_tell_unchanged he rfl

end Sys2Proof.Machine

/-! Chapter 11: IDENTIFY (R178).

The payload is read off the model's fixed strings and the count of enabled ports once; the request itself is one more
whose owner tells what the state holds and changes nothing. -/

namespace Sys2Proof.Machine

/-! ### The names the engine answers with (R178) -/

/-- "BREDSHOLT" in a field of 16 bytes. -/
theorem vendorBytes_eq :
    vendorBytes = [0x42, 0x52, 0x45, 0x44, 0x53, 0x48, 0x4F, 0x4C, 0x54, 0, 0, 0, 0, 0, 0, 0] := rfl

/-- "WEZPIN OE16" in a field of 16 bytes. -/
theorem partBytes_eq :
    partBytes = [0x57, 0x45, 0x5A, 0x50, 0x49, 0x4E, 0x20, 0x4F, 0x45, 0x31, 0x36, 0, 0, 0, 0, 0] := rfl

theorem State.identifyBytes_eq (s : State) :
    s.identifyBytes =
      [0x42, 0x52, 0x45, 0x44, 0x53, 0x48, 0x4F, 0x4C, 0x54, 0, 0, 0, 0, 0, 0, 0,
        0x57, 0x45, 0x5A, 0x50, 0x49, 0x4E, 0x20, 0x4F, 0x45, 0x31, 0x36, 0, 0, 0, 0, 0,
        1, BitVec.ofNat 8 (allPorts.filter fun p => (s.port p).enabled).length, 4] := by
  rw [State.identifyBytes, vendorBytes_eq, partBytes_eq]
  rfl

/-! ### IDENTIFY (R178) -/

theorem exec_identify (tag : Byte) (s : State) :
    exec (.identify tag) s = s.quiet.request tag 0x01 fun _ s => .tell s.identifyBytes s := rfl

/-- Settles O7: the owner of IDENTIFY tells the names and the counts, which the request's own entry in the table does
not touch, and leaves the state as it was. -/
theorem identifyAnswers : Obligations.IdentifyAnswers := by
  intro tag s e he
  have hpayload : (s.quiet.owing e tag 0x01).identifyBytes = s.identifyBytes := rfl
  rw [exec_identify, ← State.identifyBytes_eq, ← hpayload]
  exact State.request_tell_unchanged he rfl

end Sys2Proof.Machine

/-! What every command but POWER_ON_RESET keeps, block by block: the relation `Evolves`, and the relation `Works` of the
ordinary effects of an event, which besides bind no card and free no job record.

Each update of the state is shown once to be an ordinary effect; the tasks of an event and the commands are put together
from those (the invariants O12, O16, O23, O58 and O59 are read off the fields of the two relations). -/

namespace Sys2Proof.Table

variable {α : Type}

/-- A record of a canonical table is read back by its number. -/
theorem find_eq_some_iff {t : List (Nat × α)} (h : wf t = true) (k : Nat) (v : α) :
    find k t = some v ↔ (k, v) ∈ t := by
  rw [wf_iff] at h
  induction t with
  | nil => simp [find]
  | cons p t ih =>
    obtain ⟨k', v'⟩ := p
    simp only [keys_cons, List.pairwise_cons] at h
    simp only [find, List.mem_cons, Prod.mk.injEq]
    split_ifs with hk
    · subst hk
      have hne : (k, v) ∉ t := fun hm => absurd (h.1 k (List.mem_map_of_mem hm)) (lt_irrefl k)
      simp [hne, eq_comm]
    · simp [hk, ih h.2]

theorem mem_of_find {k : Nat} {v : α} {t : List (Nat × α)} (h : find k t = some v) : (k, v) ∈ t := by
  induction t with
  | nil => simp [find] at h
  | cons p t ih =>
    obtain ⟨k', v'⟩ := p
    simp only [find] at h
    split_ifs at h with hk
    · obtain rfl := Option.some.inj h; simp [hk]
    · exact List.mem_cons_of_mem _ (ih h)

theorem find_eq_none_iff {t : List (Nat × α)} {k : Nat} : find k t = none ↔ k ∉ keys t := by
  induction t with
  | nil => simp [find]
  | cons p t ih =>
    obtain ⟨k', v'⟩ := p
    simp only [find, keys_cons, List.mem_cons]
    split_ifs with hk <;> simp [hk, ih]

/-- A new record joins the records in use. -/
theorem insert_perm {t : List (Nat × α)} {k : Nat} (hk : k ∉ keys t) (v : α) : (insert k v t).Perm ((k, v) :: t) := by
  induction t with
  | nil => simp [insert]
  | cons p t ih =>
    obtain ⟨k', v'⟩ := p
    simp only [keys_cons, List.mem_cons, not_or] at hk
    simp only [insert]
    split_ifs with h1 h2
    · exact .refl _
    · exact absurd h2 hk.1
    · exact ((ih hk.2).cons _).trans (.swap ..)

theorem erase_eq_self {t : List (Nat × α)} {k : Nat} (hk : k ∉ keys t) : erase k t = t := by
  induction t with
  | nil => rfl
  | cons p t ih =>
    obtain ⟨k', v'⟩ := p
    simp only [keys_cons, List.mem_cons, not_or] at hk
    simp only [erase, if_neg hk.1, ih hk.2]

/-- A record in use is written over in its place. -/
theorem insert_perm_erase {t : List (Nat × α)} (h : wf t = true) (k : Nat) (v : α) :
    (insert k v t).Perm ((k, v) :: erase k t) := by
  rw [wf_iff] at h
  induction t with
  | nil => simp [insert, erase]
  | cons p t ih =>
    obtain ⟨k', v'⟩ := p
    simp only [keys_cons, List.pairwise_cons] at h
    have hself {k : Nat} (hk : k ≤ k') : erase k t = t :=
      erase_eq_self fun hm => absurd (h.1 k hm) (by omega)
    simp only [insert, erase]
    split_ifs with h1 h2
    · omega
    · rw [hself (by omega)]
    · rw [hself (by omega)]
    · exact ((ih h.2).cons _).trans (.swap ..)

/-- The record freed is the one taken from the records in use. -/
theorem erase_perm {t : List (Nat × α)} (h : wf t = true) {k : Nat} {v : α} (hk : find k t = some v) :
    ((k, v) :: erase k t).Perm t := by
  rw [wf_iff] at h
  induction t with
  | nil => simp [find] at hk
  | cons p t ih =>
    obtain ⟨k', v'⟩ := p
    simp only [keys_cons, List.pairwise_cons] at h
    simp only [find] at hk
    simp only [erase]
    split_ifs at hk ⊢ with h1
    · obtain rfl := Option.some.inj hk
      subst h1
      rw [erase_eq_self fun hm => absurd (h.1 k hm) (lt_irrefl k)]
    · exact (List.Perm.swap ..).trans ((ih h.2 hk).cons _)

end Sys2Proof.Table

namespace Sys2Proof.Machine

open Table

/-! ### What an invariant of the slots reads -/

/-- Slot `n` is STAGED with an empty pending set: it is to be freed. -/
def State.Needless (s : State) (n : Nat) : Prop := ∃ y, s.slot? n = some y ∧ y.state = .staged ∧ y.pending = []

/-- Slot `n` is held by requester `r`. -/
def State.Owns (s : State) (r : Requester) (n : Nat) : Prop := ∃ y, s.slot? n = some y ∧ y.owner = r

/-- A LOADING job holds no slot. -/
def State.LoadingEmpty (s : State) : Prop := ∀ j, (s.job j).state = .loading → (s.job j).held = 0

/-- A change of a card port that leaves it enabled or not, and bound to the same job. -/
def CardPort.Tame (x y : CardPort) : Prop :=
  y.enabled = x.enabled ∧ (y.state = .bound ↔ x.state = .bound) ∧ (x.state = .bound → y.boundJob = x.boundJob)

/-- A change of a job record that leaves its bound port and its held-slot count, and makes it neither FREE nor LOADING. -/
def Job.Tame (x y : Job) : Prop :=
  y.boundPort = x.boundPort ∧ y.held = x.held ∧ (y.state = .free → x.state = .free)
    ∧ (y.state = .loading → x.state = .loading)

/-- A change of a destination port that keeps it sound and its lane's held-slot count. -/
def DestPort.Tame (x y : DestPort) : Prop := (x.Sound → y.Sound) ∧ y.lane.held = x.lane.held

theorem CardPort.Tame.refl (x : CardPort) : x.Tame x := ⟨rfl, .rfl, fun _ => rfl⟩
theorem Job.Tame.refl (x : Job) : x.Tame x := ⟨rfl, rfl, id, id⟩
theorem DestPort.Tame.refl (x : DestPort) : x.Tame x := ⟨id, rfl⟩

/-- A change of a destination port that leaves its arbiter, its binding and its lane's held-slot count. -/
theorem DestPort.Tame.of_eq {x y : DestPort} (ha : y.arb.rotation = x.arb.rotation) (hg : y.arb.grants = x.arb.grants)
    (hb : y.binding = x.binding) (hl : y.lane.held = x.lane.held) : x.Tame y :=
  ⟨fun ⟨h1, h2, h3⟩ => ⟨⟨by rw [ha]; exact h1.1, by rw [hg]; exact h1.2⟩, by rwa [hb], by rwa [hl]⟩, hl⟩

/-! ### The two relations -/

/-- From `s` to `t` the invariants of the blocks are kept, no port is enabled or disabled, and a locked plan stays. -/
structure State.Evolves (s t : State) : Prop where
  enabled : ∀ p, (t.port p).enabled = (s.port p).enabled
  plan : s.plan.lock = true → t.plan = s.plan
  faults : s.faults.Sound → t.faults.Sound
  dests : (∀ d, (s.dest d).Sound) → ∀ d, (t.dest d).Sound
  ring : s.ring.Sound → t.ring.Sound
  link : s.link.Sound → t.link.Sound
  manifest : s.manifest.Sound → t.manifest.Sound
  clips : wf s.clips = true → wf t.clips = true
  loading : s.LoadingEmpty → t.LoadingEmpty

theorem State.Evolves.refl (s : State) : s.Evolves s := ⟨fun _ => rfl, fun _ => rfl, id, id, id, id, id, id, id⟩

theorem State.Evolves.trans {s t u : State} (h : s.Evolves t) (g : t.Evolves u) : s.Evolves u where
  enabled p := (g.enabled p).trans (h.enabled p)
  plan hs := (g.plan (by rw [h.plan hs]; exact hs)).trans (h.plan hs)
  faults := g.faults ∘ h.faults
  dests := g.dests ∘ h.dests
  ring := g.ring ∘ h.ring
  link := g.link ∘ h.link
  manifest := g.manifest ∘ h.manifest
  clips := g.clips ∘ h.clips
  loading := g.loading ∘ h.loading

/-- From `s` to `t` an ordinary effect of an event: no card is bound or unbound and no record freed, held-slot counts and
slots keep in step, a job without a card is given no slot, and a slot left needless is one of `F`. -/
structure State.Works (F : Nat → Prop) (s t : State) : Prop extends s.Evolves t where
  ports : ∀ p, ((t.port p).state = .bound ↔ (s.port p).state = .bound)
    ∧ ((s.port p).state = .bound → (t.port p).boundJob = (s.port p).boundJob)
  jobs : ∀ j, (t.job j).boundPort = (s.job j).boundPort ∧ ((t.job j).state = .free → (s.job j).state = .free)
  counts : s.CountsAgree → t.CountsAgree
  owns : ∀ j n, (s.job j).boundPort = none → t.Owns (.job j) n → s.Owns (.job j) n
  needs : s.ring.Sound → ∀ n, t.Needless n → s.Needless n ∨ F n

variable {F : Nat → Prop}

theorem State.Works.refl (s : State) : s.Works F s where
  toEvolves := .refl s
  ports _ := ⟨.rfl, fun _ => rfl⟩
  jobs _ := ⟨rfl, id⟩
  counts := id
  owns _ _ _ := id
  needs _ _ := .inl

theorem State.Works.trans {s t u : State} (h : s.Works F t) (g : t.Works F u) : s.Works F u where
  toEvolves := h.toEvolves.trans g.toEvolves
  ports p := ⟨(g.ports p).1.trans (h.ports p).1, fun hb => ((g.ports p).2 ((h.ports p).1.2 hb)).trans ((h.ports p).2 hb)⟩
  jobs j := ⟨(g.jobs j).1.trans (h.jobs j).1, (h.jobs j).2 ∘ (g.jobs j).2⟩
  counts := g.counts ∘ h.counts
  owns j n hj ho := h.owns j n hj (g.owns j n (by rw [(h.jobs j).1]; exact hj) ho)
  needs hs n hn := (g.needs (h.ring hs) n hn).elim (h.needs hs n) .inr

theorem State.Works.weaken {G : Nat → Prop} {s t : State} (h : s.Works F t) (hFG : ∀ n, F n → G n) : s.Works G t :=
  { h with needs := fun hs n hn => (h.needs hs n hn).imp_right (hFG n) }

theorem State.Works.foldl {β : Type} (f : State → β → State) (hf : ∀ (s : State) x, s.Works F (f s x)) (l : List β) (s : State) :
    s.Works F (l.foldl f s) :=
  foldl_invariant (fun t : State => s.Works F t) f (fun t x h => h.trans (hf t x)) l (.refl s)

/-! ### The one way to show an effect that gives, changes and frees no slot -/

/-- The held-slot counts and the slots they count. -/
theorem State.CountsAgree.congr {s t : State} (h : s.CountsAgree) (hring : t.ring.Sound)
    (hheld : t.ring.held = s.ring.held) (hj : ∀ j, (t.job j).held = (s.job j).held)
    (hf : ∀ j, (t.job j).state = .free → (s.job j).state = .free) (hd : ∀ d, (t.dest d).lane.held = (s.dest d).lane.held) :
    t.CountsAgree := by
  obtain ⟨-, hc, h0⟩ := h
  refine ⟨hring, fun r => ?_, fun j hs => by rw [hj]; exact h0 j (hf j hs)⟩
  rw [hheld, ← hc r]
  cases r with
  | job j => exact hj j
  | lane d => exact hd d

theorem State.Works.of_tame {s t : State} (hp : ∀ p, (s.port p).Tame (t.port p)) (hj : ∀ j, (s.job j).Tame (t.job j))
    (hd : ∀ d, (s.dest d).Tame (t.dest d)) (hheld : t.ring.held = s.ring.held)
    (hfree : t.ring.freeList = s.ring.freeList) (hplan : t.plan = s.plan) (hfaults : s.faults.Sound → t.faults.Sound)
    (hlink : s.link.Sound → t.link.Sound) (hman : s.manifest.Sound → t.manifest.Sound)
    (hclips : wf s.clips = true → wf t.clips = true) : s.Works F t := by
  have hring : s.ring.Sound → t.ring.Sound := fun h => by rw [Ring.Sound, hheld, hfree]; exact h
  have hslot (n : Nat) : t.slot? n = s.slot? n := by rw [slot?, slot?, hheld]
  refine ⟨⟨fun p => (hp p).1, fun _ => hplan, hfaults, fun h d => (hd d).1 (h d), hring, hlink, hman, hclips, ?_⟩,
    fun p => (hp p).2, fun j => ⟨(hj j).1, (hj j).2.2.1⟩, fun h => ?_, fun j n _ => ?_, fun _ n => ?_⟩
  · intro h j hl
    rw [(hj j).2.1]
    exact h j ((hj j).2.2.2 hl)
  · exact h.congr (hring h.1) hheld (fun j => (hj j).2.1) (fun j => (hj j).2.2.1) fun d => (hd d).2
  · simp only [State.Owns, hslot]; exact id
  · simp only [State.Needless, hslot]; exact .inl

/-! ### The accessors -/

theorem State.modPort_works {s : State} {p : PortNo} {f : CardPort → CardPort} (h : (s.port p).Tame (f (s.port p))) :
    s.Works F (s.modPort p f) :=
  .of_tame (fun q => by by_cases hq : p = q <;> [(subst hq; simpa using h); simp [hq, CardPort.Tame.refl]])
    (fun _ => .refl _) (fun _ => .refl _) rfl rfl rfl id id id id

theorem State.modJob_works {s : State} {j : JobNo} {f : Job → Job} (h : (s.job j).Tame (f (s.job j))) :
    s.Works F (s.modJob j f) :=
  .of_tame (fun _ => .refl _)
    (fun i => by by_cases hi : j = i <;> [(subst hi; simpa using h); simp [hi, Job.Tame.refl]])
    (fun _ => .refl _) rfl rfl rfl id id id id

theorem State.modDest_works {s : State} {d : DestNo} {f : DestPort → DestPort} (h : (s.dest d).Tame (f (s.dest d))) :
    s.Works F (s.modDest d f) :=
  .of_tame (fun _ => .refl _) (fun _ => .refl _)
    (fun e => by by_cases he : d = e <;> [(subst he; simpa using h); simp [he, DestPort.Tame.refl]])
    rfl rfl rfl id id id id

theorem State.modLane_works {s : State} {d : DestNo} {f : Lane → Lane} (h : (f (s.dest d).lane).held = (s.dest d).lane.held) :
    s.Works F (s.modLane d f) := State.modDest_works (.of_eq rfl rfl rfl h)

/-- A change of clips, of what stands on the lines, of the wait list or of the link controller alone. -/
theorem State.Works.of_same {s t : State} (hp : t.ports = s.ports) (hj : t.jobs = s.jobs) (hd : t.dests = s.dests)
    (hheld : t.ring.held = s.ring.held) (hfree : t.ring.freeList = s.ring.freeList) (hplan : t.plan = s.plan)
    (hfaults : t.faults = s.faults) (hman : t.manifest = s.manifest) (hlink : s.link.Sound → t.link.Sound)
    (hclips : wf s.clips = true → wf t.clips = true) : s.Works F t :=
  .of_tame (fun p => by rw [State.port_congr hp]; exact .refl _) (fun j => by rw [State.job_congr hj]; exact .refl _)
    (fun d => by rw [State.dest_congr hd]; exact .refl _) hheld hfree hplan (by rw [hfaults]; exact id) hlink
    (by rw [hman]; exact id) hclips

theorem State.setClip_works (s : State) (c : Nat) (x : Clip) : s.Works F (s.setClip c x) :=
  .of_same rfl rfl rfl rfl rfl rfl rfl rfl id fun h => wf_insert h c x

theorem State.modClip_works (s : State) (c : Nat) (f : Clip → Clip) : s.Works F (s.modClip c f) := by
  unfold State.modClip
  split
  · exact .refl s
  · exact s.setClip_works c _

theorem State.setCopy_works (s : State) (c : Nat) (d : DestNo) (k : Copy) : s.Works F (s.setCopy c d k) :=
  s.modClip_works c _

theorem State.modCopy_works (s : State) (c : Nat) (d : DestNo) (f : Copy → Copy) : s.Works F (s.modCopy c d f) := by
  unfold State.modCopy
  split
  · exact .refl s
  · exact s.setCopy_works c d _

theorem State.emitLine_works (s : State) (o : LineOut) : s.Works F (s.emitLine o) :=
  .of_same rfl rfl rfl rfl rfl rfl rfl rfl id id

theorem State.quiet_works (s : State) : s.Works F s.quiet := .of_same rfl rfl rfl rfl rfl rfl rfl rfl id id

theorem State.notify_works (s : State) (n : Notice) : s.Works F (s.notify n) :=
  .of_same rfl rfl rfl rfl rfl rfl rfl rfl (·.queueNotice _) id

theorem State.reply_works (s : State) (e : EntryNo) (st : Status) (b : List Byte) : s.Works F (s.reply e st b) :=
  .of_same rfl rfl rfl rfl rfl rfl rfl rfl (·.queueReply _ _ _) id

theorem State.leaveWait_works (s : State) (r : Requester) : s.Works F (s.leaveWait r) :=
  .of_same rfl rfl rfl rfl rfl rfl rfl rfl id id

theorem State.joinWait_works (s : State) (r : Requester) : s.Works F (s.joinWait r) := by
  unfold State.joinWait
  split
  · exact .refl s
  · exact .of_same rfl rfl rfl rfl rfl rfl rfl rfl id id

theorem State.moveJob_works {s : State} {j : JobNo} {f : Job → Job} (h : (s.job j).Tame (f (s.job j))) :
    s.Works F (s.moveJob j f) := (modJob_works h).trans (notify_works _ _)

theorem State.movePort_works {s : State} {p : PortNo} {f : CardPort → CardPort} (h : (s.port p).Tame (f (s.port p))) :
    s.Works F (s.movePort p f) :=
  ((modPort_works h).trans (modPort_works ⟨rfl, .rfl, fun _ => rfl⟩)).trans (notify_works _ _)

theorem State.moveDest_works {s : State} {d : DestNo} {f : DestPort → DestPort} (h : (s.dest d).Tame (f (s.dest d))) :
    s.Works F (s.moveDest d f) := (modDest_works h).trans (notify_works _ _)

/-! ### Lamps, pauses and faults -/

theorem State.refreshLamp_works (s : State) (p : PortNo) : s.Works F (s.refreshLamp p) := by
  rcases s.refreshLamp_cases p with ⟨-, h⟩ | h <;> rw [h]
  · exact .refl s
  · exact (modPort_works ⟨rfl, .rfl, fun _ => rfl⟩).trans (notify_works _ _)

theorem State.refreshLamps_works (s : State) : s.Works F s.refreshLamps := by
  unfold State.refreshLamps
  exact Works.foldl _ refreshLamp_works _ s

theorem State.pauseNow_works (s : State) (j : JobNo) : s.Works F (s.pauseNow j) :=
  (s.leaveWait_works _).trans (moveJob_works ⟨rfl, rfl, nofun, nofun⟩)

theorem State.askPause_works (s : State) (cause : PauseCause) (j : JobNo) : s.Works F (s.askPause cause j) := by
  have h : s.Works F (s.modJob j fun x => { x with pausePending := true, pauseCause := some cause }) :=
    modJob_works ⟨rfl, rfl, id, id⟩
  unfold State.askPause
  simp only
  split
  · exact h.trans (pauseNow_works _ _)
  · exact h

theorem State.holdJob_works (s : State) (j : JobNo) : s.Works F (s.holdJob j) := by
  unfold State.holdJob
  split
  case h_1 => exact s.askPause_works _ _
  case h_2 =>
    split
    · exact modJob_works ⟨rfl, rfl, id, id⟩
    · exact .refl s
  all_goals exact .refl s

theorem State.holdJobs_works (s : State) : s.Works F s.holdJobs := by
  unfold State.holdJobs
  exact Works.foldl _ holdJob_works _ s

theorem State.raise_works (s : State) (o : Occurrence) : s.Works F (s.raise o) := by
  have h : s.Works F { s with faults := s.faults.take o } :=
    .of_tame (fun _ => .refl _) (fun _ => .refl _) (fun _ => .refl _) rfl rfl rfl (·.take o) id id id
  refine h.trans ?_
  unfold State.raise State.carryRoute
  split
  · exact .refl _
  · exact notify_works _ _
  · exact .refl _
  · exact holdJobs_works _

/-! ### Slots -/

/-- A slot changed, its owner kept, and left needless only when it is one of `F`. -/
theorem State.modSlot_works {s : State} {n : Nat} {f : Slot → Slot} (ho : ∀ y, (f y).owner = y.owner)
    (hf : ∀ y, s.slot? n = some y → (f y).state = .staged → (f y).pending = [] →
      (y.state = .staged ∧ y.pending = []) ∨ F n) : s.Works F (s.modSlot n f) := by
  cases hn : s.slot? n with
  | none => unfold State.modSlot; rw [hn]; exact .refl s
  | some y =>
    have hmod : s.modSlot n f = { s with ring := { s.ring with held := Table.insert n (f y) s.ring.held } } := by
      unfold State.modSlot; rw [hn]
    have hslot (m : Nat) : (s.modSlot n f).slot? m = if m = n then some (f y) else s.slot? m := by
      rw [hmod, slot?, slot?]
      split_ifs with h
      · rw [h, find_insert_self]
      · exact find_insert_of_ne h _ _
    refine ⟨⟨by simp, by simp, by simp, by simp, (modSlot_sound · n f), by simp, by simp, by simp,
      by simp [State.LoadingEmpty]⟩, by simp, by simp, fun h => ?_, fun j m hj => ?_, fun _ m => ?_⟩
    · refine ⟨modSlot_sound h.1 n f, fun r => ?_, by simpa using h.2.2⟩
      have hheld : (s.modSlot n f).heldCount r = s.heldCount r := by cases r <;> simp [State.heldCount]
      rw [hheld, h.2.1 r, hmod]
      have hp := (insert_perm_erase h.1.1 n (f y)).filter fun z => decide (z.2.owner = r)
      have hq := (erase_perm h.1.1 hn).filter fun z => decide (z.2.owner = r)
      rw [hp.length_eq, ← hq.length_eq]
      simp only [List.filter_cons, ho]
      split_ifs <;> rfl
    · rintro ⟨z, hz, hzo⟩
      rw [hslot] at hz
      split_ifs at hz with h
      · obtain rfl := Option.some.inj hz
        exact ⟨y, by rw [h, hn], by rw [← ho y]; exact hzo⟩
      · exact ⟨z, hz, hzo⟩
    · rintro ⟨z, hz, hzs, hzp⟩
      rw [hslot] at hz
      split_ifs at hz with h
      · obtain rfl := Option.some.inj hz
        subst h
        exact (hf y hn hzs hzp).imp_left fun hy => ⟨y, hn, hy⟩
      · exact .inl ⟨z, hz, hzs, hzp⟩

/-- What a slot given to a requester leaves in the held-slot counts. -/
theorem State.giveSlot_eq {s s' : State} {r : Requester} {c k n : Nat} (h : s.giveSlot r c k = some (n, s')) :
    ∃ rest x, s.ring.freeList = n :: rest ∧ s.clip? c = some x
      ∧ s' = ({ s with
          ring :=
            { s.ring with
              freeList := rest
              held := Table.insert n
                { state := .filling, owner := r, clip := c, unit := k, byteCount := unitByteCount x.length k,
                  pending := [], data := [] } s.ring.held } } : State).modHeld r (· + 1) := by
  unfold State.giveSlot at h
  split at h
  · simp only [Option.some.injEq, Prod.mk.injEq] at h
    obtain ⟨rfl, rfl⟩ := h
    exact ⟨_, _, ‹_›, ‹_›, rfl⟩
  · cases h

theorem State.heldCount_modHeld (s : State) (r q : Requester) (f : Nat → Nat) :
    (s.modHeld r f).heldCount q = if q = r then f (s.heldCount r) else s.heldCount q := by
  cases r with
  | job i =>
    cases q with
    | job j =>
      by_cases h : j = i
      · subst h; simp [State.heldCount, State.modHeld]
      · simp [State.heldCount, State.modHeld, h, Ne.symm h]
    | lane d => simp [State.heldCount, State.modHeld]
  | lane d =>
    cases q with
    | job j => simp [State.heldCount, State.modHeld]
    | lane e =>
      by_cases h : e = d
      · subst h; simp [State.heldCount, State.modHeld, State.modLane]
      · simp [State.heldCount, State.modHeld, State.modLane, h, Ne.symm h]

theorem State.job_modHeld (s : State) (r : Requester) (f : Nat → Nat) (j : JobNo) :
    (s.modHeld r f).job j = if r = .job j then { s.job j with held := f (s.job j).held } else s.job j := by
  cases r with
  | job i =>
    by_cases h : i = j
    · subst h; simp [State.modHeld]
    · simp [State.modHeld, h]
  | lane d => simp [State.modHeld]

theorem State.dest_modHeld (s : State) (r : Requester) (f : Nat → Nat) (d : DestNo) :
    (s.modHeld r f).dest d =
      if r = .lane d then { s.dest d with lane := { (s.dest d).lane with held := f (s.dest d).lane.held } } else s.dest d := by
  cases r with
  | job i => simp [State.modHeld]
  | lane e =>
    by_cases h : e = d
    · subst h; simp [State.modHeld, State.modLane]
    · simp [State.modHeld, State.modLane, h]

/-- Giving a slot to a RUNNING job with a card, or to a lane below its limit, is an ordinary effect. -/
theorem State.giveSlot_works {s s' : State} {r : Requester} {c k n : Nat} (h : s.giveSlot r c k = some (n, s'))
    (hjob : ∀ j, r = .job j → (s.job j).state = .running ∧ (s.job j).boundPort ≠ none)
    (hlane : ∀ d, r = .lane d → (s.dest d).lane.held < laneLimit) : s.Works F s' := by
  have hsound := fun hs => s.giveSlot_sound hs h
  obtain ⟨rest, x, hf, -, rfl⟩ := State.giveSlot_eq h
  have hjobs (j : JobNo) := State.job_modHeld ({ s with
          ring :=
            { s.ring with
              freeList := rest
              held := Table.insert n
                { state := .filling, owner := r, clip := c, unit := k, byteCount := unitByteCount x.length k,
                  pending := [], data := [] } s.ring.held } } : State) r (· + 1) j
  have hslot (m : Nat) (z : Slot) (hm : find m (Table.insert n (⟨.filling, r, c, k, unitByteCount x.length k, [], []⟩ : Slot)
      s.ring.held) = some z) : (m = n ∧ z.state = .filling ∧ z.owner = r) ∨ s.slot? m = some z := by
    by_cases hmn : m = n
    · subst hmn
      rw [find_insert_self] at hm
      obtain rfl := Option.some.inj hm
      exact .inl ⟨rfl, rfl, rfl⟩
    · rw [find_insert_of_ne hmn] at hm
      exact .inr hm
  refine ⟨⟨fun p => by rw [State.port_modHeld]; rfl, fun _ => by rw [State.modHeld_plan],
    by rw [State.modHeld_faults]; exact id, fun hs d => ?_, hsound, by rw [State.modHeld_link]; exact id,
    by rw [State.modHeld_manifest]; exact id, by rw [State.modHeld_clips]; exact id, fun hs j => ?_⟩,
    fun p => by rw [State.port_modHeld]; exact ⟨.rfl, fun _ => rfl⟩, fun j => ?_, fun hs => ⟨hsound hs.1, fun q => ?_, fun j => ?_⟩,
    fun j m hj => ?_, fun _ m => ?_⟩
  · rw [State.dest_modHeld]
    split_ifs with hd
    · obtain ⟨h1, h2, h3⟩ := hs d
      exact ⟨h1, h2, hlane d hd⟩
    · exact hs d
  · rw [hjobs]
    split_ifs with hj
    · intro hl
      have hr := (hjob j hj).1
      have : (s.job j).state = .loading := hl
      rw [hr] at this; cases this
    · exact hs j
  · rw [hjobs]; split_ifs <;> exact ⟨rfl, id⟩
  · have hn : n ∉ keys s.ring.held := by
      have := nodup_of_sound hs.1
      rw [hf, List.cons_append, List.nodup_cons] at this
      exact fun hm => this.1 (List.mem_append_right _ hm)
    rw [State.heldCount_modHeld, State.modHeld_ring, ((insert_perm hn _).filter _).length_eq, List.filter_cons]
    have hc : ∀ q, s.heldCount q = _ := hs.2.1
    simp only
    by_cases hq : q = r
    · subst hq
      simp only [if_true, decide_true, List.length_cons, ← hc]
      cases q <;> rfl
    · rw [if_neg hq, if_neg (by simpa using fun h => hq h.symm)]; exact hc q
  · rw [hjobs]
    split_ifs with hj
    · intro hl
      have hr := (hjob j hj).1
      have : (s.job j).state = .free := hl
      rw [hr] at this; cases this
    · exact hs.2.2 j
  · rintro ⟨z, hz, hzo⟩
    rw [State.slot_modHeld] at hz
    rcases hslot m z hz with ⟨-, -, ho⟩ | hz
    · exact absurd hj (hjob j (ho.symm.trans hzo)).2
    · exact ⟨z, hz, hzo⟩
  · rintro ⟨z, hz, hzs, hzp⟩
    rw [State.slot_modHeld] at hz
    rcases hslot m z hz with ⟨-, ho, -⟩ | hz
    · rw [ho] at hzs; cases hzs
    · exact .inl ⟨z, hz, hzs, hzp⟩

/-- A slot freed is held no longer, and the others are as they were. -/
theorem State.freeSlot_slot (s : State) (n m : Nat) : (s.freeSlot n).slot? m = if m = n then none else s.slot? m := by
  unfold State.freeSlot
  split
  · split_ifs with h
    · rw [h]; assumption
    · rfl
  · rw [State.slot_modHeld]
    change find m (Table.erase n s.ring.held) = _
    split_ifs with h
    · rw [h, find_erase_self]
    · exact find_erase_of_ne h _

theorem State.freeSlot_works (s : State) (n : Nat) : s.Works F (s.freeSlot n) := by
  have hsound := fun hs => State.freeSlot_sound (s := s) hs n
  have howns (m : Nat) (z : Slot) (hz : (s.freeSlot n).slot? m = some z) : s.slot? m = some z := by
    rw [State.freeSlot_slot] at hz
    split_ifs at hz
    exact hz
  cases hn : s.slot? n with
  | none => unfold State.freeSlot; rw [hn]; exact .refl s
  | some y =>
    have heq : s.freeSlot n =
        ({ s with ring :=
            { s.ring with freeList := s.ring.freeList ++ [n], held := Table.erase n s.ring.held } } : State).modHeld
          y.owner (· - 1) := by unfold State.freeSlot; rw [hn]
    have hjob (j : JobNo) : (s.freeSlot n).job j = if y.owner = .job j then { s.job j with held := (s.job j).held - 1 }
        else s.job j := by rw [heq, State.job_modHeld]; rfl
    have hdest (d : DestNo) : (s.freeSlot n).dest d = if y.owner = .lane d then
        { s.dest d with lane := { (s.dest d).lane with held := (s.dest d).lane.held - 1 } } else s.dest d := by
      rw [heq, State.dest_modHeld]; rfl
    have hrest : (s.freeSlot n).ports = s.ports ∧ (s.freeSlot n).plan = s.plan ∧ (s.freeSlot n).faults = s.faults
        ∧ (s.freeSlot n).link = s.link ∧ (s.freeSlot n).manifest = s.manifest ∧ (s.freeSlot n).clips = s.clips := by
      simp [heq]
    obtain ⟨hports, hplan, hfaults, hlink, hman, hclips⟩ := hrest
    refine ⟨⟨fun p => by rw [State.port_congr hports], fun _ => hplan, by rw [hfaults]; exact id, fun hs d => ?_, hsound,
      by rw [hlink]; exact id, by rw [hman]; exact id, by rw [hclips]; exact id, fun hs j => ?_⟩,
      fun p => by rw [State.port_congr hports]; exact ⟨.rfl, fun _ => rfl⟩, fun j => ?_,
      fun hs => ⟨hsound hs.1, fun q => ?_, fun j => ?_⟩, fun j m _ => ?_, fun _ m => ?_⟩
    · rw [hdest]
      split_ifs
      · obtain ⟨h1, h2, h3⟩ := hs d
        exact ⟨h1, h2, (Nat.sub_le _ _).trans h3⟩
      · exact hs d
    · rw [hjob]
      split_ifs
      · intro hl; simp [hs j hl]
      · exact hs j
    · rw [hjob]; split_ifs <;> exact ⟨rfl, id⟩
    · have hp := (erase_perm hs.1.1 hn).filter fun z => decide (z.2.owner = q)
      have hc := hs.2.1 q
      rw [← hp.length_eq, List.filter_cons] at hc
      rw [heq, State.heldCount_modHeld, State.modHeld_ring]
      simp only at hc ⊢
      by_cases hq : q = y.owner
      · subst hq
        simp only [decide_true, if_true, List.length_cons] at hc
        simp only [if_true]
        change s.heldCount y.owner - 1 = _
        omega
      · rw [if_neg (by simpa using fun h => hq h.symm)] at hc
        rw [if_neg hq]; exact hc
    · rw [hjob]
      split_ifs
      · intro hl; simp [hs.2.2 j hl]
      · exact hs.2.2 j
    · rintro ⟨z, hz, hzo⟩; exact ⟨z, howns m z hz, hzo⟩
    · rintro ⟨z, hz, hzo⟩; exact .inl ⟨z, howns m z hz, hzo⟩

/-- After it the slot is not needless: it is not held. -/
theorem State.freeSlot_not_needless (s : State) (n : Nat) : ¬(s.freeSlot n).Needless n := by
  rintro ⟨y, hy, -⟩
  simp [State.freeSlot_slot] at hy

theorem State.freeSlot_not_owned (s : State) (n : Nat) (r : Requester) : ¬(s.freeSlot n).Owns r n := by
  rintro ⟨y, hy, -⟩
  simp [State.freeSlot_slot] at hy

end Sys2Proof.Machine

/-! The shared operations of the cascades as ordinary effects: links and lanes (Arbiter), copies and records (Copies).
A withdrawal of a copy's work is one besides that stages no slot (`Withdraws`), so that the slots it leaves needless are
those `orphansSince` names. -/

namespace Sys2Proof.Machine

open Table

variable {F : Nat → Prop}

/-- An effect whose exceptions do not occur. -/
theorem State.Works.without {G : Nat → Prop} {s t : State} (h : s.Works F t) (hn : ∀ n, F n → ¬t.Needless n) :
    s.Works G t :=
  { h with needs := fun hs n ht => (h.needs hs n ht).imp_right fun hF => absurd ht (hn n hF) }

/-! ### Links -/

/-- A change of a destination port's drive, queues, read lane or lock. -/
theorem State.modDest_works_of_eq {s : State} {d : DestNo} {f : DestPort → DestPort}
    (ha : ∀ x, (f x).arb.rotation = x.arb.rotation) (hg : ∀ x, (f x).arb.grants = x.arb.grants)
    (hb : ∀ x, (f x).binding = x.binding) (hl : ∀ x, (f x).lane.held = x.lane.held) : s.Works F (s.modDest d f) :=
  modDest_works (.of_eq (ha _) (hg _) (hb _) (hl _))

theorem State.issueRead_works (s : State) (p : PortNo) (r : ReaderRequest) : s.Works F (s.issueRead p r) :=
  (modPort_works ⟨rfl, .rfl, fun _ => rfl⟩).trans (emitLine_works _ _)

theorem State.serveReader_works (s : State) (p : PortNo) : s.Works F (s.serveReader p) := by
  unfold State.serveReader
  split
  · exact .refl s
  · split
    · exact s.issueRead_works p _
    · exact .refl s

theorem State.withdrawReads_works (s : State) (gone : ReaderWork → Bool) (p : PortNo) :
    s.Works F (s.withdrawReads gone p) := modPort_works ⟨rfl, .rfl, fun _ => rfl⟩

theorem State.restartReader_works (s : State) (p : PortNo) : s.Works F (s.restartReader p) := s.emitLine_works _

theorem State.restartDrive_works (s : State) (d : DestNo) : s.Works F (s.restartDrive d) := s.emitLine_works _

theorem DestPort.setQueue_same (x : DestPort) (w : Writer) (q : List Item) :
    (x.setQueue w q).arb = x.arb ∧ (x.setQueue w q).binding = x.binding ∧ (x.setQueue w q).lane = x.lane := by
  cases w <;> exact ⟨rfl, rfl, rfl⟩

/-- A write queue replaced. -/
theorem State.modQueue_works (s : State) (d : DestNo) (w : Writer) (q : DestPort → List Item) :
    s.Works F (s.modDest d fun x => x.setQueue w (q x)) := by
  obtain ⟨ha, hb, hl⟩ := (s.dest d).setQueue_same w (q (s.dest d))
  exact modDest_works (.of_eq (by rw [ha]) (by rw [ha]) hb (by rw [hl]))

theorem State.queueItem_works (s : State) (d : DestNo) (w : Writer) (i : Item) : s.Works F (s.queueItem d w i) :=
  s.modQueue_works d w _

theorem State.issueDrive_works (s : State) (d : DestNo) (r : DriveRequest) : s.Works F (s.issueDrive d r) := by
  refine Works.trans ?_ (emitLine_works _ _)
  exact modDest_works_of_eq (fun _ => rfl) (fun _ => rfl) (fun _ => rfl) fun _ => rfl

/-- An arbiter set to another that is sound, and the read lane with it. -/
theorem State.modArb_works {s : State} {d : DestNo} {f : DestPort → DestPort}
    (ha : (s.dest d).arb.Sound → (f (s.dest d)).arb.Sound) (hb : (f (s.dest d)).binding = (s.dest d).binding)
    (hl : (f (s.dest d)).lane = (s.dest d).lane) : s.Works F (s.modDest d f) :=
  modDest_works ⟨fun ⟨h1, h2, h3⟩ => ⟨ha h1, by rwa [hb], by rwa [hl]⟩, by rw [hl]⟩

theorem State.carryGrant_works (s : State) (d : DestNo) (g : Grant) : s.Works F (s.carryGrant d g) := by
  cases g with
  | writer w =>
    simp only [State.carryGrant]
    split
    · exact .refl s
    · refine (s.issueDrive_works d _).trans (modArb_works (fun h => ?_) rfl rfl)
      exact ⟨(rotate_perm _ w).trans h.1, by simp only; omega⟩
  | readLane =>
    simp only [State.carryGrant]
    split
    · exact (s.issueDrive_works d _).trans (modArb_works (fun h => ⟨h.1, by simp⟩) rfl rfl)
    · exact .refl s

theorem State.arbitrate_works (s : State) (d : DestNo) : s.Works F (s.arbitrate d) := by
  unfold State.arbitrate
  split
  · exact .refl s
  · exact s.carryGrant_works d _

theorem State.serveLinks_works (s : State) : s.Works F s.serveLinks := by
  unfold State.serveLinks
  exact (Works.foldl _ arbitrate_works _ s).trans (Works.foldl _ serveReader_works _ _)

theorem State.resetArbiter_works (s : State) (d : DestNo) : s.Works F (s.resetArbiter d) :=
  modArb_works (fun _ => Arbiter.reset_sound) rfl rfl

theorem State.setActive_works (s : State) (e : DestNo) (a : Option ActiveRead) : s.Works F (s.setActive e a) :=
  modDest_works_of_eq (fun _ => rfl) (fun _ => rfl) (fun _ => rfl) fun _ => rfl

theorem State.activateRead_works (s : State) (e : DestNo) : s.Works F (s.activateRead e) := by
  unfold State.activateRead
  split
  · exact .refl s
  · split
    · exact .refl s
    · exact (s.setActive_works e _).trans (modCopy_works _ _ _ _)
    · exact s.setActive_works e _

theorem State.appendRead_works (s : State) (e : DestNo) (job : ReadJob) : s.Works F (s.appendRead e job) := by
  refine Works.trans ?_ (activateRead_works _ _)
  exact modDest_works_of_eq (fun _ => rfl) (fun _ => rfl) (fun _ => rfl) fun _ => rfl

theorem State.endRead_works (s : State) (e : DestNo) : s.Works F (s.endRead e) := by
  refine Works.trans ?_ (activateRead_works _ _)
  exact modDest_works_of_eq (fun _ => rfl) (fun _ => rfl) (fun _ => rfl) fun _ => rfl

theorem State.withdrawJobs_works (s : State) (gone : ReadJob → Bool) (e : DestNo) : s.Works F (s.withdrawJobs gone e) := by
  refine Works.trans ?_ (activateRead_works _ _)
  exact modDest_works_of_eq (fun _ => rfl) (fun _ => rfl) (fun _ => rfl) fun _ => rfl

/-! ### Copies and their places -/

/-- A copy placed where the allocation put it: the bump pointers move on within their bounds. -/
theorem State.place_works {s : State} {d : DestNo} {x : DestPort} {attempt n c : Nat} {w : Window} {t : Nat}
    (hx : s.dest d = x) (h : x.allocate attempt n = .placed w t) : s.Works F (s.place d c w t) := by
  obtain ⟨b, hb, rfl, rfl, ht, hn⟩ := DestPort.allocate_placed h
  have hn' : b.nextUnit + n ≤ b.dataUnits := hn.trans (by split_ifs; exacts [b.ceiling_le, le_rfl])
  refine (modDest_works ⟨fun ⟨h1, h2, h3⟩ => ⟨h1, ?_, h3⟩, rfl⟩).trans (modCopy_works _ _ _ _)
  intro b' hb'
  rw [hx, hb] at hb'
  obtain rfl := Option.some.inj hb'
  exact (h2 b (hx ▸ hb)).advance hn' ht

theorem State.fillDest_works (s : State) (d : DestNo) (c : Nat) : s.Works F (s.fillDest d c) :=
  (moveDest_works (.of_eq rfl rfl rfl rfl)).trans (raise_works _ _)

theorem State.planCopy_works (c : Nat) (s : State) (d : DestNo) : s.Works F (s.planCopy c d) := by
  unfold State.planCopy
  simp only
  split
  · exact (s.setCopy_works c d _).trans (place_works (State.dest_setCopy ..) ‹_›)
  · exact (s.setCopy_works c d _).trans (fillDest_works _ _ _)
  · exact s.setCopy_works c d _

theorem State.queueAtEach_works (s : State) (c : Nat) (kind : ItemKind) (ds : List DestNo) :
    s.Works F (s.queueAtEach c kind ds) := by
  unfold State.queueAtEach
  split
  · exact .refl s
  · exact Works.foldl _ (fun s d => s.queueItem_works d _ _) _ s

theorem State.queueTrailers_works (s : State) (c : Nat) : s.Works F (s.queueTrailers c) := s.queueAtEach_works c _ _

/-- A slot STAGED for some destination. -/
theorem State.stageSlot_works (s : State) (n : Nat) {ds : List DestNo} (h : ds ≠ []) : s.Works F (s.stageSlot n ds) :=
  modSlot_works (fun _ => rfl) fun _ _ _ hp => absurd hp h

/-- A slot's bytes replaced. -/
theorem State.setData_works (s : State) (n : Nat) (f : Slot → List Byte) :
    s.Works F (s.modSlot n fun y => { y with data := f y }) :=
  modSlot_works (fun _ => rfl) fun _ _ h1 h2 => .inl ⟨h1, h2⟩

theorem State.leaveQueues_works (s : State) (c : Nat) (d : DestNo) : s.Works F (s.leaveQueues c d) :=
  modDest_works_of_eq (fun _ => rfl) (fun _ => rfl) (fun _ => rfl) fun _ => rfl

theorem State.leaveLane_works (s : State) (c : Nat) (d : DestNo) : s.Works F (s.leaveLane c d) := by
  have h : s.Works F (s.modLane d fun l =>
      let l' := { l with copies := l.copies.filter (· ≠ c) }
      if decide ((s.dest d).lane.current = some c) then dropCurrent l' else l') := by
    refine modLane_works ?_
    simp only
    split_ifs <;> rfl
  unfold State.leaveLane
  simp only
  split_ifs at h ⊢
  · exact h.trans (leaveWait_works _ _)
  · exact h

theorem State.joinLane_works (s : State) (c : Nat) (d : DestNo) : s.Works F (s.joinLane c d) :=
  by
  refine modLane_works ?_
  split_ifs <;> rfl

/-! ### Withdrawals -/

/-- Every slot is FREE, FILLING or STAGED as it was. -/
def State.SameSlotStates (s t : State) : Prop := ∀ n, (t.slot? n).map (·.state) = (s.slot? n).map (·.state)

theorem State.SameSlotStates.of_held {s t : State} (h : t.ring.held = s.ring.held) : s.SameSlotStates t := fun n => by
  rw [slot?, slot?, h]

theorem State.modSlot_slot (s : State) (n : Nat) (f : Slot → Slot) (m : Nat) :
    (s.modSlot n f).slot? m = if m = n then (s.slot? n).map f else s.slot? m := by
  unfold State.modSlot
  split
  · split_ifs with h
    · rw [h]; simp [*]
    · rfl
  · rw [slot?]
    split_ifs with h
    · rw [h]; simp [*]
    · exact find_insert_of_ne h _ _

theorem State.modSlot_sameSlotStates (s : State) (n : Nat) {f : Slot → Slot} (hf : ∀ y, (f y).state = y.state) :
    s.SameSlotStates (s.modSlot n f) := fun m => by
  rw [State.modSlot_slot]
  split_ifs with h
  · rw [h]; cases s.slot? n <;> simp [hf]
  · rfl

/-- From `s` to `t` work was withdrawn: no slot was given, freed or staged. -/
structure State.Withdraws (s t : State) : Prop where
  works : s.Works (fun _ => True) t
  states : s.SameSlotStates t

theorem State.Withdraws.refl (s : State) : s.Withdraws s := ⟨.refl s, fun _ => rfl⟩

theorem State.Withdraws.trans {s t u : State} (h : s.Withdraws t) (g : t.Withdraws u) : s.Withdraws u :=
  ⟨h.works.trans g.works, fun n => (g.states n).trans (h.states n)⟩

theorem State.Withdraws.of_held {s t : State} (h : s.Works (fun _ => True) t) (hh : t.ring.held = s.ring.held) :
    s.Withdraws t := ⟨h, .of_held hh⟩

theorem State.Withdraws.foldl {β : Type} (f : State → β → State) (hf : ∀ (s : State) x, s.Withdraws (f s x)) (l : List β)
    (s : State) : s.Withdraws (l.foldl f s) :=
  foldl_invariant (fun t : State => s.Withdraws t) f (fun t x h => h.trans (hf t x)) l (.refl s)

/-- A slot stands without a destination or an item exactly when it is so named. -/
theorem State.mem_orphans {s : State} (hs : s.ring.Sound) {n : Nat} :
    n ∈ s.orphans ↔ ∃ y, s.slot? n = some y ∧ s.orphaned n y = true := by
  simp only [State.orphans, List.mem_map, List.mem_filter, State.slot?]
  constructor
  · rintro ⟨⟨m, y⟩, ⟨hm, ho⟩, rfl⟩
    exact ⟨y, (find_eq_some_iff hs.1 m y).2 hm, ho⟩
  · rintro ⟨y, hy, ho⟩
    exact ⟨(n, y), ⟨mem_of_find hy, ho⟩, rfl⟩

/-- The slots a withdrawal leaves needless are those it is to free. -/
theorem State.Withdraws.orphans {s t : State} (h : s.Withdraws t) : s.Works (· ∈ t.orphansSince s) t :=
  { h.works with
    needs := fun hs n hn => by
      obtain ⟨y, hy, hst, hp⟩ := hn
      by_cases ho : n ∈ s.orphans
      · obtain ⟨x, hx, hox⟩ := (State.mem_orphans hs).1 ho
        have hxs : x.state = .staged := by simpa [hx, hy, hst] using (h.states n).symm
        simp only [State.orphaned, hxs, List.isEmpty_iff] at hox
        exact .inl ⟨x, hx, hxs, hox⟩
      · refine .inr ?_
        have hmem : n ∈ t.orphans := (State.mem_orphans (h.works.ring hs)).2 ⟨y, hy, by simp [State.orphaned, hst, hp]⟩
        simp [State.orphansSince, hmem, ho] }

theorem State.leavePending_slot (s : State) (c : Nat) (d : DestNo) (n : Nat) :
    (s.leavePending c d).slot? n = (s.slot? n).map fun x =>
      if x.clip = c ∧ x.state = .staged then { x with pending := destErase d x.pending } else x := by
  simp only [State.slot?, State.leavePending, find_mapAll]

theorem State.leavePending_withdraws (s : State) (c : Nat) (d : DestNo) : s.Withdraws (s.leavePending c d) := by
  have hown : ∀ y : Slot, (if y.clip = c ∧ y.state = .staged then { y with pending := destErase d y.pending }
      else y : Slot).owner = y.owner := fun y => by split_ifs <;> rfl
  refine ⟨⟨⟨by simp, by simp, by simp, by simp, (leavePending_sound · c d), by simp, by simp, by simp,
    by simp [State.LoadingEmpty]⟩, by simp, by simp, fun h => ⟨leavePending_sound h.1 c d, fun r => ?_, by simpa using h.2.2⟩,
    fun j n _ => ?_, fun _ _ _ => .inr trivial⟩, fun n => ?_⟩
  · have hheld : (s.leavePending c d).heldCount r = s.heldCount r := by cases r <;> simp [State.heldCount]
    rw [hheld, h.2.1 r]
    simp only [State.leavePending, Table.mapAll, List.filter_map, List.length_map]
    congr 1
    refine List.filter_congr fun z _ => ?_
    simp only [Function.comp_apply, hown]
  · rintro ⟨z, hz, hzo⟩
    rw [State.leavePending_slot] at hz
    obtain ⟨y, hy, rfl⟩ := Option.map_eq_some_iff.1 hz
    exact ⟨y, hy, by rw [← hzo, hown]⟩
  · rw [State.leavePending_slot]
    cases s.slot? n with
    | none => rfl
    | some y =>
      simp only [Option.map_some, Option.some.injEq]
      split_ifs <;> rfl

theorem State.activateRead_held (s : State) (e : DestNo) : (s.activateRead e).ring = s.ring := by
  unfold State.activateRead
  split
  · rfl
  · split <;> simp

theorem State.leaveReaders_withdraws (s : State) (c : Nat) (d : DestNo) : s.Withdraws (s.leaveReaders c d) :=
  (Withdraws.foldl _ (fun s p => .of_held (s.withdrawReads_works _ p) rfl) _ s).trans
    (Withdraws.foldl _ (fun s e => .of_held (s.withdrawJobs_works _ e) (by
      unfold State.withdrawJobs; simp [State.activateRead_held])) _ _)

theorem State.leaveLane_withdraws (s : State) (c : Nat) (d : DestNo) : s.Withdraws (s.leaveLane c d) :=
  .of_held (s.leaveLane_works c d) (by unfold State.leaveLane; simp only; split_ifs <;> rfl)

theorem State.modCopy_withdraws (s : State) (c : Nat) (d : DestNo) (f : Copy → Copy) : s.Withdraws (s.modCopy c d f) :=
  .of_held (s.modCopy_works c d f) (by simp)

theorem State.withdrawCopy_withdraws (s : State) (c : Nat) (d : DestNo) : s.Withdraws (s.withdrawCopy c d) :=
  ((((s.leavePending_withdraws c d).trans (.of_held (leaveQueues_works _ c d) rfl)).trans
    (leaveLane_withdraws _ c d)).trans (leaveReaders_withdraws _ c d))

theorem State.abortCopy_withdraws (c : Nat) (s : State) (d : DestNo) : s.Withdraws (s.abortCopy c d) := by
  unfold State.abortCopy
  split
  · exact .refl s
  · split_ifs
    · exact (s.modCopy_withdraws c d _).trans (withdrawCopy_withdraws _ c d)
    · exact .refl s

theorem State.abortCopies_withdraws (s : State) (c : Nat) : s.Withdraws (s.abortCopies c) :=
  .foldl _ (abortCopy_withdraws c) _ s

/-! ### Slots for lanes and jobs -/

theorem State.giveToLane_works {s s' : State} {d : DestNo} {c k n : Nat} (h : s.giveToLane d c k = some (n, s'))
    (hl : (s.dest d).lane.held < laneLimit) : s.Works F s' := by
  unfold State.giveToLane at h
  split at h
  · cases h
  · rename_i n' t ht
    simp only [Option.some.injEq, Prod.mk.injEq] at h
    obtain ⟨-, rfl⟩ := h
    refine ((giveSlot_works ht nofun fun e he => ?_).trans (modLane_works (by rfl))).trans (queueItem_works _ _ _ _)
    obtain rfl := Requester.lane.inj he
    exact hl

theorem State.queuePieces_works (s : State) (p : PortNo) (w : ReaderWork) (l : List (Nat × Nat)) :
    s.Works F (s.queuePieces p w l) := modPort_works ⟨rfl, .rfl, fun _ => rfl⟩

theorem State.startUnit_works {s s' : State} {j : JobNo} (h : s.startUnit j = some s') (hr : s.mayRead j = true) :
    s.Works F s' := by
  simp only [State.mayRead, Bool.and_eq_true, decide_eq_true_eq, Option.isSome_iff_ne_none] at hr
  obtain ⟨⟨hrun, hport⟩, -⟩ := hr
  unfold State.startUnit at h
  split at h
  · cases h
  · split at h
    · cases h
    · rename_i n t ht
      have hw : s.Works F t := giveSlot_works ht (fun i hi => by obtain rfl := Requester.job.inj hi; exact ⟨hrun, hport⟩) nofun
      split at h
      · obtain rfl := Option.some.inj h
        exact hw.trans (queuePieces_works _ _ _ _)
      · obtain rfl := Option.some.inj h
        exact hw

theorem State.askForJob_works (s : State) (j : JobNo) : s.Works F (s.askForJob j) := by
  unfold State.askForJob
  split
  · exact .refl s
  · rename_i hr
    split
    · exact .refl s
    · split
      · exact startUnit_works ‹_› (by simpa using hr)
      · exact s.joinWait_works _

/-! ### Records -/

/-- The manifest changed within its bound. -/
theorem State.setManifest_works (s : State) {m : Manifest} (h : s.manifest.Sound → m.Sound) :
    s.Works F { s with manifest := m } :=
  .of_tame (fun _ => .refl _) (fun _ => .refl _) (fun _ => .refl _) rfl rfl rfl id id h id

theorem State.enqueueRecord_works (s : State) (c : Nat) (h : s.manifest.queue.length < manifestPlaces) :
    s.Works F (s.enqueueRecord c) := by
  unfold State.enqueueRecord
  split
  · exact .refl s
  · refine (s.setManifest_works fun _ => ?_).trans (setClip_works _ _ _)
    simp only [Manifest.Sound, List.length_append, List.length_singleton]
    exact h

theorem State.emitRecord_works (s : State) (c : Nat) : s.Works F (s.emitRecord c) := by
  unfold State.emitRecord
  split
  · simp only
    split
    · exact (s.enqueueRecord_works c ‹_›).trans (notify_works _ _)
    · exact s.enqueueRecord_works c ‹_›
  · refine Works.trans (s.setManifest_works ?_) (modClip_works _ _ _)
    exact id

end Sys2Proof.Machine

/-! Every task but the three that bind or release a port is an ordinary effect (`Work.Fair`): a slot it leaves needless is
one of those it hands to `freeSlots` at once. -/

namespace Sys2Proof.Machine

open Table

/-- The tasks that neither bind a card nor release a port. -/
def Task.ordinary : Task → Bool
  | .arrive _ _ => false
  | .depart _ => false
  | .abandoned _ _ => false
  | _ => true

/-- The slots a task frees. -/
def Task.frees : Task → List Nat
  | .freeSlots ns => ns
  | _ => []

/-- The slots a list of tasks frees. -/
def freed (ts : List Task) : List Nat := ts.flatMap Task.frees

@[simp] theorem freed_nil : freed [] = [] := rfl
@[simp] theorem freed_cons (t : Task) (ts : List Task) : freed (t :: ts) = t.frees ++ freed ts := rfl
@[simp] theorem freed_append (l m : List Task) : freed (l ++ m) = freed l ++ freed m := List.flatMap_append
@[simp] theorem Task.frees_freeSlots (ns : List Nat) : (Task.freeSlots ns).frees = ns := rfl

/-- From `s` an ordinary work: an ordinary effect, followed by ordinary tasks. -/
structure Work.Fair (s : State) (w : Work) : Prop where
  works : s.Works (· ∈ freed w.now) w.state
  now : ∀ t ∈ w.now, t.ordinary = true
  later : ∀ t ∈ w.later, t.ordinary = true

variable {s t : State}

theorem State.Works.fair {w : Work} (h : s.Works (· ∈ freed w.now) t) (g : w.Fair t) : w.Fair s :=
  ⟨h.trans g.works, g.now, g.later⟩

theorem Work.Fair.still (h : s.Works (· ∈ freed []) t) : t.still.Fair s :=
  ⟨h, fun _ hx => absurd hx List.not_mem_nil, fun _ hx => absurd hx List.not_mem_nil⟩

theorem Work.Fair.andNow {ts : List Task} (h : s.Works (· ∈ freed ts) t) (ht : ∀ x ∈ ts, x.ordinary = true) :
    (t.andNow ts).Fair s :=
  ⟨h, ht, fun _ hx => absurd hx List.not_mem_nil⟩

/-- A withdrawal followed by the freeing of the slots it leaves. -/
theorem Work.Fair.withdraw {ts later : List Task} (h : s.Withdraws t) (hts : ∀ x ∈ ts, x.ordinary = true)
    (hl : ∀ x ∈ later, x.ordinary = true) : (⟨t, .freeSlots (t.orphansSince s) :: ts, later⟩ : Work).Fair s where
  works := h.orphans.weaken fun _ hn => by simp [hn]
  now := by simpa [Task.ordinary] using hts
  later := hl

theorem laneGo_ordinary (ds : List DestNo) : ∀ t ∈ ds.map Task.laneGo, t.ordinary = true := by
  simp [Task.ordinary]

theorem settleOf_ordinary (s : State) (c : Nat) : ∀ t ∈ s.settleOf c, t.ordinary = true := by
  simp [State.settleOf, Task.ordinary]

/-! ### The ring -/

theorem State.fillForLane_fair (s : State) (d : DestNo) (n c k : Nat) (src : Source) :
    (s.fillForLane d n c k src).Fair s := by
  unfold State.fillForLane
  split
  · split
    · exact .still (queuePieces_works _ _ _ _)
    · exact .andNow (.refl s) (by simp [Task.ordinary])
  · split
    · exact .still (appendRead_works _ _ _)
    · exact .andNow (.refl s) (by simp [Task.ordinary])

theorem State.askForLane_fair (s : State) (d : DestNo) (c k : Nat) (src : Source) :
    (s.askForLane d c k src).Fair s := by
  unfold State.askForLane
  simp only
  split
  · exact .still (modLane_works rfl)
  · split
    · exact (giveToLane_works ‹_› (by omega)).fair (fillForLane_fair _ d _ c k src)
    · exact .still ((modLane_works (by rfl)).trans (joinWait_works _ _))

theorem runFreeSlots_fair (ns : List Nat) (s : State) : (runFreeSlots ns s).Fair s := by
  unfold runFreeSlots
  split
  · exact .still (.refl s)
  · split
    · exact .andNow (.refl s) (by simp [Task.ordinary])
    · refine .andNow (s.freeSlot_works _) ?_
      split <;> simp [Task.ordinary]

theorem askFor_fair (r : Requester) (s : State) : (askFor r s).Fair s := by
  unfold askFor
  split
  · exact .still (State.askForJob_works _ _)
  · split
    · have h (d : DestNo) (c k : Nat) (src : Source) := s.askForLane_fair d c k src
      exact ⟨(h ..).works, (h ..).now, by simp [Task.ordinary]⟩
    · exact .still (.refl s)

theorem runServeWaiting_fair (s : State) : (runServeWaiting s).Fair s := by
  unfold runServeWaiting
  split
  · exact .still (.refl s)
  · exact (s.leaveWait_works _).fair (askFor_fair _ _)

/-! ### Reading -/

theorem State.standAt_works {F : Nat → Prop} (s : State) (j : JobNo) (i : Nat) : s.Works F (s.standAt j i) :=
  modJob_works ⟨rfl, rfl, id, id⟩

theorem State.standAtFirst_works {F : Nat → Prop} (s : State) (j : JobNo) : s.Works F (s.standAtFirst j) :=
  s.standAt_works j _

theorem startClip_fair (j : JobNo) (c : Nat) (s : State) : (startClip j c s).Fair s := by
  unfold startClip
  refine .andNow (.trans ?_ (.foldl _ (State.planCopy_works c) _ _)) (by simp [Task.ordinary])
  exact (s.modClip_works c _).trans (State.modJob_works ⟨rfl, rfl, id, id⟩)

theorem runProceed_fair (j : JobNo) (s : State) : (runProceed j s).Fair s := by
  unfold runProceed
  split
  · split
    · exact .still (s.pauseNow_works j)
    · simp only
      split
      · exact .still (s.askForJob_works j)
      · have h {F : Nat → Prop} : s.Works F
            (if (s.clipAtRead j).bind s.clipState? = some .listed then s else s.standAtFirst j) := by
          split_ifs
          · exact .refl s
          · exact s.standAtFirst_works j
        split
        · exact h.fair (startClip_fair j _ _)
        · exact .andNow h (by simp [Task.ordinary])
  · exact .still (.refl s)

theorem recordSum_works {F : Nat → Prop} (c : Nat) (sum : ClosedSum) (s : State) : s.Works F (recordSum c sum s) :=
  s.modClip_works c _

theorem runClipStarted_fair (j : JobNo) (c : Nat) (s : State) : (runClipStarted j c s).Fair s := by
  unfold runClipStarted
  split
  · exact .still (.refl s)
  · split
    · exact ⟨((recordSum_works c _ s).trans (State.queueTrailers_works _ _)).trans (State.standAtFirst_works _ _),
        by simp [Task.ordinary], laneGo_ordinary _⟩
    · exact .andNow (.refl s) (by simp [Task.ordinary])

theorem runReadEnded_fair (j : JobNo) (s : State) : (runReadEnded j s).Fair s := by
  unfold runReadEnded
  split
  · split <;> exact .andNow (.refl s) (by simp [Task.ordinary])
  · exact .still (.refl s)

theorem runToDraining_fair (j : JobNo) (s : State) : (runToDraining j s).Fair s :=
  .andNow ((s.standAt_works j _).trans (State.moveJob_works ⟨rfl, rfl, nofun, nofun⟩)) (by simp [Task.ordinary])

theorem endUnit_fair (j : JobNo) (n c k : Nat) (s : State) : (endUnit j n c k s).Fair s := by
  have stage {F : Nat → Prop} (u : State) {ds : List DestNo} (h : ¬ds.isEmpty) :
      u.Works F ((u.stageSlot n ds).queueAtEach c (.data n) ds) :=
    (u.stageSlot_works n (by simpa using h)).trans (State.queueAtEach_works _ _ _ _)
  unfold endUnit
  split
  · exact .still (.refl s)
  · rename_i x _
    simp only
    by_cases hlast : unitCount x.length ≤ k + 1
    · have h {F : Nat → Prop} : s.Works F ((recordSum c ((s.job j).live.close x.length) s).standAtFirst j) :=
        (recordSum_works c _ s).trans (State.standAtFirst_works _ _)
      simp only [hlast, decide_true, if_true]
      split
      · exact ⟨h, by simp [Task.ordinary], laneGo_ordinary _⟩
      · exact ⟨h.trans ((stage _ ‹_›).trans (State.queueTrailers_works _ _)), by simp [Task.ordinary], laneGo_ordinary _⟩
    · have h {F : Nat → Prop} : s.Works F (s.modJob j fun y =>
          { y with readPos := ⟨y.readPos.clip, k + 1⟩, checkpoint := ⟨⟨y.readPos.clip, k + 1⟩, y.live⟩ }) :=
        State.modJob_works ⟨rfl, rfl, id, id⟩
      simp only [hlast, decide_false, Bool.false_eq_true, if_false]
      split
      · exact ⟨h, by simp [Task.ordinary], by simp⟩
      · exact ⟨h.trans (stage _ ‹_›), by simp [Task.ordinary], by simp⟩

/-- The slots a withdrawal leaves are held. -/
theorem State.orphansSince_held {n : Nat} (h : n ∈ t.orphansSince s) : n ∈ t.ring.held.map Prod.fst := by
  simp only [State.orphansSince, State.orphans, List.mem_filter, List.mem_map] at h
  obtain ⟨⟨z, ⟨hz, -⟩, rfl⟩, -⟩ := h
  exact List.mem_map_of_mem hz

theorem runSourceFault_fair (j : JobNo) (c : Nat) (s : State) : (runSourceFault j c s).Fair s := by
  unfold runSourceFault
  simp only
  generalize hgone : (fun w : ReaderWork => (match w with
    | .job j' _ _ => decide (j' = j)
    | .supply _ _ _ _ _ => false
    | .sector _ _ => false : Bool)) = gone
  have h1 : s.Withdraws (s.modClip c fun x => { x with state := .sourceFault }) :=
    .of_held (s.modClip_works c _) (by simp)
  have h2 : s.Withdraws ((s.job j).boundPort.elim (s.modClip c fun x => { x with state := .sourceFault })
      fun p => (s.modClip c fun x => { x with state := .sourceFault }).withdrawReads gone p) := by
    cases (s.job j).boundPort with
    | none => exact h1
    | some p => exact h1.trans (.of_held (State.withdrawReads_works _ gone p) rfl)
  have h3 := h2.trans (State.abortCopies_withdraws _ c)
  refine ⟨(h3.orphans.weaken fun n hn => ?_).trans (State.standAtFirst_works _ _), by simp [Task.ordinary],
    laneGo_ordinary _⟩
  have := State.orphansSince_held hn
  simp only [freed_cons, Task.frees_freeSlots, List.mem_append, List.mem_filter]
  exact .inl ⟨this, by simp [hn]⟩

/-! ### Copies -/

theorem runAbort_fair (c : Nat) (d : DestNo) (s : State) : (runAbort c d s).Fair s :=
  .withdraw (State.abortCopy_withdraws c s d) (by simp) (by simp [Task.ordinary])

theorem runFailAttempt_fair (c : Nat) (d : DestNo) (detail : Detail) (s : State) : (runFailAttempt c d detail s).Fair s := by
  unfold runFailAttempt
  split
  · exact .still (.refl s)
  · split
    · split
      · exact .withdraw (s.withdrawCopy_withdraws c d) (by simp [Task.ordinary]) (by simp)
      · exact .withdraw ((s.modCopy_withdraws c d _).trans (State.withdrawCopy_withdraws _ c d))
          (by simp [Task.ordinary]) (by simp [Task.ordinary])
    · exact .still (.refl s)

theorem runFailRepair_fair (c : Nat) (d : DestNo) (fills : Bool) (s : State) : (runFailRepair c d fills s).Fair s := by
  refine .withdraw ((s.modCopy_withdraws c d _).trans (State.withdrawCopy_withdraws _ c d)) ?_ (by simp [Task.ordinary])
  cases fills <;> simp [Task.ordinary]

theorem runRequeue_fair (c : Nat) (d : DestNo) (s : State) : (runRequeue c d s).Fair s := by
  unfold runRequeue
  split
  · exact .still (.refl s)
  · exact ⟨(s.setCopy_works c d _).trans (State.joinLane_works _ _ _), settleOf_ordinary s c, by simp [Task.ordinary]⟩

theorem enlistAt_works {F : Nat → Prop} (c r : Nat) (s : State) (d : DestNo) : s.Works F (enlistAt c r s d) := by
  unfold enlistAt
  split
  · exact .refl s
  · split
    · exact (s.setCopy_works c d _).trans (State.joinLane_works _ _ _)
    · exact .refl s

theorem runEnlist_fair (c : Nat) (s : State) : (runEnlist c s).Fair s := by
  unfold runEnlist
  split
  · exact .still (.refl s)
  · split
    · exact .still (.refl s)
    · split
      · exact ⟨.foldl _ (enlistAt_works c _) _ _, by simp [Task.ordinary], laneGo_ordinary _⟩
      · exact .andNow (.refl s) (by simp [Task.ordinary])

theorem runSecure_fair (c : Nat) (s : State) : (runSecure c s).Fair s := by
  unfold runSecure
  split
  · exact .still (.refl s)
  · split
    · exact .still (.refl s)
    · split
      · exact .still ((s.setClip_works c _).trans (State.emitRecord_works _ _))
      · exact .still (.refl s)

theorem rejoinAt_works {F : Nat → Prop} (c : Nat) (s : State) (d : DestNo) : s.Works F (rejoinAt c s d) := by
  unfold rejoinAt
  split
  · exact .refl s
  · split
    · exact (s.modCopy_works c d _).trans (State.joinLane_works _ _ _)
    · exact .refl s

theorem runRejoin_fair (c : Nat) (s : State) : (runRejoin c s).Fair s :=
  ⟨.foldl _ (rejoinAt_works c) _ _, nofun, laneGo_ordinary _⟩

theorem runSettle_fair (j : JobNo) (s : State) : (runSettle j s).Fair s := by
  unfold runSettle
  simp only
  split_ifs
  · exact .andNow (State.moveJob_works ⟨rfl, rfl, nofun, nofun⟩) (by simp [Task.ordinary])
  · exact .still (State.moveJob_works ⟨rfl, rfl, nofun, nofun⟩)
  · exact .still (State.moveJob_works ⟨rfl, rfl, nofun, nofun⟩)
  · exact .still (.refl s)
  · exact .still (.refl s)

theorem runRelease_fair (j : JobNo) (s : State) : (runRelease j s).Fair s := by
  unfold runRelease
  simp only
  have h {F : Nat → Prop} : s.Works F (s.moveJob j fun x => { x with state := .released }) :=
    State.moveJob_works ⟨rfl, rfl, nofun, nofun⟩
  split
  · refine .still ?_
    cases (s.job j).boundPort with
    | none => exact h
    | some p =>
      refine .trans h ?_
      rw [Option.elim_some]
      exact State.modPort_works ⟨rfl, .rfl, fun _ => rfl⟩
  · exact .still (.refl s)

/-! ### The catch-up lanes -/

theorem leaveSlotOf_withdraws (d : DestNo) (s : State) (i : Item) : s.Withdraws (leaveSlotOf d s i) := by
  unfold leaveSlotOf
  split
  · exact ⟨State.modSlot_works (fun _ => rfl) fun _ _ _ _ => .inr trivial, s.modSlot_sameSlotStates _ fun _ => rfl⟩
  · exact .refl s

theorem runSuspend_fair (c : Nat) (d : DestNo) (s : State) : (runSuspend c d s).Fair s := by
  unfold runSuspend
  simp only
  refine .withdraw ?_ ?_ (by simp)
  · have h : s.Withdraws ((s.modCopy c d fun k => { k with suspended := true }).leaveLane c d) :=
      (s.modCopy_withdraws c d _).trans (State.leaveLane_withdraws _ c d)
    refine .trans (.trans (h.trans ?_) (.foldl _ (leaveSlotOf_withdraws d) _ _)) (State.leaveReaders_withdraws _ c d)
    exact .of_held (State.modDest_works_of_eq (fun _ => rfl) (fun _ => rfl) (fun _ => rfl) fun _ => rfl) rfl
  · simp only [List.append_eq, List.nil_append, List.mem_append, List.mem_singleton]
    rintro t (h | rfl)
    exacts [settleOf_ordinary s c t h, rfl]

theorem clearMark_works {F : Nat → Prop} (d : DestNo) (s : State) : s.Works F (clearMark d s) := State.modLane_works rfl

/-- The unit of slot `n` sourced again, its CQ item become `i` (R123). -/
def sourceAgain (d : DestNo) (n c k : Nat) (i : Item) (s : State) : Work :=
  let s1 := s.modDest d fun x => { x with cq := x.cq.map fun j => if j.names n then i else j }
  let s2 := (s1.modLane d fun l => { l with cardOnly := false, sum := none }).modSlot n fun x => { x with data := [] }
  if (s2.portFor c).isSome && !i.noCard then s2.fillForLane d n c k .card
  else match s2.verifiedSource d c i.noDests with
    | some e => s2.fillForLane d n c k (.dest e)
    | none => s2.andNow [.suspend c d]

/-- An item with a source that has failed its unit excluded (R123). -/
def Item.excluding (i : Item) : Source → Item
  | .card => { i with noCard := true }
  | .dest e => { i with noDests := destInsert e i.noDests }

/-- Is slot `n` the one lane `d` fills for unit `k` of clip `c`? -/
def State.fillsFor (s : State) (d : DestNo) (n c k : Nat) : Bool :=
  (s.slot? n).any fun x => decide (x.state = .filling ∧ x.owner = .lane d ∧ x.clip = c ∧ x.unit = k)

theorem runCannotSupply_eq (d : DestNo) (n c k : Nat) (src : Source) (s : State) :
    runCannotSupply d n c k src s =
      match (s.dest d).cq.find? (·.names n) with
      | none => s.still
      | some i => if s.fillsFor d n c k then sourceAgain d n c k (i.excluding src) s else s.still := by
  unfold runCannotSupply
  cases (s.dest d).cq.find? (·.names n) with
  | none => rfl
  | some i => cases src <;> rfl

theorem sourceAgain_fair (d : DestNo) (n c k : Nat) (i : Item) (s : State) : (sourceAgain d n c k i s).Fair s := by
  unfold sourceAgain
  have h {F : Nat → Prop} : s.Works F
      (((s.modDest d fun x => { x with cq := x.cq.map fun j => if j.names n then i else j }).modLane d fun l =>
        { l with cardOnly := false, sum := none }).modSlot n fun x => { x with data := [] }) := by
    refine .trans (.trans ?_ (clearMark_works d _)) (State.setData_works _ n _)
    exact State.modDest_works_of_eq (fun _ => rfl) (fun _ => rfl) (fun _ => rfl) fun _ => rfl
  simp only
  split
  · exact h.fair (State.fillForLane_fair _ d n c k _)
  · split
    · exact h.fair (State.fillForLane_fair _ d n c k _)
    · exact .andNow h (by simp [Task.ordinary])

theorem runCannotSupply_fair (d : DestNo) (n c k : Nat) (src : Source) (s : State) :
    (runCannotSupply d n c k src s).Fair s := by
  rw [runCannotSupply_eq]
  split
  · exact .still (.refl s)
  · split
    · exact sourceAgain_fair d n c k _ s
    · exact .still (.refl s)

theorem askAndGo_fair (d : DestNo) (c k : Nat) (src : Source) (s : State) : (askAndGo d c k src s).Fair s := by
  obtain ⟨h1, h2, h3⟩ := s.askForLane_fair d c k src
  refine ⟨h1.weaken fun n hn => ?_, ?_, h3⟩
  · simp only [askAndGo, freed_append, List.mem_append]; exact .inl hn
  · simp only [askAndGo, List.mem_append, List.mem_singleton]
    rintro t (h | rfl)
    exacts [h2 t h, rfl]

theorem destInsert_ne_nil (d : DestNo) (ds : List DestNo) : destInsert d ds ≠ [] := by
  have : d ∈ destInsert d ds := by fin_cases d <;> simp [destInsert, allDests]
  exact List.ne_nil_of_mem this

theorem chooseSource_fair (d : DestNo) (c k : Nat) (s : State) : (chooseSource d c k s).Fair s := by
  unfold chooseSource
  split
  · refine .andNow ?_ (by simp [Task.ordinary])
    refine .trans (.trans (.trans ?_ (clearMark_works d _)) (State.queueItem_works _ _ _ _)) (State.modLane_works rfl)
    exact State.modSlot_works (fun _ => rfl) fun y _ _ h => absurd h (destInsert_ne_nil d y.pending)
  · split
    · exact askAndGo_fair d c k _ s
    · split
      · exact (clearMark_works d s).fair (askAndGo_fair d c k _ _)
      · exact .andNow (.refl s) (by simp [Task.ordinary])

theorem takeCopy_fair (d : DestNo) (c : Nat) (s : State) : (takeCopy d c s).Fair s := by
  unfold takeCopy
  split
  · split
    · exact .andNow (State.modLane_works (by rfl)) (by simp [Task.ordinary])
    · split
      · exact .andNow ((State.place_works rfl ‹_›).trans (State.modLane_works (by rfl))) (by simp [Task.ordinary])
      · split
        · refine .andNow ((s.modCopy_works c d _).trans (State.leaveLane_works _ _ _)) ?_
          split <;> simp [Task.ordinary]
        · exact .andNow (.refl s) (by simp [Task.ordinary])
  · exact .andNow (s.leaveLane_works c d) (by simp [Task.ordinary])

theorem sourceUnstable_works {F : Nat → Prop} (d : DestNo) (c : Nat) (x : Clip) (s : State) :
    s.Works F (sourceUnstable d c x s) := (s.raise_works _).trans (State.modClip_works _ _ _)

theorem endWalk_fair (d : DestNo) (c : Nat) (x : Clip) (s : State) : (endWalk d c x s).Fair s := by
  refine .andNow (State.Works.trans ?_ ((State.queueItem_works _ _ _ _).trans (State.leaveLane_works _ _ _)))
    (by simp [Task.ordinary])
  split_ifs
  · exact sourceUnstable_works d c x s
  · exact .refl s

theorem runLaneGo_fair (d : DestNo) (s : State) : (runLaneGo d s).Fair s := by
  unfold runLaneGo
  simp only
  split
  · split
    · split
      · exact .still (.refl s)
      · exact takeCopy_fair d _ s
    · split
      · exact .still (.refl s)
      · split
        · exact .still (.refl s)
        · split
          · exact chooseSource_fair d _ _ s
          · split
            · exact .still (.refl s)
            · exact endWalk_fair d _ _ s
  · exact .still (.refl s)

/-! ### Cards and destinations -/

theorem runPulled_fair (j : JobNo) (p : PortNo) (s : State) : (runPulled j p s).Fair s :=
  .still (.trans (.trans (s.leaveWait_works (.job j)) (by
    refine State.moveJob_works ?_
    exact ⟨rfl, rfl, nofun, nofun⟩)) (State.raise_works _ _))

theorem runBoundTo_fair (j : JobNo) (s : State) : (runBoundTo j s).Fair s := by
  unfold runBoundTo
  split
  · split
    · exact .still (State.moveJob_works ⟨rfl, rfl, nofun, nofun⟩)
    · split
      · exact .andNow (State.moveJob_works ⟨rfl, rfl, nofun, nofun⟩) (by simp [Task.ordinary])
      · exact .andNow (.refl s) (by simp [Task.ordinary])
  · exact .andNow (.refl s) (by simp [Task.ordinary])
  · exact .andNow (.refl s) (by simp [Task.ordinary])
  all_goals exact .still (.refl s)

/-- Every ordinary task is an ordinary work. -/
theorem Task.run_fair (x : Task) (hx : x.ordinary = true) (s : State) : (x.run s).Fair s := by
  cases x with
  | freeSlots ns => exact runFreeSlots_fair ns s
  | serveWaiting => exact runServeWaiting_fair s
  | askAgain r => exact askFor_fair r s
  | proceed j => exact runProceed_fair j s
  | clipStarted j c => exact runClipStarted_fair j c s
  | readEnded j => exact runReadEnded_fair j s
  | toDraining j => exact runToDraining_fair j s
  | abort c d => exact runAbort_fair c d s
  | failRepair c d fills => exact runFailRepair_fair c d fills s
  | requeue c d => exact runRequeue_fair c d s
  | enlist c => exact runEnlist_fair c s
  | secure c => exact runSecure_fair c s
  | rejoin c => exact runRejoin_fair c s
  | settle j => exact runSettle_fair j s
  | release j => exact runRelease_fair j s
  | laneGo d => exact runLaneGo_fair d s
  | cannotSupply d n c k src => exact runCannotSupply_fair d n c k src s
  | suspend c d => exact runSuspend_fair c d s
  | raise o => exact .still (s.raise_works o)
  | fillDest d c => exact .still (s.fillDest_works d c)
  | answer e st payload => exact .still (s.reply_works e st payload)
  | pull j p => exact .andNow (.refl s) (by simp [Task.ordinary])
  | pulled j p => exact runPulled_fair j p s
  | emit c => exact .still (s.emitRecord_works c)
  | arrive p identity => cases hx
  | boundTo j => exact runBoundTo_fair j s
  | lostEnd d detail => exact .still ((s.resetArbiter_works d).trans (State.raise_works _ _))
  | depart p => cases hx
  | newDrive d capacity => exact .still (State.moveDest_works (.of_eq rfl rfl rfl rfl))
  | announce n => exact .still (s.notify_works n)
  | abandoned j p => cases hx

end Sys2Proof.Machine

/-! An event from its first change to its end: what its run keeps, for ordinary works and for the three tasks that bind a
card or release a port. -/

namespace Sys2Proof.Machine

open Table

/-! ### From a command to its end -/

/-- From `s` to `t` a command or an event ran whole: what `Evolves` says, and the invariants that rest between commands
only.  `C` is what the held-slot counts ask besides. -/
structure State.Turns (C : Prop) (s t : State) : Prop extends s.Evolves t where
  counts : C → s.CountsAgree → t.CountsAgree
  needed : s.ring.Sound → (∀ n, ¬s.Needless n) → ∀ n, ¬t.Needless n
  bindings : s.BindingsAgree → t.BindingsAgree

variable {C : Prop} {s t u : State}

/-- Bound ports and jobs name each other when each job `j` is taken to be bound to `b j`. -/
def State.Bonds (s : State) (b : JobNo → Option PortNo) : Prop :=
  (∀ p j, ((s.port p).state = .bound ∧ (s.port p).boundJob = some j) ↔ b j = some p)
    ∧ (∀ j, (s.job j).state = .free → b j = none)
    ∧ ∀ p, (s.port p).state = .bound → (s.port p).enabled = true ∧ (s.port p).boundJob.isSome

theorem State.bindingsAgree_iff (s : State) : s.BindingsAgree ↔ s.Bonds fun j => (s.job j).boundPort := .rfl

theorem State.Works.bonds {F : Nat → Prop} (h : s.Works F t) {b : JobNo → Option PortNo} (hs : s.Bonds b) : t.Bonds b := by
  obtain ⟨h1, h2, h3⟩ := hs
  refine ⟨fun p j => ?_, fun j hj => h2 j ((h.jobs j).2 hj), fun p hp => ?_⟩
  · rw [← h1 p j, (h.ports p).1]
    refine and_congr_right fun hb => ?_
    rw [(h.ports p).2 hb]
  · have hb := (h.ports p).1.1 hp
    rw [h.enabled p, (h.ports p).2 hb]
    exact h3 p hb

theorem State.Works.bindingsAgree {F : Nat → Prop} (h : s.Works F t) (hs : s.BindingsAgree) : t.BindingsAgree := by
  have := h.bonds ((State.bindingsAgree_iff s).1 hs)
  rw [State.bindingsAgree_iff]
  simp only [(h.jobs _).1]
  exact this

theorem State.Works.turns (h : s.Works (fun _ => False) t) : s.Turns C t :=
  { h.toEvolves with
    counts := fun _ => h.counts
    needed := fun hs hn n ht => (h.needs hs n ht).elim (hn n) id
    bindings := h.bindingsAgree }

theorem State.Turns.refl (s : State) : s.Turns C s := (State.Works.refl s).turns

theorem State.Turns.trans_works (h : s.Turns C t) (g : t.Works (fun _ => False) u) : s.Turns C u :=
  { h.toEvolves.trans g.toEvolves with
    counts := fun hC hs => g.counts (h.counts hC hs)
    needed := fun hs hn n hu => (g.needs (h.ring hs) n hu).elim (h.needed hs hn n) id
    bindings := fun hs => g.bindingsAgree (h.bindings hs) }

theorem State.Works.trans_turns (h : s.Works (fun _ => False) t) (g : t.Turns C u) : s.Turns C u :=
  { h.toEvolves.trans g.toEvolves with
    counts := fun hC hs => g.counts hC (h.counts hs)
    needed := fun hs hn => g.needed (h.ring hs) fun n ht => (h.needs hs n ht).elim (hn n) id
    bindings := fun hs => g.bindings (h.bindingsAgree hs) }

/-! ### Binding and releasing -/

theorem State.port_movePort (s : State) (p : PortNo) (f : CardPort → CardPort) (q : PortNo) :
    (s.movePort p f).port q = if q = p then { f (s.port p) with lamp := (s.modPort p f).formLamp p } else s.port q := by
  split_ifs with h
  · subst h; simp [State.movePort]
  · simp [State.movePort, Ne.symm h]

theorem State.job_moveJob (s : State) (j : JobNo) (f : Job → Job) (i : JobNo) :
    (s.moveJob j f).job i = if i = j then f (s.job j) else s.job i := by
  split_ifs with h
  · subst h; simp [State.moveJob]
  · simp [State.moveJob, Ne.symm h]

theorem State.job_modJob (s : State) (j : JobNo) (f : Job → Job) (i : JobNo) :
    (s.modJob j f).job i = if i = j then f (s.job j) else s.job i := by
  split_ifs with h
  · subst h; simp
  · simp [Ne.symm h]

/-- A card port moved, enabled or not as before. -/
theorem State.movePort_evolves {p : PortNo} {f : CardPort → CardPort} (h : ∀ x, (f x).enabled = x.enabled) :
    s.Evolves (s.movePort p f) where
  enabled q := by
    rw [State.port_movePort]
    split_ifs with hq
    · subst hq; exact h _
    · rfl
  plan _ := by simp
  faults := by simp
  dests := by simp
  ring := by simp
  link h := h.queueNotice _
  manifest := by simp
  clips := by simp
  loading := by simp [State.LoadingEmpty]

theorem State.movePort_counts {p : PortNo} {f : CardPort → CardPort} (h : s.CountsAgree) :
    (s.movePort p f).CountsAgree := h.congr h.1 rfl (by simp) (by simp) (by simp)

/-- Job `j` bound to port `p`, which was bound to none. -/
theorem State.BindingsAgree.bind {j : JobNo} {p : PortNo} (hs : s.BindingsAgree) (hp : (s.port p).state ≠ .bound)
    (hj : (s.job j).boundPort = none)
    (hpt : (t.port p).state = .bound ∧ (t.port p).boundJob = some j ∧ (t.port p).enabled = true)
    (hjt : (t.job j).boundPort = some p ∧ (t.job j).state ≠ .free)
    (hqs : ∀ q, q ≠ p → (t.port q).state = (s.port q).state ∧ (t.port q).boundJob = (s.port q).boundJob
      ∧ (t.port q).enabled = (s.port q).enabled)
    (his : ∀ i, i ≠ j → (t.job i).boundPort = (s.job i).boundPort ∧ (t.job i).state = (s.job i).state) :
    t.BindingsAgree := by
  obtain ⟨h1, h2, h3⟩ := hs
  have hfree : ∀ i, (s.job i).boundPort ≠ some p := fun i hi => hp ((h1 p i).2 hi).1
  have hnone : ∀ q, ¬((s.port q).state = .bound ∧ (s.port q).boundJob = some j) := fun q hq => by
    rw [(h1 q j).1 hq] at hj; cases hj
  refine ⟨fun q i => ?_, fun i hi => ?_, fun q hq => ?_⟩
  · by_cases hqp : q = p
    · subst hqp
      by_cases hij : i = j
      · subst hij; simp [hpt, hjt]
      · simp [hpt, (his i hij).1, hfree i, Ne.symm hij]
    · obtain ⟨e1, e2, -⟩ := hqs q hqp
      rw [e1, e2]
      by_cases hij : i = j
      · subst hij; simp [hjt, hnone q, Ne.symm hqp]
      · rw [(his i hij).1]; exact h1 q i
  · by_cases hij : i = j
    · subst hij; exact absurd hi hjt.2
    · obtain ⟨e1, e2⟩ := his i hij
      rw [e1]; exact h2 i (by rw [← e2]; exact hi)
  · by_cases hqp : q = p
    · subst hqp; simp [hpt]
    · obtain ⟨e1, e2, e3⟩ := hqs q hqp
      rw [e2, e3]; exact h3 q (by rw [← e1]; exact hq)

/-- Job `j` bound no longer, and the port it was bound to released. -/
theorem State.Bonds.release {b : JobNo → Option PortNo} {j : JobNo} (hs : s.Bonds b)
    (hps : ∀ q, b j = some q → (t.port q).state ≠ .bound)
    (hqs : ∀ q, b j ≠ some q → (t.port q).state = (s.port q).state ∧ (t.port q).boundJob = (s.port q).boundJob
      ∧ (t.port q).enabled = (s.port q).enabled)
    (hj : (t.job j).boundPort = none)
    (his : ∀ i, i ≠ j → (t.job i).boundPort = b i ∧ ((t.job i).state = .free → (s.job i).state = .free)) :
    t.BindingsAgree := by
  obtain ⟨h1, h2, h3⟩ := hs
  refine ⟨fun q i => ?_, fun i hi => ?_, fun q hq => ?_⟩
  · by_cases hq : b j = some q
    · have hother : i ≠ j → b i ≠ some q := fun hij hi => by
        have := ((h1 q i).2 hi).2.symm.trans ((h1 q j).2 hq).2
        exact hij (Option.some.inj this)
      by_cases hij : i = j
      · subst hij; simp [hps q hq, hj]
      · simp [hps q hq, (his i hij).1, hother hij]
    · obtain ⟨e1, e2, -⟩ := hqs q hq
      rw [e1, e2, h1 q i]
      by_cases hij : i = j
      · subst hij; simp [hj, hq]
      · rw [(his i hij).1]
  · by_cases hij : i = j
    · subst hij; exact hj
    · rw [(his i hij).1]; exact h2 i ((his i hij).2 hi)
  · have hb : b j ≠ some q := fun hb => hps q hb hq
    obtain ⟨e1, e2, e3⟩ := hqs q hb
    rw [e2, e3]; exact h3 q (by rw [← e1]; exact hq)

/-! ### A card identified -/

theorem State.jobHolding_spec {i : Identity} {j : JobNo} (h : s.jobHolding i = some j) :
    (s.job j).state ≠ .free ∧ (s.job j).identity = some i := by
  simpa using List.find?_some h

/-- What every identification leaves alone. -/
structure State.Identifies (s t : State) : Prop extends s.Evolves t where
  counts : s.CountsAgree → t.CountsAgree
  held_eq : t.ring.held = s.ring.held

theorem State.Identifies.trans (h : s.Identifies t) (g : t.Identifies u) : s.Identifies u :=
  ⟨h.toEvolves.trans g.toEvolves, g.counts ∘ h.counts, g.held_eq.trans h.held_eq⟩

theorem State.movePort_identifies {p : PortNo} {f : CardPort → CardPort} (h : ∀ x, (f x).enabled = x.enabled) :
    s.Identifies (s.movePort p f) := ⟨movePort_evolves h, movePort_counts, rfl⟩

/-- A job's bound port set. -/
theorem State.setBoundPort_identifies (j : JobNo) (p : Option PortNo) :
    s.Identifies (s.modJob j fun x => { x with boundPort := p }) := by
  have hj (i : JobNo) : ((s.modJob j fun x => { x with boundPort := p }).job i).held = (s.job i).held
      ∧ ((s.modJob j fun x => { x with boundPort := p }).job i).state = (s.job i).state := by
    rw [State.job_modJob]; split_ifs with h
    · subst h; exact ⟨rfl, rfl⟩
    · exact ⟨rfl, rfl⟩
  refine ⟨⟨by simp, by simp, by simp, by simp, by simp, by simp, by simp, by simp, fun h i => ?_⟩, fun h => ?_, rfl⟩
  · rw [(hj i).1, (hj i).2]; exact h i
  · exact h.congr h.1 rfl (fun i => (hj i).1) (fun i => by rw [(hj i).2]; exact id) (by simp)

theorem identifyCard_cases (p : PortNo) (i : Identity) (s : State) :
    identifyCard p i s = (s.movePort p fun x =>
        { x with state := .present, identity := some i, identityTimer := false, boundJob := none }).still
      ∨ ∃ j, (s.job j).state ≠ .free ∧ (s.job j).boundPort = none
        ∧ identifyCard p i s = ((s.modJob j fun x => { x with boundPort := some p }).movePort p fun x =>
            { x with
              state := .bound, identity := some i, identityTimer := false, boundJob := some j
              released := if (s.job j).state = .released then some i else x.released }).andNow
          ((s.clipsOfJob j).map .rejoin ++ [.boundTo j]) := by
  unfold identifyCard
  simp only
  split
  · exact .inl rfl
  · rename_i j hj
    split
    · exact .inl rfl
    · rename_i hb
      exact .inr ⟨j, (State.jobHolding_spec hj).1, Option.not_isSome_iff_eq_none.1 hb, rfl⟩

theorem identifyCard_identifies (p : PortNo) (i : Identity) (s : State) : s.Identifies (identifyCard p i s).state := by
  rcases identifyCard_cases p i s with h | ⟨j, -, -, h⟩ <;> rw [h]
  · exact State.movePort_identifies fun _ => rfl
  · exact .trans (State.setBoundPort_identifies j _) (State.movePort_identifies fun _ => rfl)

theorem identifyCard_tasks (p : PortNo) (i : Identity) (s : State) :
    (∀ x ∈ (identifyCard p i s).now, x.ordinary = true) ∧ (identifyCard p i s).later = [] := by
  rcases identifyCard_cases p i s with h | ⟨j, -, -, h⟩ <;> rw [h]
  · exact ⟨by simp [State.still], rfl⟩
  · exact ⟨by simp [State.andNow, Task.ordinary, or_imp, forall_and], rfl⟩

theorem identifyCard_bindings {p : PortNo} (i : Identity) (hs : s.BindingsAgree) (hp : (s.port p).state ≠ .bound)
    (he : (s.port p).enabled = true) : (identifyCard p i s).state.BindingsAgree := by
  rcases identifyCard_cases p i s with h | ⟨j, hf, hj, h⟩ <;> rw [h]
  · refine State.Works.bindingsAgree (F := fun _ => True) (State.movePort_works ⟨rfl, ?_, fun h => absurd h hp⟩) hs
    simp [hp]
  · refine hs.bind hp hj ?_ ?_ (fun q hq => ?_) fun k hk => ?_
    · simp [State.andNow, State.port_movePort, he]
    · simpa [State.andNow] using hf
    · simp [State.andNow, State.port_movePort, hq]
    · simp [State.andNow, State.job_modJob, hk]

theorem runArrive_identifies (p : PortNo) (i : Identity) (s : State) : s.Identifies (runArrive p i s).state := by
  have h : s.Identifies (s.movePort p fun x => { x with state := .mounting, identity := none }) :=
    State.movePort_identifies fun _ => rfl
  exact h.trans (identifyCard_identifies p i _)

theorem runArrive_bindings {p : PortNo} (i : Identity) (hs : s.BindingsAgree) (hp : (s.port p).state ≠ .bound)
    (he : (s.port p).enabled = true) : (runArrive p i s).state.BindingsAgree := by
  refine identifyCard_bindings i ?_ ?_ ?_
  · refine State.Works.bindingsAgree (F := fun _ => True) (State.movePort_works ⟨rfl, ?_, fun h => absurd h hp⟩) hs
    simp [hp]
  · simp [State.port_movePort]
  · simpa [State.port_movePort] using he

theorem runDepart_identifies (p : PortNo) (s : State) : s.Identifies (runDepart p s).state :=
  State.movePort_identifies fun _ => rfl

theorem runDepart_works {F : Nat → Prop} {p : PortNo} (hp : (s.port p).state ≠ .bound) : s.Works F (runDepart p s).state :=
  State.movePort_works ⟨rfl, by simp [hp], fun h => absurd h hp⟩

/-! ### A job record freed -/

theorem State.freeClips_wf (j : JobNo) (h : wf s.clips = true) : wf (s.freeClips j).clips = true := by
  rw [wf_iff] at h ⊢
  exact h.sublist (List.Sublist.map _ List.filter_sublist)

/-- A record freed with its clips: what it leaves of ports and jobs. -/
theorem State.freeJob_spec (s : State) (j : JobNo) (p : Option PortNo) :
    let t := s.freeJob j p
    t.ring = s.ring ∧ t.dests = s.dests ∧ t.plan = s.plan ∧ t.manifest = s.manifest ∧ t.faults = s.faults
      ∧ t.clips = (s.freeClips j).clips ∧ (s.link.Sound → t.link.Sound)
      ∧ (∀ i, t.job i = if i = j then Job.free else s.job i)
      ∧ ∀ q, (t.port q).enabled = (s.port q).enabled ∧ (p = some q → (t.port q).state = .present)
        ∧ (p ≠ some q → t.port q = s.port q) := by
  have hjob (i : JobNo) : ((s.freeClips j).moveJob j fun _ => Job.free).job i = if i = j then Job.free else s.job i :=
    State.job_moveJob _ _ _ _
  cases p with
  | none => exact ⟨rfl, rfl, rfl, rfl, rfl, rfl, (·.queueNotice _), hjob, fun q => ⟨rfl, nofun, fun _ => rfl⟩⟩
  | some p =>
    refine ⟨rfl, rfl, rfl, rfl, rfl, rfl, fun h => (h.queueNotice _).queueNotice _, hjob, fun q => ?_⟩
    simp only [State.freeJob, Option.elim_some, State.port_movePort]
    refine ⟨?_, fun hq => ?_, fun hq => ?_⟩
    · split_ifs with h
      · subst h; rfl
      · rfl
    · simp [(Option.some.inj hq).symm]
    · rw [if_neg fun h => hq (by rw [h])]; rfl

theorem State.freeJob_evolves (s : State) (j : JobNo) (p : Option PortNo) : s.Evolves (s.freeJob j p) := by
  obtain ⟨hr, hd, hp, hm, hf, hc, hl, hj, hq⟩ := s.freeJob_spec j p
  refine ⟨fun q => (hq q).1, fun _ => hp, by rw [hf]; exact id, fun h d => ?_, by rw [hr]; exact id, hl,
    by rw [hm]; exact id, fun h => by rw [hc]; exact freeClips_wf j h, fun h i => ?_⟩
  · rw [State.dest_congr hd]; exact h d
  · rw [hj]
    split_ifs
    · exact fun _ => rfl
    · exact h i

theorem State.freeJob_counts {j : JobNo} {p : Option PortNo} (h : s.CountsAgree) (hj : ∀ n, ¬s.Owns (.job j) n) :
    (s.freeJob j p).CountsAgree := by
  obtain ⟨hr, hd, -, -, -, -, -, hjob, -⟩ := s.freeJob_spec j p
  refine ⟨by rw [hr]; exact h.1, fun r => ?_, fun i => ?_⟩
  · rw [hr, ← h.2.1 r]
    cases r with
    | lane d => simp only [State.heldCount, State.dest_congr hd]
    | job i =>
      simp only [State.heldCount, hjob]
      split_ifs with hi
      · subst hi
        have hzero := h.2.1 (.job i)
        rw [List.filter_eq_nil_iff.2] at hzero
        · exact hzero.symm
        · rintro ⟨n, y⟩ hm
          simpa using fun hy => hj n ⟨y, (find_eq_some_iff h.1.1 n y).2 hm, hy⟩
      · rfl
  · rw [hjob]
    split_ifs
    · exact fun _ => rfl
    · exact h.2.2 i

theorem State.freeJob_bindings {b : JobNo → Option PortNo} {j : JobNo} (h : s.Bonds b)
    (hb : ∀ i, i ≠ j → b i = (s.job i).boundPort) : (s.freeJob j (b j)).BindingsAgree := by
  obtain ⟨-, -, -, -, -, -, -, hjob, hport⟩ := s.freeJob_spec j (b j)
  refine h.release (j := j) (fun q hq => ?_) (fun q hq => ?_) ?_ fun i hi => ?_
  · rw [(hport q).2.1 hq]; decide
  · rw [(hport q).2.2 hq]; exact ⟨rfl, rfl, rfl⟩
  · rw [hjob, if_pos rfl]; rfl
  · rw [hjob, if_neg hi]; exact ⟨(hb i hi).symm, id⟩

/-- The manifest without the job's entries (R11). -/
theorem runAbandoned_state (j : JobNo) (p : Option PortNo) (s : State) :
    ∃ m : Manifest, m.queue.length = s.manifest.queue.length
      ∧ (runAbandoned j p s).state = ({ s with manifest := m }).freeJob j p
      ∧ s.Works (fun _ => False) { s with manifest := m } := by
  refine ⟨_, by rw [List.length_map], rfl, s.setManifest_works fun h => ?_⟩
  simpa [Manifest.Sound] using h

/-! ### Every task -/

theorem Task.run_evolves (x : Task) (s : State) : s.Evolves (x.run s).state := by
  cases hx : x.ordinary with
  | true => exact (x.run_fair hx s).works.toEvolves
  | false =>
    cases x with
    | arrive p i => exact (runArrive_identifies p i s).toEvolves
    | depart p => exact (runDepart_identifies p s).toEvolves
    | abandoned j p =>
      obtain ⟨m, -, hm, hw⟩ := runAbandoned_state j p s
      exact hw.toEvolves.trans (hm ▸ State.freeJob_evolves _ j p)
    | _ => cases hx

/-- The tasks that follow a task are ordinary. -/
theorem Task.run_tasks (x : Task) (s : State) :
    (∀ y ∈ (x.run s).now, y.ordinary = true) ∧ ∀ y ∈ (x.run s).later, y.ordinary = true := by
  cases hx : x.ordinary with
  | true => exact ⟨(x.run_fair hx s).now, (x.run_fair hx s).later⟩
  | false =>
    cases x with
    | arrive p i =>
      have := identifyCard_tasks p i (s.movePort p fun x => { x with state := .mounting, identity := none })
      exact ⟨this.1, fun y hy => by rw [show (Task.run (.arrive p i) s).later = [] from this.2] at hy; cases hy⟩
    | depart p => exact ⟨by simp [Task.run, runDepart, State.still], by simp [Task.run, runDepart, State.still]⟩
    | abandoned j p => exact ⟨by simp [Task.run, runAbandoned, State.still], by simp [Task.run, runAbandoned, State.still]⟩
    | _ => cases hx

theorem Task.run_held_of_special {x : Task} (hx : x.ordinary = false) (s : State) :
    (x.run s).state.ring.held = s.ring.held := by
  cases x with
  | arrive p i => exact (runArrive_identifies p i s).held_eq
  | depart p => rfl
  | abandoned j p =>
    obtain ⟨m, -, hm, -⟩ := runAbandoned_state j p s
    change (runAbandoned j p s).state.ring.held = _
    rw [hm, (State.freeJob_spec _ j p).1]
  | _ => cases hx

/-- A slot needless after a task is one it hands to `freeSlots`, or was needless and is not one it freed. -/
theorem Task.run_needs (x : Task) (hs : s.ring.Sound) {n : Nat} (h : (x.run s).state.Needless n) :
    n ∈ freed (x.run s).now ∨ (s.Needless n ∧ n ∉ x.frees) := by
  cases hx : x.ordinary with
  | false =>
    refine .inr ⟨?_, ?_⟩
    · obtain ⟨y, hy, h⟩ := h
      exact ⟨y, by rwa [State.slot?, Task.run_held_of_special hx s] at hy, h⟩
    · cases x with
      | freeSlots ns => cases hx
      | _ => exact List.not_mem_nil
  | true =>
    rcases (x.run_fair hx s).works.needs hs n h with hn | hn
    · cases x with
      | freeSlots ns =>
        cases ns with
        | nil => exact .inr ⟨hn, List.not_mem_nil⟩
        | cons m rest =>
          by_cases hm : n = m
          · subst hm
            exfalso
            change (runFreeSlots _ _).state.Needless n at h
            unfold runFreeSlots at h
            simp only at h
            split at h
            · obtain ⟨y, hy, -⟩ := hn
              rename_i hnone
              rw [hnone] at hy; cases hy
            · exact State.freeSlot_not_needless _ n h
          · by_cases hr : n ∈ rest
            · refine .inl ?_
              change n ∈ freed (runFreeSlots _ _).now
              unfold runFreeSlots
              simp only
              split
              · simpa [State.andNow] using hr
              · simp [State.andNow, hr]
            · exact .inr ⟨hn, by simp [hm, hr]⟩
      | _ => exact .inr ⟨hn, List.not_mem_nil⟩
    · exact .inl hn

end Sys2Proof.Machine

/-! The run of an event: three invariants of its task list and its state (`Awaits`, `Owes`, `Clears`), and from them what a
whole event leaves. -/

namespace Sys2Proof.Machine

open Table

variable {C : Prop} {s t u : State}

/-- What one task after the other keeps, with the links served before each and the lamps formed after it, holds at the end
with no task left. -/
theorem runTasks_keeps (P : List Task → State → Prop)
    (hstep : ∀ x ts s, P (x :: ts) s →
      P ((x.run s.serveLinks).now ++ ts ++ (x.run s.serveLinks).later) (x.run s.serveLinks).state.refreshLamps)
    {n : Nat} {ts : List Task} (h : P ts s) (hr : runTasks n ts s = some t) : P [] t := by
  induction n generalizing ts s with
  | zero =>
    cases ts with
    | nil => simp at hr; exact hr ▸ h
    | cons x ts => cases hr
  | succ n ih =>
    cases ts with
    | nil => simp at hr; exact hr ▸ h
    | cons x ts => exact ih (hstep x ts s h) hr

/-- The tasks a list of tasks holds that bind a card or release a port. -/
def specials (ts : List Task) : List Task := ts.filter fun x => !x.ordinary

@[simp] theorem specials_append (l m : List Task) : specials (l ++ m) = specials l ++ specials m := List.filter_append ..

theorem specials_of_ordinary {l : List Task} (h : ∀ x ∈ l, x.ordinary = true) : specials l = [] := by
  simpa [specials, List.filter_eq_nil_iff] using h

/-- The tasks that follow a task bind no card and release no port. -/
theorem specials_run (x : Task) (ts : List Task) (s : State) :
    specials ((x.run s).now ++ ts ++ (x.run s).later) = specials ts := by
  obtain ⟨h1, h2⟩ := x.run_tasks s
  simp [specials_of_ordinary h1, specials_of_ordinary h2]

theorem specials_cons_ordinary {x : Task} (hx : x.ordinary = true) (ts : List Task) : specials (x :: ts) = specials ts := by
  simp [specials, hx]

theorem specials_cons_special {x : Task} (hx : x.ordinary = false) (ts : List Task) :
    specials (x :: ts) = x :: specials ts := by
  simp [specials, hx]

/-! ### Needless slots -/

/-- Every needless slot is one a task of the list frees. -/
def State.Awaits (s : State) (ts : List Task) : Prop := s.ring.Sound ∧ ∀ n, s.Needless n → n ∈ freed ts

theorem State.Works.needless (h : s.Works (fun _ => False) t) (hs : s.ring.Sound) {n : Nat} (hn : t.Needless n) :
    s.Needless n := (h.needs hs n hn).elim id False.elim

theorem runTasks_awaits {n : Nat} {ts : List Task} (h : s.Awaits ts) (hr : runTasks n ts s = some t) : t.Awaits [] := by
  refine runTasks_keeps (fun ts s => s.Awaits ts) (fun x ts s ⟨hs, hn⟩ => ?_) h hr
  have hs' : s.serveLinks.ring.Sound := (s.serveLinks_works (F := fun _ => False)).ring hs
  have hw := x.run_evolves s.serveLinks
  refine ⟨(State.refreshLamps_works (F := fun _ => False) _).ring (hw.ring hs'), fun n hn' => ?_⟩
  have hn1 := (State.refreshLamps_works _).needless (hw.ring hs') hn'
  simp only [freed_append, List.mem_append]
  rcases x.run_needs hs' hn1 with h | ⟨h, hx⟩
  · exact .inl (.inl h)
  · have := hn n (s.serveLinks_works.needless hs h)
    simp only [freed_cons, List.mem_append, hx, false_or] at this
    exact .inl (.inr this)

/-! ### Bindings -/

/-- What the tasks left that bind or release ask of the bindings: the port of a card that comes or goes is not BOUND, and a
job being abandoned is bound to its port until it is freed. -/
def State.Owes (s : State) : List Task → Prop
  | [] => s.BindingsAgree
  | [.depart p] => s.BindingsAgree ∧ (s.port p).state ≠ .bound
  | [.arrive p _] => s.BindingsAgree ∧ (s.port p).state ≠ .bound ∧ (s.port p).enabled = true
  | [.depart p, .arrive q _] => s.BindingsAgree ∧ (s.port p).state ≠ .bound ∧ q = p ∧ (s.port p).enabled = true
  | [.abandoned j p] => s.Bonds (Function.update (fun i => (s.job i).boundPort) j p)
  | _ => False

theorem State.Works.owes {F : Nat → Prop} (h : s.Works F t) {l : List Task} (hl : s.Owes l) : t.Owes l := by
  have hp (p : PortNo) (hb : (s.port p).state ≠ .bound) : (t.port p).state ≠ .bound := mt (h.ports p).1.1 hb
  unfold State.Owes at hl ⊢
  split at hl
  · exact h.bindingsAgree hl
  · exact ⟨h.bindingsAgree hl.1, hp _ hl.2⟩
  · exact ⟨h.bindingsAgree hl.1, hp _ hl.2.1, by rw [h.enabled]; exact hl.2.2⟩
  · exact ⟨h.bindingsAgree hl.1, hp _ hl.2.1, hl.2.2.1, by rw [h.enabled]; exact hl.2.2.2⟩
  · simp only [(h.jobs _).1]
    exact h.bonds hl
  · exact hl.elim

theorem runAbandoned_bindings {j : JobNo} {p : Option PortNo}
    (h : s.Bonds (Function.update (fun i => (s.job i).boundPort) j p)) : (runAbandoned j p s).state.BindingsAgree := by
  obtain ⟨m, -, hm, hw⟩ := runAbandoned_state j p s
  rw [hm]
  have := State.freeJob_bindings (j := j) (hw.bonds h) fun i hi => by rw [Function.update_of_ne hi]; rfl
  rwa [Function.update_self] at this

/-- A task that binds or releases, run where the bindings owe it. -/
theorem State.Owes.run_special {x : Task} {l : List Task} (h : s.Owes (x :: l)) (hx : x.ordinary = false) :
    (x.run s).state.Owes l := by
  cases x with
  | depart p =>
    cases l with
    | nil => exact (runDepart_works (F := fun _ => True) h.2).bindingsAgree h.1
    | cons y l =>
      cases y with
      | arrive q i =>
        cases l with
        | nil =>
          obtain ⟨hb, hp, rfl, he⟩ := h
          exact (runDepart_works (F := fun _ => True) hp).owes (l := [.arrive q i]) ⟨hb, hp, he⟩
        | cons _ _ => exact h.elim
      | _ => exact h.elim
  | arrive p i =>
    cases l with
    | nil => exact runArrive_bindings i h.1 h.2.1 h.2.2
    | cons _ _ => exact h.elim
  | abandoned j p =>
    cases l with
    | nil => exact runAbandoned_bindings h
    | cons _ _ => exact h.elim
  | _ => cases hx

theorem runTasks_owes {n : Nat} {ts : List Task} (h : s.Owes (specials ts)) (hr : runTasks n ts s = some t) :
    t.BindingsAgree := by
  refine runTasks_keeps (fun ts s => s.Owes (specials ts)) (fun x ts s h => ?_) h hr
  rw [specials_run]
  refine (State.refreshLamps_works (F := fun _ => True) _).owes ?_
  have h' := (s.serveLinks_works (F := fun _ => True)).owes h
  cases hx : x.ordinary with
  | true =>
    rw [specials_cons_ordinary hx] at h'
    exact (x.run_fair hx _).works.owes h'
  | false =>
    rw [specials_cons_special hx] at h'
    exact h'.run_special hx

/-! ### Held-slot counts -/

/-- The tasks free no job record, or they free that of a job whose slots they have freed by then. -/
def State.Clears (s : State) (ts : List Task) : Prop :=
  (∀ x ∈ ts, ∀ j p, x ≠ .abandoned j p)
    ∨ ∃ l j p m, ts = l ++ .abandoned j p :: m ∧ (∀ x ∈ l ++ m, x.ordinary = true) ∧ (s.job j).boundPort = none
      ∧ ∀ n, s.Owns (.job j) n → n ∈ freed l

theorem ne_abandoned_of_ordinary {x : Task} (hx : x.ordinary = true) (j : JobNo) (p : Option PortNo) :
    x ≠ .abandoned j p := by
  rintro rfl
  cases hx

theorem State.Works.clears (h : s.Works (fun _ => True) t) {ts : List Task} (hs : s.Clears ts) : t.Clears ts := by
  refine hs.imp_right ?_
  rintro ⟨l, j, p, m, rfl, ho, hj, hn⟩
  exact ⟨l, j, p, m, rfl, ho, by rw [(h.jobs j).1]; exact hj, fun n hn' => hn n (h.owns j n hj hn')⟩

/-- Slots a `freeSlots` task names are owned no longer, or are left to the next. -/
theorem Task.run_frees (x : Task) {n : Nat} {r : Requester} (hn : n ∈ x.frees) (h : (x.run s).state.Owns r n) :
    n ∈ freed (x.run s).now := by
  cases x with
  | freeSlots ns =>
    cases ns with
    | nil => cases hn
    | cons m rest =>
      change (runFreeSlots _ _).state.Owns r n at h
      change n ∈ freed (runFreeSlots _ _).now
      unfold runFreeSlots at h ⊢
      simp only at h ⊢
      split at h
      · rename_i hnone
        rcases List.mem_cons.1 hn with rfl | hr
        · obtain ⟨y, hy, -⟩ := h
          change s.slot? n = some y at hy
          rw [hnone] at hy; cases hy
        · simpa [State.andNow] using hr
      · rcases List.mem_cons.1 hn with rfl | hr
        · exact absurd h (State.freeSlot_not_owned _ n r)
        · simp [State.andNow, hr]
  | _ => cases hn

theorem State.Clears.run {x : Task} {ts : List Task} (h : s.Clears (x :: ts)) :
    (x.run s).state.Clears ((x.run s).now ++ ts ++ (x.run s).later) := by
  obtain ⟨h1, h2⟩ := x.run_tasks s
  have hnone (hts : ∀ y ∈ ts, ∀ j p, y ≠ .abandoned j p) :
      (x.run s).state.Clears ((x.run s).now ++ ts ++ (x.run s).later) := by
    refine .inl fun y hy => ?_
    simp only [List.mem_append] at hy
    rcases hy with (hy | hy) | hy
    · exact ne_abandoned_of_ordinary (h1 y hy)
    · exact hts y hy
    · exact ne_abandoned_of_ordinary (h2 y hy)
  rcases h with h | ⟨l, j, p, m, he, ho, hj, hn⟩
  · exact hnone fun y hy => h y (List.mem_cons_of_mem _ hy)
  · cases l with
    | nil =>
      obtain ⟨-, rfl⟩ := List.cons.inj he
      exact hnone fun y hy => ne_abandoned_of_ordinary (ho y (by simpa using hy))
    | cons z l =>
      obtain ⟨rfl, rfl⟩ := List.cons.inj he
      have hx : x.ordinary = true := ho x (by simp)
      have hw := (x.run_fair hx s).works
      refine .inr ⟨(x.run s).now ++ l, j, p, m ++ (x.run s).later, by simp, fun y hy => ?_, by rw [(hw.jobs j).1]; exact hj,
        fun n hn' => ?_⟩
      · simp only [List.mem_append] at hy
        rcases hy with (hy | hy) | (hy | hy)
        · exact h1 y hy
        · exact ho y (by simp [hy])
        · exact ho y (by simp [hy])
        · exact h2 y hy
      · have := hn n (hw.owns j n hj hn')
        simp only [freed_cons, List.mem_append, freed_append] at this ⊢
        exact this.imp_left fun hf => x.run_frees hf hn'

theorem State.Clears.run_counts {x : Task} {ts : List Task} (h : s.Clears (x :: ts)) (hs : s.CountsAgree) :
    (x.run s).state.CountsAgree := by
  cases hx : x.ordinary with
  | true => exact (x.run_fair hx s).works.counts hs
  | false =>
    cases x with
    | arrive p i => exact (runArrive_identifies p i s).counts hs
    | depart p => exact (runDepart_identifies p s).counts hs
    | abandoned j p =>
      obtain ⟨m, -, hm, hw⟩ := runAbandoned_state j p s
      change (runAbandoned j p s).state.CountsAgree
      rw [hm]
      refine State.freeJob_counts (hw.counts hs) ?_
      rcases h with h | ⟨l, i, q, ts', he, ho, -, hn⟩
      · exact absurd rfl (h _ (List.mem_cons_self ..) j p)
      · cases l with
        | nil =>
          obtain ⟨h1, -⟩ := List.cons.inj he
          obtain ⟨rfl, -⟩ := Task.abandoned.inj h1
          exact fun n ⟨y, hy⟩ => List.not_mem_nil (hn n ⟨y, hy⟩)
        | cons z l =>
          obtain ⟨rfl, -⟩ := List.cons.inj he
          cases ho (.abandoned j p) (by simp)
    | _ => cases hx

theorem runTasks_counts {n : Nat} {ts : List Task} (hs : s.CountsAgree) (h : s.Clears ts)
    (hr : runTasks n ts s = some t) : t.CountsAgree := by
  refine (runTasks_keeps (fun ts s => s.CountsAgree ∧ s.Clears ts) (fun x ts s ⟨hs, h⟩ => ?_) ⟨hs, h⟩ hr).1
  have hl := s.serveLinks_works (F := fun _ => True)
  have hc := hl.clears h
  exact ⟨(State.refreshLamps_works (F := fun _ => True) _).counts (hc.run_counts (hl.counts hs)),
    (State.refreshLamps_works _).clears hc.run⟩

/-! ### A whole event -/

/-- What a work must bring to its event. -/
structure Work.Launch (C : Prop) (s : State) (w : Work) : Prop extends s.Evolves w.state where
  needed : s.ring.Sound → (∀ n, ¬s.Needless n) → ∀ n, w.state.Needless n → n ∈ freed (w.now ++ w.later)
  counts : C → s.CountsAgree → w.state.CountsAgree ∧ w.state.Clears (w.now ++ w.later)
  bindings : s.BindingsAgree → w.state.Owes (specials (w.now ++ w.later))

theorem Work.Fair.launch {w : Work} (h : w.Fair s) : w.Launch C s := by
  have hall : ∀ x ∈ w.now ++ w.later, x.ordinary = true := fun x hx =>
    (List.mem_append.1 hx).elim (h.now x) (h.later x)
  refine { h.works.toEvolves with
    needed := fun hs hn n ht => ?_
    counts := fun _ hs => ⟨h.works.counts hs, .inl fun x hx => ne_abandoned_of_ordinary (hall x hx)⟩
    bindings := fun hs => ?_ }
  · rw [freed_append]
    exact List.mem_append_left _ ((h.works.needs hs n ht).resolve_left (hn n))
  · rw [specials_of_ordinary hall]
    exact h.works.bindingsAgree hs

theorem runTasks_evolves {n : Nat} {ts : List Task} (h : runTasks n ts s = some t) : s.Evolves t :=
  runTasks_invariant (fun u : State => s.Evolves u)
    (fun u hu => hu.trans (u.refreshLamps_works (F := fun _ => True)).toEvolves)
    (fun x u hu => hu.trans (x.run_evolves u))
    (fun u d hu => hu.trans (u.arbitrate_works (F := fun _ => True) d).toEvolves)
    (fun u p hu => hu.trans (u.serveReader_works (F := fun _ => True) p).toEvolves) (.refl s) h

/-- The tasks of an event run to their end. -/
theorem Work.Launch.run {w : Work} (h : w.Launch C s) {n : Nat}
    (hr : runTasks n (w.now ++ w.later) w.state.refreshLamps = some t) : s.Turns C t := by
  have hl {F : Nat → Prop} := w.state.refreshLamps_works (F := F)
  refine { (h.toEvolves.trans (hl (F := fun _ => True)).toEvolves).trans (runTasks_evolves hr) with
    counts := fun hC hs => ?_
    needed := fun hs hn n ht => ?_
    bindings := fun hs => ?_ }
  · obtain ⟨h1, h2⟩ := h.counts hC hs
    exact runTasks_counts ((hl (F := fun _ => True)).counts h1) (hl.clears h2) hr
  · have ha : w.state.refreshLamps.Awaits (w.now ++ w.later) :=
      ⟨(hl (F := fun _ => True)).ring (h.ring hs), fun m hm => h.needed hs hn m (hl.needless (h.ring hs) hm)⟩
    exact List.not_mem_nil ((runTasks_awaits ha hr).2 n ht)
  · exact runTasks_owes ((hl (F := fun _ => True)).owes (h.bindings hs)) hr

theorem Work.Launch.event {w : Work} (h : w.Launch C s) (he : event w = .next t) : s.Turns C t := by
  obtain ⟨u, hu, rfl⟩ := event_cases he
  exact (h.run hu).trans_works (State.serveLinks_works u)

theorem Work.Fair.event {w : Work} (h : w.Fair s) (he : event w = .next t) : s.Turns C t := h.launch.event he

/-! ### Requests -/

/-- What a ruling makes of a request. -/
def Ruling.Turns (C : Prop) (s : State) : Ruling → Prop
  | .refuse _ => True
  | .tell _ t => s.Turns C t
  | .take _ w => w.Launch C s
  | .owe w => w.Launch C s

theorem Ruling.Turns.carry {r : Ruling} {e : EntryNo} (h : r.Turns C s) (hc : r.carry e s = .next t) : s.Turns C t := by
  rcases Ruling.carry_cases hc with ⟨st, rfl, rfl⟩ | ⟨b, s', rfl, rfl⟩ | ⟨b, w, s', rfl, hr, rfl⟩ | ⟨w, rfl, he⟩
  · exact (State.reply_works s e st []).turns
  · exact State.Turns.trans_works h (State.reply_works _ _ _ _)
  · exact (Work.Launch.run h hr).trans_works ((State.reply_works _ _ _ _).trans (State.serveLinks_works _))
  · exact Work.Launch.event h he

theorem State.takeEntry_works {F : Nat → Prop} (s : State) (e : EntryNo) (tag : Byte) (code : Nat) :
    s.Works F (s.takeEntry e tag code) := .of_same rfl rfl rfl rfl rfl rfl rfl rfl id id

theorem State.turnAway_works {F : Nat → Prop} (s : State) (tag : Byte) : s.Works F (s.turnAway tag) := by
  unfold State.turnAway
  split
  · exact .refl s
  · refine .of_same rfl rfl rfl rfl rfl rfl rfl rfl (fun h => ?_) id
    simpa [Link.Sound, Link.noticesQueued, List.filter_append, replyFrame] using h

/-- A request whose owner keeps the invariants from every state the request can be taken in. -/
theorem State.request_turns {tag : Byte} {code : Nat} {owner : EntryNo → State → Ruling}
    (ho : ∀ e, (owner e (s.takeEntry e tag code)).Turns C (s.takeEntry e tag code))
    (h : s.request tag code owner = .next t) : s.Turns C t := by
  cases hf : s.link.freeEntry with
  | none =>
    rw [State.request_of_full hf] at h
    obtain rfl := Host.Outcome.next.inj h
    exact (s.turnAway_works tag).turns
  | some e =>
    rw [State.request_of_free hf] at h
    exact (s.takeEntry_works e tag code).trans_turns ((ho e).carry h)

end Sys2Proof.Machine

/-! Every command but POWER_ON_RESET keeps the invariants (`exec_turns`); with what POWER_ON_RESET leaves, O12, O16, O23,
O58, O59 and O60 follow. -/

namespace Sys2Proof.Machine

open Table

variable {C : Prop} {s t : State}

/-! ### Card commands -/

theorem ruleSectorRead_turns (e : EntryNo) (tag : Byte) (n a k : Nat) (s : State) :
    (ruleSectorRead e tag n a k s).Turns C s := by
  have h (p : PortNo) : (ruleSectors p e tag a k s).Turns C s := by
    unfold ruleSectors
    split
    · trivial
    · exact (Work.Fair.still (State.modPort_works ⟨rfl, .rfl, fun _ => rfl⟩)).launch
  unfold ruleSectorRead
  split
  · trivial
  · split
    · trivial
    · split
      · trivial
      · split
        · trivial
        · trivial
        · trivial
        · exact h _
        · exact h _

theorem execReaderSlotSeated_turns {p : PortNo} (h : execReaderSlotSeated p s = .next t) : s.Turns C t := by
  unfold execReaderSlotSeated at h
  split at h
  · rename_i hp
    obtain rfl := Host.Outcome.next.inj h
    refine s.quiet_works.trans_turns (State.movePort_works ⟨rfl, ?_, fun hb => ?_⟩).turns
    · simp [hp.2]
    · simp [hp.2] at hb
  · obtain rfl := Host.Outcome.next.inj h
    exact s.quiet_works.turns

theorem execIdentityTimerExpiry_turns {p : PortNo} (h : execIdentityTimerExpiry p s = .next t) : s.Turns C t := by
  unfold execIdentityTimerExpiry at h
  split at h
  · rename_i hp
    obtain rfl := Host.Outcome.next.inj h
    refine s.quiet_works.trans_turns (State.movePort_works ⟨rfl, ?_, fun hb => ?_⟩).turns
    · simp [hp.2.1]
    · simp [hp.2.1] at hb
  · obtain rfl := Host.Outcome.next.inj h
    exact s.quiet_works.turns

/-- What a removal does before its tasks. -/
structure Removes (p : PortNo) (s : State) (w : Work) : Prop extends s.Identifies w.state where
  later : w.later = []
  binds : specials w.now = [] ∨ specials w.now = [.depart p]
  bindings : s.BindingsAgree → w.state.BindingsAgree ∧ (w.state.port p).state ≠ .bound

theorem removalMessage_ordinary (l : List ReaderWork) : ∀ x ∈ l.filterMap removalMessage, x.ordinary = true := by
  intro x hx
  obtain ⟨w, -, hw⟩ := List.mem_filterMap.1 hx
  cases w with
  | job j c k => cases hw
  | supply d j c k n => obtain rfl := Option.some.inj hw; rfl
  | sector e tag => obtain rfl := Option.some.inj hw; rfl

theorem answerNoCard_ordinary (l : List ReaderItem) :
    ∀ x ∈ l.filterMap fun i => answerNoCard i.work, x.ordinary = true := by
  intro x hx
  obtain ⟨i, -, hi⟩ := List.mem_filterMap.1 hx
  cases hw : i.work with
  | job j c k => rw [hw] at hi; cases hi
  | supply d j c k n => rw [hw] at hi; cases hi
  | sector e tag => rw [hw] at hi; obtain rfl := Option.some.inj hi; rfl

theorem State.Works.identifies {F : Nat → Prop} (h : s.Works F t) (hr : t.ring.held = s.ring.held) : s.Identifies t :=
  ⟨h.toEvolves, h.counts, hr⟩

theorem removeBound_removes {p : PortNo} (hb : (s.port p).state = .bound) : Removes p s (removeBound p s) := by
  unfold removeBound
  simp only
  split
  · rename_i hj
    have ho := removalMessage_ordinary ((s.port p).fifo.map (·.work)).eraseDups
    refine ⟨State.movePort_identifies fun _ => rfl, rfl, .inl (specials_of_ordinary ho), fun hs => ?_⟩
    simpa [hj] using (hs.2.2 p hb).2
  · rename_i j hj
    have h1 := State.setBoundPort_identifies (s := s) j none
    have h2 := (State.leaveWait_works (F := fun _ => True) (s.modJob j fun x => { x with boundPort := none })
      (.job j)).identifies rfl
    refine ⟨(h1.trans h2).trans (State.movePort_identifies fun _ => rfl), rfl, .inl ?_, fun hs => ⟨?_, ?_⟩⟩
    · refine specials_of_ordinary fun x hx => ?_
      simp only [State.andNow, List.mem_append] at hx
      rcases hx with hx | hx
      · exact removalMessage_ordinary _ x hx
      · split_ifs at hx
        · obtain rfl := List.mem_singleton.1 hx; rfl
        · cases hx
    · have hjp : (s.job j).boundPort = some p := (hs.1 p j).1 ⟨hb, hj⟩
      refine State.Bonds.release (j := j) ((State.bindingsAgree_iff s).1 hs) (fun q hq => ?_) (fun q hq => ?_) ?_ fun i hi => ?_
      · obtain rfl := Option.some.inj (hjp.symm.trans hq)
        simp [State.andNow, State.port_movePort, CardPort.emptied]
      · have hqp : q ≠ p := fun h => hq (h ▸ hjp)
        simp [State.andNow, State.port_movePort, hqp]
      · simp [State.andNow]
      · simp [State.andNow, State.job_modJob, hi]
    · simp [State.andNow, State.port_movePort, CardPort.emptied]


theorem removePresent_removes {p : PortNo} (hp : (s.port p).state = .present) : Removes p s (removePresent p s) := by
  have hb : (s.port p).state ≠ .bound := by rw [hp]; decide
  have hw {F : Nat → Prop} : s.Works F (s.modPort p fun x => { x with fifo := [], abandoned := x.outstanding.isSome }) :=
    State.modPort_works ⟨rfl, .rfl, fun _ => rfl⟩
  refine ⟨(hw (F := fun _ => True)).identifies rfl, rfl, .inr ?_, fun hs => ⟨(hw (F := fun _ => True)).bindingsAgree hs, ?_⟩⟩
  · change specials (((s.port p).fifo.filterMap fun i => answerNoCard i.work) ++ [.depart p]) = _
    rw [specials_append, specials_of_ordinary (answerNoCard_ordinary _)]
    rfl
  · simpa [removePresent, State.andNow] using hb

theorem Removes.still (p : PortNo) (hp : (s.port p).state ≠ .bound) : Removes p s s.still :=
  ⟨(State.Works.refl (F := fun _ => True) s).identifies rfl, rfl, .inl rfl, fun hs => ⟨hs, hp⟩⟩

theorem runDepart_removes {p : PortNo} (hp : (s.port p).state ≠ .bound) : Removes p s (runDepart p s) :=
  ⟨runDepart_identifies p s, rfl, .inl rfl, fun hs =>
    ⟨(runDepart_works (F := fun _ => True) hp).bindingsAgree hs, by
      simp [runDepart, State.still, State.port_movePort]⟩⟩

theorem removeCard_removes (p : PortNo) (s : State) : Removes p s (removeCard p s) := by
  unfold removeCard
  cases h : (s.port p).state with
  | empty => exact .still p (by rw [h]; decide)
  | mounting => exact runDepart_removes (by rw [h]; decide)
  | unreadable => exact runDepart_removes (by rw [h]; decide)
  | present => exact removePresent_removes h
  | bound => exact removeBound_removes h

/-- A removal, with no arrival or with one behind it. -/
theorem Removes.launch {p : PortNo} {w : Work} (h : Removes p s w) {ts : List Task}
    (hts : ts = [] ∨ (s.port p).enabled = true ∧ ∃ i, ts = [.arrive p i]) :
    (⟨w.state, w.now ++ ts, w.later⟩ : Work).Launch C s := by
  have hfree : ∀ x ∈ w.now ++ ts ++ w.later, ∀ j q, x ≠ .abandoned j q := by
    rintro x hx j q rfl
    have hmem : Task.abandoned j q ∈ specials (w.now ++ ts ++ w.later) := List.mem_filter.2 ⟨hx, rfl⟩
    rw [h.later, List.append_nil, specials_append, List.mem_append] at hmem
    rcases hmem with hm | hm
    · rcases h.binds with h | h <;> simp [h] at hm
    · rcases hts with rfl | ⟨-, i, rfl⟩
      · cases hm
      · simp [specials, Task.ordinary] at hm
  refine { h.toEvolves with
    needed := fun hs hn n ht => ?_
    counts := fun _ hs => ⟨h.counts hs, .inl hfree⟩
    bindings := fun hs => ?_ }
  · obtain ⟨y, hy, hst⟩ := ht
    exact absurd ⟨y, by rwa [State.slot?, h.held_eq] at hy, hst⟩ (hn n)
  · obtain ⟨hb, hp⟩ := h.bindings hs
    have hsp : specials (w.now ++ ts ++ w.later) = specials w.now ++ specials ts := by simp [h.later, specials]
    change w.state.Owes (specials (w.now ++ ts ++ w.later))
    rw [hsp]
    rcases hts with rfl | ⟨he, i, rfl⟩
    · rcases h.binds with h1 | h1 <;> rw [h1]
      · exact hb
      · exact ⟨hb, hp⟩
    · have he' : (w.state.port p).enabled = true := by rw [h.enabled]; exact he
      rcases h.binds with h1 | h1 <;> rw [h1]
      · exact ⟨hb, hp, he'⟩
      · exact ⟨hb, hp, rfl, he'⟩

theorem removal_turns {p : PortNo} (h : (if (s.port p).enabled then event (removeCard p s.quiet) else .next s.quiet) = .next t) :
    s.Turns C t := by
  split at h
  · have hl := (removeCard_removes p s.quiet).launch (C := C) (.inl rfl)
    rw [List.append_nil] at hl
    exact s.quiet_works.trans_turns (hl.event h)
  · obtain rfl := Host.Outcome.next.inj h
    exact s.quiet_works.turns

theorem identifyCard_launch {p : PortNo} (i : Identity) (hp : (s.port p).state ≠ .bound)
    (he : (s.port p).enabled = true) : (identifyCard p i s).Launch C s := by
  obtain ⟨h1, h2⟩ := identifyCard_tasks p i s
  have hid := identifyCard_identifies p i s
  have ho : ∀ x ∈ (identifyCard p i s).now ++ (identifyCard p i s).later, x.ordinary = true := by
    rw [h2, List.append_nil]; exact h1
  refine { hid.toEvolves with
    needed := fun hs hn n ht => ?_
    counts := fun _ hs => ⟨hid.counts hs, .inl fun x hx => ne_abandoned_of_ordinary (ho x hx)⟩
    bindings := fun hs => ?_ }
  · obtain ⟨y, hy, hst⟩ := ht
    exact absurd ⟨y, by rwa [State.slot?, hid.held_eq] at hy, hst⟩ (hn n)
  · rw [specials_of_ordinary ho]
    exact identifyCard_bindings i hs hp he

theorem cardAgain_turns {p : PortNo} {i : Identity} (he : (s.port p).enabled = true)
    (h : cardAgain p i s = .next t) : s.Turns C t := by
  unfold cardAgain at h
  split at h
  · obtain rfl := Host.Outcome.next.inj h
    exact .refl s
  · exact ((removeCard_removes p s).launch (.inr ⟨he, i, rfl⟩)).event h

theorem execCardIn_turns {p : PortNo} {m c : Nat} (h : execCardIn p m c s = .next t) : s.Turns C t := by
  unfold execCardIn at h
  split at h
  · obtain rfl := Host.Outcome.next.inj h
    exact s.quiet_works.turns
  · rename_i he
    replace he : (s.quiet.port p).enabled = true := by simpa using he
    split at h
    · rename_i hp
      have hr : Removes p s.quiet s.quiet.still := .still p (by rw [State.port_quiet, hp]; decide)
      exact s.quiet_works.trans_turns ((hr.launch (.inr ⟨he, _, rfl⟩)).event h)
    · rename_i hp
      exact s.quiet_works.trans_turns ((identifyCard_launch _ (by rw [State.port_quiet, hp]; decide) he).event h)
    · obtain rfl := Host.Outcome.next.inj h
      exact s.quiet_works.turns
    · exact s.quiet_works.trans_turns (cardAgain_turns he h)
    · exact s.quiet_works.trans_turns (cardAgain_turns he h)

/-! ### Responses of a reader -/

theorem State.clearReader_works {F : Nat → Prop} (s : State) (p : PortNo) : s.Works F (s.clearReader p) :=
  modPort_works ⟨rfl, .rfl, fun _ => rfl⟩

theorem State.popRead_works {F : Nat → Prop} (s : State) (p : PortNo) : s.Works F (s.popRead p) :=
  modPort_works ⟨rfl, .rfl, fun _ => rfl⟩

theorem State.storeBytes_works {F : Nat → Prop} (s : State) (n : Nat) (bytes : List Byte) :
    s.Works F (s.storeBytes n bytes) := s.setData_works n _

theorem deliverJob_fair (p : PortNo) (j : JobNo) (c k : Nat) (bytes : List Byte) (s : State) :
    (deliverJob p j c k bytes s).Fair s := by
  unfold deliverJob
  split
  · exact .still (.refl s)
  · rename_i n _
    simp only
    have h {F : Nat → Prop} : s.Works F ((s.storeBytes n bytes).modJob j fun x =>
        { x with live := x.live.feed ((s.slot? n).elim [] (·.wanted bytes)),
                 summed := x.summed + ((s.slot? n).elim [] (·.wanted bytes)).length }) := by
      refine .trans (s.storeBytes_works n bytes) ?_
      exact State.modJob_works ⟨rfl, rfl, id, id⟩
    split
    · exact .still h
    · exact h.fair (endUnit_fair j n c k _)

theorem deliverSupply_fair (p : PortNo) (d : DestNo) (j : JobNo) (c k n : Nat) (bytes : List Byte) (s : State) :
    (deliverSupply p d j c k n bytes s).Fair s := by
  unfold deliverSupply
  simp only
  have h {F : Nat → Prop} : s.Works F ((s.storeBytes n bytes).modLane d fun l =>
      if l.cardOnly ∧ l.current = some c then
        { l with sum := l.sum.map (·.feed ((s.slot? n).elim [] (·.wanted bytes))) } else l) := by
    refine .trans (s.storeBytes_works n bytes) ?_
    refine State.modLane_works ?_
    split_ifs <;> rfl
  split
  · exact .still h
  · exact .andNow (h.trans (State.stageSlot_works _ n (by simp))) (by simp [Task.ordinary])

theorem pieceDone_fair (p : PortNo) (r : ReaderRequest) (bytes : List Byte) (s : State) : (pieceDone p r bytes s).Fair s := by
  have h1 {F : Nat → Prop} : s.Works F ((s.clearReader p).popRead p) :=
    (s.clearReader_works p).trans (State.popRead_works _ p)
  have h2 {F : Nat → Prop} : s.Works F (raiseRetried p r ((s.clearReader p).popRead p)) := by
    unfold raiseRetried
    split
    · exact h1
    · exact h1.trans (State.raise_works _ _)
  refine h2.fair (?_ : (deliver p r.item.work bytes _).Fair _)
  unfold deliver
  split
  · exact deliverJob_fair ..
  · exact deliverSupply_fair ..
  · exact .andNow (.refl _) (by simp [Task.ordinary])

theorem pieceLost_fair (p : PortNo) (work : ReaderWork) (s : State) : (pieceLost p work s).Fair s := by
  unfold pieceLost
  split
  · exact s.refreshLamps_works.fair (runSourceFault_fair _ _ _)
  · exact .andNow (State.modPort_works ⟨rfl, .rfl, fun _ => rfl⟩) (by simp [Task.ordinary])
  · exact .andNow (.refl s) (by simp [Task.ordinary])

theorem attemptFailed_turns {p : PortNo} {r : ReaderRequest} {detail : Detail} (h : attemptFailed p r detail s = .next t) :
    s.Turns C t := by
  unfold attemptFailed at h
  split at h
  · obtain rfl := Host.Outcome.next.inj h
    exact (s.issueRead_works p _).turns
  · have hw : s.Works (fun _ => False) (((s.clearReader p).popRead p).raise (readerFault .cardFault p r.item.work detail)) :=
      ((s.clearReader_works p).trans (State.popRead_works _ p)).trans (State.raise_works _ _)
    exact hw.trans_turns ((pieceLost_fair p _ _).event h)

theorem onReader_turns {p : PortNo} {f : ReaderRequest → Host.Outcome State Fault Refusal}
    (hf : ∀ r t, f r = .next t → s.Turns C t) (h : onReader p s f = .next t) : s.Turns C t := by
  unfold onReader at h
  split at h
  · obtain rfl := Host.Outcome.next.inj h
    exact .refl s
  · split at h
    · obtain rfl := Host.Outcome.next.inj h
      exact .refl s
    · split at h
      · exact (Work.Fair.still (s.clearReader_works p)).event h
      · exact hf _ _ h

theorem execReaderData_turns {p : PortNo} {bytes : List Byte} (h : execReaderData p bytes s = .next t) : s.Turns C t := by
  refine s.quiet_works.trans_turns (onReader_turns (fun r t hr => ?_) h)
  split at hr
  · exact (pieceDone_fair p r bytes _).event hr
  · exact attemptFailed_turns hr

theorem execReaderError_turns {p : PortNo} (h : execReaderError p s = .next t) : s.Turns C t :=
  s.quiet_works.trans_turns (onReader_turns (fun _ _ hr => attemptFailed_turns hr) h)

theorem execReaderTimerExpiry_turns {p : PortNo} (h : execReaderTimerExpiry p s = .next t) : s.Turns C t := by
  unfold execReaderTimerExpiry at h
  split at h
  · have hw : s.Works (fun _ => False) (s.quiet.restartReader p) := s.quiet_works.trans (State.restartReader_works _ p)
    exact hw.trans_turns (onReader_turns (fun _ _ hr => attemptFailed_turns hr) h)
  · obtain rfl := Host.Outcome.next.inj h
    exact s.quiet_works.turns

/-! ### Responses of a drive, drives arriving and leaving -/

theorem State.clearDrive_works {F : Nat → Prop} (s : State) (d : DestNo) : s.Works F (s.clearDrive d) :=
  modDest_works_of_eq (fun _ => rfl) (fun _ => rfl) (fun _ => rfl) fun _ => rfl

theorem State.setLock_works {F : Nat → Prop} (s : State) (d : DestNo) (l : Option (Writer × Nat)) :
    s.Works F (s.setLock d l) :=
  modDest_works_of_eq (fun _ => rfl) (fun _ => rfl) (fun _ => rfl) fun _ => rfl

theorem State.setReadSum_works {F : Nat → Prop} (s : State) (d : DestNo) (u : Option SumUnit) :
    s.Works F (s.setReadSum d u) :=
  modDest_works_of_eq (fun _ => rfl) (fun _ => rfl) (fun _ => rfl) fun _ => rfl

theorem dataDone_fair (d : DestNo) (w : Writer) (c a n : Nat) (s : State) : (dataDone d w c a n s).Fair s := by
  unfold dataDone
  split
  · exact .still (.refl s)
  · rename_i x _
    split
    · simp only
      set s1 := (s.popItem d w).modCopy c d fun k => { k with written := k.written + 1 } with hs1
      set s2 := s1.modSlot n fun y => { y with pending := destErase d y.pending } with hs2
      have h1 {F : Nat → Prop} : s.Works F s1 := (s.modQueue_works d w _).trans (State.modCopy_works _ c d _)
      have h2 : s.Works (· = n) s2 := h1.trans (State.modSlot_works (fun _ => rfl) fun _ _ _ _ => .inr rfl)
      set s3 := (if (s1.copy? c d).any fun k => decide (k.written = unitCount x.length) then s2.setLock d (some (w, c))
        else s2) with hs3
      have h3 : s.Works (· = n) s3 := by
        rw [hs3]
        split_ifs
        · exact h2.trans (State.setLock_works _ _ _)
        · exact h2
      split
      · exact .andNow (h3.weaken fun m hm => by simp [hm]) (by simp [Task.ordinary])
      · rename_i hp
        refine .still (h3.without ?_)
        rintro _ rfl ⟨y, hy, -, hpe⟩
        simp [hy, hpe] at hp
    · exact .still (.refl s)

theorem trailerDone_fair (d : DestNo) (w : Writer) (c a : Nat) (s : State) : (trailerDone d w c a s).Fair s := by
  unfold trailerDone
  split
  · exact .still (.trans (.trans (.trans (s.modQueue_works d w _) (State.setLock_works _ _ _))
      (State.modCopy_works _ _ _ _)) (State.appendRead_works _ _ _))
  · exact .still (.refl s)

theorem State.formStep_works {F : Nat → Prop} (s : State) (d : DestNo) (c : Nat) (step : ReadStep) :
    s.Works F (s.formStep d c step) := setActive_works _ _ _

theorem decideVerify_fair (d : DestNo) (c : Nat) (sector : List Byte) (s : State) : (decideVerify d c sector s).Fair s := by
  unfold decideVerify
  split
  · simp only
    have h {F : Nat → Prop} (sum : Option ClosedSum) : s.Works F ((s.recordReadback c d sum).endRead d) :=
      (s.modCopy_works c d _).trans (State.endRead_works _ d)
    split
    · exact .andNow ((h _).trans (State.modCopy_works _ _ _ _)) (by simp [Task.ordinary])
    · exact (h _).fair (runFailAttempt_fair _ _ _ _)
  · exact .still (.refl s)

theorem verifyDone_fair (d : DestNo) (c : Nat) (step : ReadStep) (bytes : List Byte) (s : State) :
    (verifyDone d c step bytes s).Fair s := by
  unfold verifyDone
  split
  · exact .still ((s.setReadSum_works d _).trans (State.formStep_works _ _ _ _))
  · exact .still ((s.setReadSum_works d _).trans (State.formStep_works _ _ _ _))
  · exact decideVerify_fair d c bytes s
  · exact .still (.refl s)

theorem supplyDone_fair (e d : DestNo) (n : Nat) (bytes : List Byte) (s : State) : (supplyDone e d n bytes s).Fair s :=
  .andNow (((s.setData_works n _).trans (State.stageSlot_works _ n (by simp))).trans (State.endRead_works _ e))
    (by simp [Task.ordinary])

theorem readFailed_fair (d : DestNo) (detail : Detail) (s : State) : (readFailed d detail s).Fair s := by
  unfold readFailed
  split
  · rename_i c _ a _ _
    have h {F : Nat → Prop} : s.Works F
        (if a.step = .trailer then s.recordReadback c d ((s.dest d).rl.sum.map (·.close)) else s) := by
      split_ifs
      · exact s.modCopy_works c d _
      · exact .refl s
    exact (h.trans (State.endRead_works _ d)).fair (runFailAttempt_fair _ _ _ _)
  · exact (s.endRead_works d).fair (runCannotSupply_fair ..)
  · exact .still (.refl s)

theorem readDone_fair (d : DestNo) (cmd : DriveCmd) (bytes : List Byte) (s : State) : (readDone d cmd bytes s).Fair s := by
  unfold readDone
  split
  · exact readFailed_fair d _ s
  · split
    · exact verifyDone_fair ..
    · exact supplyDone_fair ..
    · exact .still (.refl s)

theorem doneFor_fair (d : DestNo) (bytes : List Byte) (r : DriveRequest) (s : State) : (doneFor d bytes r s).Fair s := by
  unfold doneFor
  split
  · exact dataDone_fair ..
  · exact trailerDone_fair ..
  · exact readDone_fair ..

theorem failFor_fair (d : DestNo) (detail : Detail) (r : DriveRequest) (s : State) : (failFor d detail r s).Fair s := by
  unfold failFor
  split
  · exact runFailAttempt_fair ..
  · exact runFailAttempt_fair ..
  · exact readFailed_fair ..

theorem retryFor_fair (d : DestNo) (r : DriveRequest) (s : State) : (retryFor d r s).Fair s := by
  have hw (w : Writer) : (writeRetry d w r s).Fair s := by
    unfold writeRetry
    split
    · exact .still (s.modQueue_works d w _)
    · exact failFor_fair d _ r s
  unfold retryFor
  split
  · exact hw _
  · exact hw _
  · unfold readRetry
    split
    · exact .still (.refl s)
    · split
      · exact .still (s.setActive_works d _)
      · exact readFailed_fair d _ s

theorem onResponse_turns {d : DestNo} {f : DriveRequest → State → Work} (hf : ∀ r s, (f r s).Fair s)
    (h : onResponse d s f = .next t) : s.Turns C t := by
  unfold onResponse at h
  split at h
  · obtain rfl := Host.Outcome.next.inj h
    exact .refl s
  · split at h
    · exact (Work.Fair.still (s.clearDrive_works d)).event h
    · exact ((s.clearDrive_works d).fair (hf _ _)).event h

theorem supplyMessages_ordinary (e : DestNo) (jobs : List ReadJob) : ∀ x ∈ supplyMessages e jobs, x.ordinary = true := by
  intro x hx
  obtain ⟨r, -, hr⟩ := List.mem_filterMap.1 hx
  cases r <;> simp only [Option.some.injEq, reduceCtorEq] at hr
  subst hr
  rfl

theorem lossAborts_ordinary (d : DestNo) (cs : List Nat) : ∀ x ∈ lossAborts d cs, x.ordinary = true := by
  intro x hx
  obtain ⟨c, -, hc⟩ := List.mem_flatMap.1 hx
  simp only [List.mem_cons, List.not_mem_nil, or_false] at hc
  rcases hc with rfl | rfl <;> rfl

theorem enterLost_fair (d : DestNo) (detail : Detail) {f : DestPort → DestPort} (ha : ∀ x, (f x).arb = x.arb)
    (hb : ∀ x, (f x).binding = x.binding) (hl : ∀ x, (f x).lane = x.lane) (s : State) :
    (enterLost d detail f s).Fair s := by
  have h {F : Nat → Prop} : s.Works F ((s.moveDest d fun x =>
      { f x with state := .lost, outstanding := none, abandoned := false, timer := false }).restartDrive d) := by
    refine .trans (State.moveDest_works ?_) (State.restartDrive_works _ d)
    exact .of_eq (by simp only [ha]) (by simp only [ha]) (hb _) (by simp only [hl])
  refine .andNow (.trans h ?_) fun x hx => ?_
  · exact State.modDest_works_of_eq (fun _ => rfl) (fun _ => rfl) (fun _ => rfl) fun _ => rfl
  · simp only [List.mem_append, List.mem_singleton] at hx
    rcases hx with (hx | hx) | rfl
    exacts [lossAborts_ordinary d _ x hx, supplyMessages_ordinary d _ x hx, rfl]

theorem execResponseTimerExpiry_turns {d : DestNo} (h : execResponseTimerExpiry d s = .next t) : s.Turns C t := by
  unfold execResponseTimerExpiry at h
  split at h
  · obtain rfl := Host.Outcome.next.inj h
    exact s.quiet_works.turns
  · split at h
    · exact s.quiet_works.trans_turns
        ((enterLost_fair d _ (f := id) (fun _ => rfl) (fun _ => rfl) (fun _ => rfl) _).event h)
    · obtain rfl := Host.Outcome.next.inj h
      exact ((s.quiet_works.trans (State.clearDrive_works _ d)).trans (State.restartDrive_works _ d)).turns

theorem execDriveOut_turns {d : DestNo} (h : execDriveOut d s = .next t) : s.Turns C t := by
  have hlost {t : State} (h : event (enterLost d .driveRemoved DestPort.driveGone s.quiet) = .next t) : s.Turns C t :=
    s.quiet_works.trans_turns ((enterLost_fair d _ (f := DestPort.driveGone) (fun _ => rfl) (fun _ => rfl) (fun _ => rfl) _).event h)
  unfold execDriveOut at h
  split at h
  · obtain rfl := Host.Outcome.next.inj h
    exact s.quiet_works.turns
  · obtain rfl := Host.Outcome.next.inj h
    refine (State.Works.trans (s.quiet_works.trans (State.clearDrive_works _ d)) ?_).turns
    exact State.moveDest_works (.of_eq rfl rfl rfl rfl)
  · exact hlost h
  · exact hlost h
  · split at h
    · obtain rfl := Host.Outcome.next.inj h
      exact (s.quiet_works.trans (State.moveDest_works (.of_eq rfl rfl rfl rfl))).turns
    · obtain rfl := Host.Outcome.next.inj h
      exact (s.quiet_works.trans (State.modDest_works (.of_eq rfl rfl rfl rfl))).turns

theorem State.firstIn_works {F : Nat → Prop} (s : State) (d : DestNo) : s.Works F (s.firstIn d) := by
  unfold State.firstIn
  split
  · refine .trans ?_ (State.restartDrive_works _ d)
    exact State.modDest_works_of_eq (fun _ => rfl) (fun _ => rfl) (fun _ => rfl) fun _ => rfl
  · exact .refl s

theorem State.recordDrive_works {F : Nat → Prop} (s : State) (d : DestNo) (c : Nat) : s.Works F (s.recordDrive d c) := by
  unfold State.recordDrive
  split
  · exact .refl s
  · exact State.moveDest_works (.of_eq rfl rfl rfl rfl)

theorem replaceDrive_fair (d : DestNo) (c : Nat) (s : State) : (replaceDrive d c s).Fair s := by
  have h := enterLost_fair d .driveRemoved (f := id) (fun _ => rfl) (fun _ => rfl) (fun _ => rfl) s
  refine ⟨h.works.weaken fun n hn => ?_, fun x hx => ?_, h.later⟩
  · simp only [replaceDrive, freed_append, List.mem_append]; exact .inl hn
  · simp only [replaceDrive, List.mem_append, List.mem_singleton] at hx
    rcases hx with hx | rfl
    exacts [h.now x hx, rfl]

theorem execDriveIn_turns {d : DestNo} {c : Nat} (h : execDriveIn d c s = .next t) : s.Turns C t := by
  have hw {F : Nat → Prop} : s.Works F (s.quiet.firstIn d) := s.quiet_works.trans (State.firstIn_works _ d)
  have huse {t : State} (h : (if (s.dest d).capacity = some c then .next (s.quiet.firstIn d)
      else event (replaceDrive d c (s.quiet.firstIn d))) = Host.Outcome.next t) : s.Turns C t := by
    split at h
    · obtain rfl := Host.Outcome.next.inj h
      exact hw.turns
    · exact hw.trans_turns ((replaceDrive_fair d c _).event h)
  unfold execDriveIn at h
  simp only at h
  split at h
  · obtain rfl := Host.Outcome.next.inj h
    refine (hw.trans ?_).turns
    exact State.moveDest_works (.of_eq rfl rfl rfl rfl)
  · obtain rfl := Host.Outcome.next.inj h
    exact (hw.trans (State.recordDrive_works _ d c)).turns
  · obtain rfl := Host.Outcome.next.inj h
    exact (hw.trans (State.recordDrive_works _ d c)).turns
  · exact huse h
  · exact huse h

end Sys2Proof.Machine

/-! The requests, the link's own commands and the two resets; then every command, and the invariants of the blocks. -/

namespace Sys2Proof.Machine

open Table

variable {C : Prop} {s t : State}

/-! ### Requests that name a job or a clip -/

theorem onJob_turns {n : Nat} {f : JobNo → Ruling} (h : ∀ j, (f j).Turns C s) : (onJob n s f).Turns C s := by
  unfold onJob
  split
  · trivial
  · split
    · trivial
    · exact h _

theorem onClip_turns {c : Nat} {f : Clip → Ruling} (h : ∀ x, (f x).Turns C s) : (onClip c s f).Turns C s := by
  unfold onClip
  split
  · trivial
  · split
    · trivial
    · exact h _

/-- A request ruled on in a state with its entry taken. -/
theorem quiet_request_turns {tag : Byte} {code : Nat} {owner : EntryNo → State → Ruling}
    (ho : ∀ e s, (owner e s).Turns C s) (h : s.quiet.request tag code owner = .next t) : s.Turns C t :=
  s.quiet_works.trans_turns (State.request_turns (fun e => ho e _) h)

theorem ruleClipQuery_turns (key : ClipKey) (s : State) : (ruleClipQuery key s).Turns C s := by
  unfold ruleClipQuery
  split
  · exact onClip_turns fun _ => .refl s
  · simp only
    split
    · trivial
    · exact .refl s

theorem excludeClip_fair (c : Nat) (x : Clip) (s : State) : (excludeClip c x s).Fair s := by
  have h : s.Withdraws ((s.setClip c { x with state := .excluded, prior := some x.state }).abortCopies c) :=
    .trans (.of_held (s.setClip_works c _) rfl) (State.abortCopies_withdraws _ c)
  exact .withdraw h (by simp [Task.ordinary]) (laneGo_ordinary _)

theorem ruleClipExclude_turns (c : Nat) (s : State) : (ruleClipExclude c s).Turns C s := by
  refine onClip_turns fun x => ?_
  split
  case h_1 => exact (excludeClip_fair c x s).launch
  case h_2 => exact (excludeClip_fair c x s).launch
  case h_3 => exact (excludeClip_fair c x s).launch
  case h_4 => exact (excludeClip_fair c x s).launch
  all_goals trivial

theorem readAgain_fair (j : JobNo) (s : State) : (readAgain j s).Fair s := by
  unfold readAgain
  simp only
  split
  · exact .andNow ((s.standAtFirst_works j).trans (State.moveJob_works ⟨rfl, rfl, nofun, nofun⟩)) (by simp [Task.ordinary])
  · exact .still ((s.standAtFirst_works j).trans (State.moveJob_works ⟨rfl, rfl, nofun, nofun⟩))

theorem retryClip_fair (c : Nat) (x : Clip) (s : State) : (retryClip c x s).Fair s := by
  have h {F : Nat → Prop} :
      s.Works F (s.setClip c { x with state := .listed, copies := Vector.replicate 4 none }).refreshLamps :=
    (s.setClip_works c _).trans (State.refreshLamps_works _)
  unfold retryClip
  simp only
  split
  · exact h.fair (readAgain_fair _ _)
  · exact h.fair (readAgain_fair _ _)
  all_goals exact .still h

theorem ruleClipRetry_turns (c : Nat) (s : State) : (onClip c s fun x =>
    if x.state = .sourceFault then .take [] (retryClip c x s) else .refuse .wrongState).Turns C s := by
  refine onClip_turns fun x => ?_
  split
  · exact (retryClip_fair c x s).launch
  · trivial

theorem addCopy_fair (c : Nat) (d : DestNo) (x : Clip) (s : State) : (addCopy c d x s).Fair s :=
  ⟨(s.setCopy_works c d _).trans (State.joinLane_works _ c d), by simp [addCopy, Task.ordinary],
    by simp [addCopy, Task.ordinary]⟩

theorem ruleCopyAdd_turns (c n : Nat) (s : State) : (ruleCopyAdd c n s).Turns C s := by
  unfold ruleCopyAdd
  split
  · trivial
  · refine onClip_turns fun x => ?_
    split_ifs
    · trivial
    · trivial
    · trivial
    · exact (addCopy_fair c _ x s).launch

/-! ### Bindings of destinations -/

theorem State.endBinding_works {F : Nat → Prop} (s : State) (d : DestNo) : s.Works F (s.endBinding d) := by
  refine .trans (.trans (s.withdrawJobs_works ReadJob.isSupply d) ?_) (State.resetArbiter_works _ d)
  exact State.modDest_works_of_eq (fun _ => rfl) (fun _ => rfl) (fun _ => rfl) fun _ => rfl

theorem announceState_ordinary (d : DestNo) (a b : DestState) : ∀ x ∈ announceState d a b, x.ordinary = true := by
  unfold announceState
  split <;> simp [Task.ordinary]

theorem rebind_fair (d : DestNo) {b : Option Binding} (hb : ∀ x, b = some x → x.Sound) (st : DestState) (s : State) :
    (rebind d b st s).Fair s := by
  refine .andNow ((s.endBinding_works d).trans (State.modDest_works ⟨fun ⟨h1, _, h3⟩ => ⟨h1, hb, h3⟩, rfl⟩)) fun x hx => ?_
  rcases List.mem_append.1 hx with hx | hx
  exacts [supplyMessages_ordinary d _ x hx, announceState_ordinary d _ _ x hx]

/-- A binding that fits its drive stands within its rules from the start. -/
theorem Binding.Sound.of_fits {b : Binding} {capacity : Nat} (h : b.fits capacity = true)
    (hu : b.nextUnit = b.firstUnit) (ht : b.nextTrailer = b.firstTrailer) : b.Sound := by
  simp only [Binding.fits, Bool.and_eq_true, decide_eq_true_eq] at h
  obtain ⟨⟨-, hc⟩, hs⟩ := h
  exact ⟨hu.ge, hu ▸ hc.trans b.ceiling_le, ht.ge, ht ▸ hs⟩

theorem ruleDestBind_turns (n : Nat) {b : Binding} (hu : b.nextUnit = b.firstUnit) (ht : b.nextTrailer = b.firstTrailer)
    (s : State) : (ruleDestBind n b s).Turns C s := by
  unfold ruleDestBind
  split
  · trivial
  · split_ifs with _ _ _ hf
    · trivial
    · trivial
    · trivial
    · trivial
    · refine (rebind_fair _ (fun x hx => ?_) _ s).launch
      obtain rfl := Option.some.inj hx
      exact .of_fits (by simpa using hf) hu ht

theorem ruleDestUnbind_turns (n : Nat) (s : State) : (ruleDestUnbind n s).Turns C s := by
  unfold ruleDestUnbind
  split
  · trivial
  · split
    · trivial
    · split
      · trivial
      · split
        · trivial
        · exact (rebind_fair _ (b := none) (fun _ hx => by cases hx) _ s).launch

theorem ruleDestQuery_turns (n : Nat) (s : State) : (ruleDestQuery n s).Turns C s := by
  unfold ruleDestQuery
  split
  · trivial
  · exact .refl s

/-! ### The fault unit's and the plan's requests -/

theorem State.setFaults_works {F : Nat → Prop} (s : State) {u : FaultUnit} (h : s.faults.Sound → u.Sound) :
    s.Works F { s with faults := u } :=
  .of_tame (fun _ => .refl _) (fun _ => .refl _) (fun _ => .refl _) rfl rfl rfl h id id id

theorem ruleFaultClear_turns (n : Nat) (s : State) : (ruleFaultClear n s).Turns C s := by
  unfold ruleFaultClear
  split
  · trivial
  · exact (s.setFaults_works (·.clear _)).turns

theorem ruleFaultRoute_turns (n r : Nat) (s : State) : (ruleFaultRoute n r s).Turns C s := by
  unfold ruleFaultRoute
  split
  · exact (s.setFaults_works (·.setRoute _ _)).turns
  · trivial

theorem State.setPlan_turns (s : State) {p : Plan} (h : s.plan.lock = false) : s.Turns C { s with plan := p } where
  enabled _ := rfl
  plan hl := by rw [h] at hl; cases hl
  faults := id
  dests := id
  ring := id
  link := id
  manifest := id
  clips := id
  loading := id
  counts _ := id
  needed _ := id
  bindings := id

theorem rulePlanSet_turns (n a b c d : Nat) (s : State) : (rulePlanSet n a b c d s).Turns C s := by
  unfold rulePlanSet
  split
  · trivial
  · split
    · trivial
    · split
      · trivial
      · simp only
        split
        · trivial
        · exact s.setPlan_turns (by simpa using ‹¬s.plan.lock = true›)

theorem rulePlanLock_turns (s : State) : (rulePlanLock s).Turns C s := by
  unfold rulePlanLock
  split
  · exact .refl s
  · split
    · trivial
    · exact s.setPlan_turns (by simpa using ‹¬s.plan.lock = true›)

/-! ### Jobs -/

theorem State.freeJobRecord_spec {j : JobNo} (h : s.freeJobRecord = some j) : (s.job j).state = .free := by
  simpa using List.find?_some h

theorem State.openJob_turns {j : JobNo} {p : PortNo} (hj : (s.job j).state = .free) (hp : (s.port p).state = .present)
    (he : (s.port p).enabled = true) : s.Turns C (s.openJob j p) := by
  have hjob (i : JobNo) : (s.openJob j p).job i = if i = j then
      { Job.free with state := .loading, identity := (s.port p).identity, boundPort := some p } else s.job i := by
    unfold State.openJob
    rw [State.job_movePort, State.job_moveJob]
  have hport (q : PortNo) : (s.openJob j p).port q = if q = p then
      { s.port p with state := .bound, boundJob := some j, released := none, lamp := ((s.openJob j p).port p).lamp }
      else s.port q := by
    unfold State.openJob
    rw [State.port_movePort]
    split_ifs with h
    · rw [State.port_movePort, if_pos rfl]; rfl
    · rfl
  have hslot : (s.openJob j p).ring = s.ring := rfl
  refine ⟨⟨fun q => ?_, fun _ => rfl, id, id, id, fun h => (h.queueNotice _).queueNotice _, id, id, fun h i => ?_⟩,
    fun _ h => ⟨h.1, fun r => ?_, fun i => ?_⟩, fun _ h n => ?_, fun h => ?_⟩
  · rw [hport]; split_ifs with hq
    · subst hq; rfl
    · rfl
  · rw [hjob]; split_ifs
    · exact fun _ => rfl
    · exact h i
  · rw [hslot, ← h.2.1 r]
    cases r with
    | lane d => rfl
    | job i =>
      simp only [State.heldCount, hjob]
      split_ifs with hi
      · subst hi; exact (h.2.2 i hj).symm
      · rfl
  · rw [hjob]; split_ifs
    · exact nofun
    · exact h.2.2 i
  · exact h n
  · refine h.bind (p := p) (j := j) (by rw [hp]; decide) (h.2.1 j hj) ?_ ?_ (fun q hq => ?_) fun i hi => ?_
    · rw [hport, if_pos rfl]; exact ⟨rfl, rfl, he⟩
    · rw [hjob, if_pos rfl]; exact ⟨rfl, by simp⟩
    · rw [hport, if_neg hq]; exact ⟨rfl, rfl, rfl⟩
    · rw [hjob, if_neg hi]; exact ⟨rfl, rfl⟩

theorem ruleJobOpen_turns (n : Nat) (s : State) : (ruleJobOpen n s).Turns C s := by
  unfold ruleJobOpen
  split
  · trivial
  · split
    · trivial
    · rename_i p he
      split
      case h_5 hp =>
        split
        · trivial
        · split
          · trivial
          · exact State.openJob_turns (State.freeJobRecord_spec ‹_›) hp (by simpa using he)
      all_goals trivial

theorem State.addClips_works {F : Nat → Prop} (s : State) (j : JobNo) (ns : List Nat) (es : List ClipEntry) :
    s.Works F (s.addClips j ns es) := by
  refine .trans (.foldl _ (fun s (z : Nat × ClipEntry) => s.setClip_works z.1 _) _ s) (State.modJob_works ?_)
  exact ⟨rfl, rfl, id, id⟩

theorem ruleClipAdd_turns (n : Nat) (es : List ClipEntry) (s : State) : (ruleClipAdd n es s).Turns C s := by
  unfold ruleClipAdd
  split
  · trivial
  · split
    · trivial
    · split
      · trivial
      · split
        · trivial
        · split
          · trivial
          · simp only
            split
            · trivial
            · exact (s.addClips_works _ _ es).turns

theorem startJob_fair {j : JobNo} (q : Nat) (u : Bool) (s : State) : (startJob j q u s).Fair s := by
  unfold startJob
  simp only
  have h {F : Nat → Prop} :
      s.Works F (s.modJob j fun x => { x with snapshot := some s.plan.snapshot, quota := q, urgent := u }) :=
    State.modJob_works ⟨rfl, rfl, id, id⟩
  split
  · refine .andNow (.trans (h.trans (State.standAtFirst_works _ j)) (State.moveJob_works ?_)) (by simp [Task.ordinary])
    exact ⟨rfl, rfl, nofun, nofun⟩
  · exact .andNow h (by simp [Task.ordinary])

theorem ruleJobStart_turns (n q u : Nat) (s : State) : (ruleJobStart n q u s).Turns C s := by
  refine onJob_turns fun j => ?_
  split_ifs
  · trivial
  · trivial
  · trivial
  · exact (startJob_fair _ _ s).launch

theorem ruleJobPause_turns (n : Nat) (s : State) : (ruleJobPause n s).Turns C s := by
  refine onJob_turns fun j => ?_
  split
  case h_1 => exact (s.askPause_works _ j).turns
  case h_2 => exact (State.modJob_works ⟨rfl, rfl, id, id⟩).turns
  case h_3 => exact (State.modJob_works ⟨rfl, rfl, id, id⟩).turns
  all_goals trivial

theorem resumePaused_fair (j : JobNo) (s : State) : (resumePaused j s).Fair s := by
  unfold resumePaused
  split
  · exact .andNow (State.moveJob_works ⟨rfl, rfl, nofun, nofun⟩) (by simp [Task.ordinary])
  · exact .andNow (.refl s) (by simp [Task.ordinary])

theorem ruleJobResume_turns (n : Nat) (s : State) : (ruleJobResume n s).Turns C s := by
  refine onJob_turns fun j => ?_
  split
  case h_1 => exact (resumePaused_fair j s).launch
  case h_2 =>
    split
    · exact (State.modJob_works ⟨rfl, rfl, id, id⟩).turns
    · exact .refl s
  case h_3 =>
    split
    · exact (State.modJob_works ⟨rfl, rfl, id, id⟩).turns
    · exact .refl s
  all_goals trivial

/-- An abandonment: the job's bound port is given up at once, and its slots are freed before its record. -/
theorem abandonJob_launch (j : JobNo) (s : State) : (abandonJob j s).Launch C s := by
  unfold abandonJob
  simp only
  set s1 := (s.job j).clips.foldl (fun s c => s.abortCopies c) s with hs1
  have h1 : s.Withdraws s1 := .foldl _ (fun s c => s.abortCopies_withdraws c) _ s
  set s2 := (s.job j).boundPort.elim s1 fun p => s1.withdrawReads (ReaderWork.ofJob j) p with hs2
  have h2 : s.Withdraws s2 := by
    rw [hs2]
    cases (s.job j).boundPort with
    | none => exact h1
    | some p => exact h1.trans (.of_held (State.withdrawReads_works _ _ p) rfl)
  have h3 : s.Withdraws (s2.leaveWait (.job j)) := h2.trans (.of_held (State.leaveWait_works _ _) rfl)
  set s3 := (s2.leaveWait (.job j)).modJob j fun x => { x with boundPort := none } with hs3
  have hid : (s2.leaveWait (.job j)).Identifies s3 := State.setBoundPort_identifies j none
  have hsp : specials ([.freeSlots ((s3.ring.held.filter fun z => decide (z.2.owner = .job j)
      || (s3.orphansSince s).contains z.1).map Prod.fst), .abandoned j (s.job j).boundPort]
        ++ allDests.map .laneGo) = [.abandoned j (s.job j).boundPort] := by
    rw [specials_append, specials_of_ordinary (laneGo_ordinary _)]
    rfl
  refine { h3.works.toEvolves.trans hid.toEvolves with
    needed := fun hs hn n ht => ?_
    counts := fun _ hs => ⟨hid.counts (h3.works.counts hs), .inr ⟨[_], j, _, _, rfl, ?_, ?_, fun n hn => ?_⟩⟩
    bindings := fun hs => ?_ }
  · have ht' : (s2.leaveWait (.job j)).Needless n := by
      obtain ⟨y, hy, hst⟩ := ht
      exact ⟨y, by rwa [State.slot?, hid.held_eq] at hy, hst⟩
    have ho : n ∈ s3.orphansSince s := (h3.orphans.needs hs n ht').resolve_left (hn n)
    have hm := State.orphansSince_held ho
    obtain ⟨⟨m, y⟩, hmy, rfl⟩ := List.mem_map.1 hm
    have : m ∈ (s3.ring.held.filter fun z => decide (z.2.owner = .job j) || (s3.orphansSince s).contains z.1).map Prod.fst :=
      List.mem_map.2 ⟨(m, y), List.mem_filter.2 ⟨hmy, by simp [ho]⟩, rfl⟩
    simp only [List.cons_append, freed_cons, Task.frees_freeSlots]
    exact List.mem_append_left _ this
  · simp only [List.cons_append, List.nil_append, List.mem_cons]
    rintro x (rfl | hx)
    exacts [rfl, laneGo_ordinary _ x hx]
  · rw [hs3]; simp
  · obtain ⟨y, hy, hyo⟩ := hn
    have hmy : (n, y) ∈ s3.ring.held := mem_of_find hy
    simp only [freed_cons, Task.frees_freeSlots, freed_nil, List.append_nil]
    exact List.mem_map.2 ⟨(n, y), List.mem_filter.2 ⟨hmy, by simp [hyo]⟩, rfl⟩
  · change s3.Owes (specials _)
    rw [hsp]
    have hb := h3.works.bonds ((State.bindingsAgree_iff s).1 hs)
    have hupd : Function.update (fun i => (s3.job i).boundPort) j (s.job j).boundPort = fun i => (s.job i).boundPort := by
      funext i
      by_cases hi : i = j
      · subst hi; simp
      · rw [Function.update_of_ne hi, hs3, State.job_modJob, if_neg hi, (h3.works.jobs i).1]
    change s3.Bonds _
    rw [hupd]
    refine ⟨hb.1, fun i hi => hb.2.1 i ?_, hb.2.2⟩
    rw [hs3, State.job_modJob] at hi
    split_ifs at hi with h
    · subst h; exact hi
    · exact hi

/-! ### JOB_CLOSE -/

theorem State.copy_some_iff {c : Nat} {d : DestNo} {k : Copy} :
    s.copy? c d = some k ↔ ∃ x, s.clip? c = some x ∧ x.copies[d] = some k := by
  simp [State.copy?, Option.bind_eq_some_iff]

theorem Clip.mem_destsWith {x : Clip} {p : Copy → Bool} {d : DestNo} :
    d ∈ x.destsWith p ↔ ∃ k, x.copies[d] = some k ∧ p k = true := by
  have : d ∈ allDests := by fin_cases d <;> decide
  simp [Clip.destsWith, this, Option.any_eq_true]

/-- No clip of the job has a live copy (R10). -/
theorem State.hasLiveCopy_eq_false (s : State) (j : JobNo) :
    s.hasLiveCopy j = false ↔ ∀ c ∈ (s.job j).clips, ∀ (d : DestNo) (k : Copy), s.copy? c d = some k → k.state.live = false := by
  have key (x : Clip) : (x.destsWith (·.state.live)).isEmpty = true
      ↔ ∀ (d : DestNo) (k : Copy), x.copies[d] = some k → k.state.live = false := by
    rw [List.isEmpty_iff, List.eq_nil_iff_forall_not_mem]
    refine forall_congr' fun d => ?_
    rw [Clip.mem_destsWith]
    simp
  simp only [State.hasLiveCopy, List.any_eq_false]
  refine forall₂_congr fun c _ => ?_
  cases h : s.clip? c with
  | none => simp [State.copy_some_iff, h]
  | some x => simpa [State.copy_some_iff, h] using key x

/-- The two normal ends, as R10 states them. -/
theorem State.mayClose_iff (s : State) (j : JobNo) : s.mayClose j = true ↔ MayClose s j := by
  unfold State.mayClose MayClose
  cases h : (s.job j).state with
  | loading =>
    simp only [Bool.not_eq_true', List.any_eq_false, true_and, reduceCtorEq, false_and, or_false]
    refine forall₂_congr fun c _ => ?_
    cases s.clip? c <;> simp
  | released => simp [State.hasLiveCopy_eq_false]
  | _ => simp

theorem ruleJobClose_turns {n : Nat} (hC : C → ClosableOwnNone s) : (ruleJobClose n s).Turns C s := by
  refine onJob_turns fun j => ?_
  split
  · rename_i hm
    refine { s.freeJob_evolves j _ with
      counts := fun hc hs => State.freeJob_counts hs fun n => ?_
      needed := fun _ hn n ht => ?_
      bindings := fun hs => State.freeJob_bindings (b := fun i => (s.job i).boundPort) hs fun _ _ => rfl }
    · rintro ⟨y, hy, hyo⟩
      exact hC hc j ((s.mayClose_iff j).1 hm) n y (mem_of_find hy) hyo
    · obtain ⟨y, hy, hst⟩ := ht
      rw [State.slot?, (State.freeJob_spec s j _).1] at hy
      exact hn n ⟨y, hy, hst⟩
  · trivial

/-! ### MANIFEST_READ -/

/-- An effect that need be ordinary only but for the manifest. -/
theorem State.Works.of_blank {F : Nat → Prop}
    (h : State.Works F { s with manifest := Manifest.reset } { t with manifest := Manifest.reset })
    (hm : s.manifest.Sound → t.manifest.Sound) : s.Works F t where
  enabled := h.enabled
  plan := h.plan
  faults := h.faults
  dests := h.dests
  ring := h.ring
  link := h.link
  manifest := hm
  clips := h.clips
  loading := h.loading
  ports := h.ports
  jobs := h.jobs
  counts := h.counts
  owns := h.owns
  needs := h.needs

theorem State.Works.blank {F : Nat → Prop} (h : s.Works F t) :
    State.Works F { s with manifest := Manifest.reset } { t with manifest := Manifest.reset } where
  enabled := h.enabled
  plan := h.plan
  faults := h.faults
  dests := h.dests
  ring := h.ring
  link := h.link
  manifest := id
  clips := h.clips
  loading := h.loading
  ports := h.ports
  jobs := h.jobs
  counts := h.counts
  owns := h.owns
  needs := h.needs

theorem State.enqueueRecord_blank {F : Nat → Prop} (s : State) (c : Nat) :
    State.Works F { s with manifest := Manifest.reset } { s.enqueueRecord c with manifest := Manifest.reset } := by
  unfold State.enqueueRecord
  split
  · exact .refl _
  · exact State.setClip_works _ _ _

theorem State.enqueueRecord_length (s : State) (c : Nat) :
    (s.enqueueRecord c).manifest.queue.length ≤ s.manifest.queue.length + 1 := by
  unfold State.enqueueRecord
  split <;> simp

theorem State.enterDeferred_spec {F : Nat → Prop} (s : State) :
    State.Works F { s with manifest := Manifest.reset } { s.enterDeferred with manifest := Manifest.reset }
      ∧ s.enterDeferred.manifest.queue.length ≤ s.manifest.queue.length + 1 := by
  unfold State.enterDeferred
  split
  · exact ⟨.refl _, by omega⟩
  · rename_i c rest _
    exact ⟨State.enqueueRecord_blank { s with manifest := { s.manifest with deferred := rest } } c,
      State.enqueueRecord_length { s with manifest := { s.manifest with deferred := rest } } c⟩

/-- Deferred clips entering the queue: at most as many as places were freed. -/
theorem State.refill_spec {F : Nat → Prop} (n : Nat) (s : State) :
    State.Works F { s with manifest := Manifest.reset } { s.refill n with manifest := Manifest.reset }
      ∧ (s.refill n).manifest.queue.length ≤ s.manifest.queue.length + n := by
  induction n generalizing s with
  | zero => exact ⟨.refl _, le_rfl⟩
  | succ n ih =>
    obtain ⟨h1, h2⟩ := ih s.enterDeferred
    obtain ⟨g1, g2⟩ := State.enterDeferred_spec (F := F) s
    rw [State.refill]
    exact ⟨g1.trans h1, by omega⟩

theorem takeRecord_works {F : Nat → Prop} (s : State) (r : Record) : s.Works F (s.takeRecord r) := by
  unfold State.takeRecord
  split
  · exact .refl s
  · exact s.modClip_works _ _

theorem takeRecord_manifest (s : State) (r : Record) : (s.takeRecord r).manifest = s.manifest := by
  unfold State.takeRecord
  split <;> simp

theorem foldl_takeRecord_manifest (l : List Record) (s : State) : (l.foldl State.takeRecord s).manifest = s.manifest := by
  induction l generalizing s with
  | nil => rfl
  | cons r l ih => rw [List.foldl_cons, ih, takeRecord_manifest]

theorem ruleManifestRead_turns (n : Nat) (s : State) : (ruleManifestRead n s).Turns C s := by
  unfold ruleManifestRead
  simp only
  set records := s.manifest.queue.take (min n 8) with hrec
  set s1 : State := { s with manifest := { s.manifest with queue := s.manifest.queue.drop records.length } } with hs1
  have h1 {F : Nat → Prop} : s1.Works F (records.foldl State.takeRecord s1) := .foldl _ takeRecord_works _ _
  obtain ⟨h2, hlen⟩ := State.refill_spec (F := fun _ => False) records.length (records.foldl State.takeRecord s1)
  have hw : s.Works (fun _ => False) ((records.foldl State.takeRecord s1).refill records.length) := by
    refine .of_blank ?_ fun hm => hlen.trans ?_
    · exact State.Works.trans (t := { s1 with manifest := Manifest.reset }) (.refl _) (h1.blank.trans h2)
    · rw [foldl_takeRecord_manifest]
      have hle : records.length ≤ s.manifest.queue.length := by rw [hrec, List.length_take]; omega
      simp only [hs1, List.length_drop]
      have : s.manifest.queue.length ≤ manifestPlaces := hm
      omega
  exact (Work.Fair.andNow (hw.weaken fun _ h => h.elim) (by simp [Task.ordinary])).launch

/-! ### The resets -/

theorem Ring.reset_sound : Ring.reset.Sound := ⟨rfl, by simp [Ring.reset]⟩

/-- A state as either reset leaves it but for its card ports. -/
theorem State.countsAgree_of_reset (hr : t.ring = Ring.reset) (hj : ∀ j, t.job j = Job.free)
    (hd : ∀ d, (t.dest d).lane = Lane.empty) : t.CountsAgree := by
  refine ⟨hr ▸ Ring.reset_sound, fun r => ?_, fun j _ => by rw [hj]; rfl⟩
  rw [hr]
  cases r with
  | job j => simp only [State.heldCount, hj]; rfl
  | lane d => simp only [State.heldCount, hd]; rfl

theorem State.needed_of_reset (hr : t.ring = Ring.reset) (n : Nat) : ¬t.Needless n := by
  rintro ⟨y, hy, -⟩
  rw [State.slot?, hr] at hy
  cases hy

theorem State.bindingsAgree_of_reset (hj : ∀ j, t.job j = Job.free) (hp : ∀ p, (t.port p).state ≠ .bound) :
    t.BindingsAgree :=
  ⟨fun p j => by simp [hp, hj, Job.free], fun j _ => by rw [hj]; rfl, fun p hb => absurd hb (hp p)⟩

theorem FaultUnit.softReset_sound (u : FaultUnit) : u.softReset.Sound := by
  refine ⟨?_, nofun⟩
  simp only [FaultUnit.softReset, FaultUnit.formAlarm, FaultUnit.reset, FaultUnit.flag]
  simp

theorem FaultUnit.reset_sound : FaultUnit.reset.Sound := FaultUnit.softReset_sound FaultUnit.reset

@[simp] theorem State.job_softReset (tag : Byte) (s : State) (j : JobNo) : (s.softReset tag).job j = Job.free := by
  simp [State.job, State.softReset]

@[simp] theorem State.dest_softReset (tag : Byte) (s : State) (d : DestNo) :
    (s.softReset tag).dest d = (s.dest d).softReset := by
  simp [State.dest, State.softReset]

@[simp] theorem State.port_softReset (tag : Byte) (s : State) (p : PortNo) :
    (s.softReset tag).port p = (s.port p).softReset := by
  simp [State.port, State.softReset]

theorem CardPort.softReset_enabled (x : CardPort) : x.softReset.enabled = x.enabled := by
  unfold CardPort.softReset
  simp only
  split_ifs <;> rfl

theorem CardPort.softReset_bound {x : CardPort} (h : x.softReset.state = .bound) : x.enabled = false ∧ x.state = .bound := by
  unfold CardPort.softReset at h
  simp only at h
  split_ifs at h with h1 h2
  · exact ⟨by simpa using h1, h⟩
  · simp [h2] at h

theorem State.softReset_turns (tag : Byte) (s : State) : s.Turns C (s.softReset tag) where
  enabled p := by rw [State.port_softReset, CardPort.softReset_enabled]
  plan _ := rfl
  faults _ := FaultUnit.softReset_sound _
  dests h d := by
    rw [State.dest_softReset]
    exact ⟨Arbiter.reset_sound, (h d).2.1, Nat.zero_le _⟩
  ring _ := Ring.reset_sound
  link _ := by simp [State.softReset, Link.softReset, Link.Sound, Link.noticesQueued, replyFrame, noticePlaces]
  manifest _ := by simp [State.softReset, Manifest.reset, Manifest.Sound]
  clips _ := rfl
  loading _ j h := by rw [State.job_softReset] at h; cases h
  counts _ _ := State.countsAgree_of_reset rfl (State.job_softReset tag s) fun d => by rw [State.dest_softReset]; rfl
  needed _ _ := State.needed_of_reset rfl
  bindings h := State.bindingsAgree_of_reset (State.job_softReset tag s) fun p hb => by
    rw [State.port_softReset] at hb
    obtain ⟨h1, h2⟩ := CardPort.softReset_bound hb
    rw [(h.2.2 p h2).1] at h1
    cases h1

/-! ### The link's own commands -/

theorem State.setLink_turns {l : Link} (h : s.link.Sound → l.Sound) : s.Turns C { s with link := l } := by
  have hw : s.Works (fun _ => False) { s with link := l } := .of_same rfl rfl rfl rfl rfl rfl rfl rfl h id
  exact hw.turns

theorem State.setParser_turns (st : ParserState) (buf : List Byte) (stall : Bool) (s : State) :
    s.Turns C (s.setParser st buf stall) := State.setLink_turns id

theorem execStallTimerExpiry_turns (h : execStallTimerExpiry s = .next t) : s.Turns C t := by
  unfold execStallTimerExpiry at h
  split at h
  · obtain rfl := Host.Outcome.next.inj h
    exact s.quiet_works.trans_turns (State.setLink_turns id)
  · obtain rfl := Host.Outcome.next.inj h
    exact s.quiet_works.turns

theorem execFrameTakenBulkIn_turns (h : execFrameTakenBulkIn s = .next t) : s.Turns C t := by
  unfold execFrameTakenBulkIn at h
  split at h
  · obtain rfl := Host.Outcome.next.inj h
    exact s.quiet_works.turns
  · rename_i f rest hq
    obtain rfl := Host.Outcome.next.inj h
    refine State.Turns.trans_works (s.quiet_works.trans_turns (State.setLink_turns (s := s.quiet) fun hs => ?_))
      (State.emitLine_works _ _)
    have hout (l : Link) (o : FrameOwner) : (l.release o).outq = l.outq := by cases o <;> rfl
    have hs' : s.link.noticesQueued ≤ noticePlaces := hs
    rw [Link.noticesQueued, hq] at hs'
    rw [Link.Sound, Link.noticesQueued, hout]
    exact ((List.sublist_cons_self f rest).filter _).length_le.trans hs'

end Sys2Proof.Machine

/-! Every command, and the invariants the steps keep (O12, O16, O23, O58, O59) with the reset state that satisfies them
(O60). -/

namespace Sys2Proof.Machine

open Table

variable {C : Prop} {s t : State}

/-- A request that has passed its form check. -/
theorem requestMeaning_turns {i : Instr} (hC : C → ClosableOwnNone s) (h : requestMeaning i s = .next t) :
    s.Turns C t := by
  have idle {t : State} (h : (Host.Outcome.next s : Host.Outcome State Fault Refusal) = .next t) : s.Turns C t := by
    obtain rfl := Host.Outcome.next.inj h
    exact .refl s
  cases i with
  | identify tag => exact quiet_request_turns (by exact fun _ s => State.Turns.refl s) h
  | status tag =>
    exact quiet_request_turns (owner := fun _ s => .tell s.statusBytes s.clearOverflow)
      (fun _ s => State.setLink_turns (s := s) id) h
  | reset tag =>
    obtain rfl := Host.Outcome.next.inj h
    exact s.softReset_turns tag
  | planSet tag n a b c d => exact quiet_request_turns (fun _ => rulePlanSet_turns n a b c d) h
  | planLock tag => exact quiet_request_turns (fun _ => rulePlanLock_turns) h
  | planQuery tag => exact quiet_request_turns (by exact fun _ s => State.Turns.refl s) h
  | destBind tag p a n k sp u0 t0 => exact quiet_request_turns (fun _ => ruleDestBind_turns p rfl rfl) h
  | destUnbind tag p => exact quiet_request_turns (fun _ => ruleDestUnbind_turns p) h
  | destQuery tag p => exact quiet_request_turns (fun _ => ruleDestQuery_turns p) h
  | sectorRead tag p a n => exact quiet_request_turns (fun e => ruleSectorRead_turns e tag p a n) h
  | jobOpen tag p => exact quiet_request_turns (fun _ => ruleJobOpen_turns p) h
  | clipAdd tag j es => exact quiet_request_turns (fun _ => ruleClipAdd_turns j es) h
  | jobStart tag j q u => exact quiet_request_turns (fun _ => ruleJobStart_turns j q u) h
  | jobPause tag j => exact quiet_request_turns (fun _ => ruleJobPause_turns j) h
  | jobResume tag j => exact quiet_request_turns (fun _ => ruleJobResume_turns j) h
  | jobAbandon tag j =>
    exact quiet_request_turns (owner := fun _ s => onJob j s fun j => .take [] (abandonJob j s))
      (fun _ s => onJob_turns fun j => abandonJob_launch j s) h
  | jobClose tag j => exact s.quiet_works.trans_turns (State.request_turns (fun _ => ruleJobClose_turns hC) h)
  | jobQuery tag j =>
    exact quiet_request_turns (owner := fun _ s => onJob j s fun j => .tell (s.jobBytes j) s)
      (fun _ s => onJob_turns fun _ => State.Turns.refl s) h
  | clipQuery tag k => exact quiet_request_turns (fun _ => ruleClipQuery_turns k) h
  | clipExclude tag c => exact quiet_request_turns (fun _ => ruleClipExclude_turns c) h
  | clipRetry tag c => exact quiet_request_turns (fun _ => ruleClipRetry_turns c) h
  | copyAdd tag c d => exact quiet_request_turns (fun _ => ruleCopyAdd_turns c d) h
  | manifestRead tag n => exact quiet_request_turns (fun _ => ruleManifestRead_turns n) h
  | faultRead tag => exact quiet_request_turns (by exact fun _ s => State.Turns.refl s) h
  | faultClear tag c => exact quiet_request_turns (fun _ => ruleFaultClear_turns c) h
  | faultRoute tag c r => exact quiet_request_turns (fun _ => ruleFaultRoute_turns c r) h
  | _ => exact idle h

theorem refuseForm_turns {code : Nat} {tag : Byte} {st : Status} (h : refuseForm code tag st s = .next t) :
    s.Turns C t := by
  unfold refuseForm at h
  split at h
  · obtain rfl := Host.Outcome.next.inj h
    exact .refl s
  · exact State.request_turns (owner := fun _ _ => .refuse st) (fun _ => trivial) h

theorem takeFrame_turns {kind tag : Byte} {payload : List Byte} (hC : C → ClosableOwnNone s)
    (h : takeFrame kind tag payload s = .next t) : s.Turns C t := by
  unfold takeFrame at h
  split at h
  · unfold admitRequest at h
    split at h
    · exact requestMeaning_turns hC h
    · exact refuseForm_turns h
    · exact refuseForm_turns h
  · obtain rfl := Host.Outcome.next.inj h
    exact .refl s

theorem endCheck_turns {buf : List Byte} (hC : C → ClosableOwnNone s) (h : endCheck buf s = .next t) : s.Turns C t := by
  have hh : s.Works (fun _ => False) s.hunt := .of_same rfl rfl rfl rfl rfl rfl rfl rfl id id
  unfold endCheck at h
  simp only at h
  split at h
  · split at h
    · exact hh.trans_turns (takeFrame_turns hC h)
    · obtain rfl := Host.Outcome.next.inj h
      exact hh.turns
  · obtain rfl := Host.Outcome.next.inj h
    exact (hh.trans (State.raise_works _ _)).turns

theorem takeByte_turns {b : Byte} (hC : C → ClosableOwnNone s) (h : takeByte b s = .next t) : s.Turns C t := by
  have idle {t : State} (h : (Host.Outcome.next s : Host.Outcome State Fault Refusal) = .next t) : s.Turns C t := by
    obtain rfl := Host.Outcome.next.inj h
    exact .refl s
  have set {st : ParserState} {buf : List Byte} {stall : Bool} {t : State}
      (h : (Host.Outcome.next (s.setParser st buf stall) : Host.Outcome State Fault Refusal) = .next t) : s.Turns C t := by
    obtain rfl := Host.Outcome.next.inj h
    exact s.setParser_turns st buf stall
  unfold takeByte at h
  simp only at h
  split at h
  · split at h
    · exact set h
    · exact idle h
  · split at h
    · exact set h
    · split at h
      · exact idle h
      · exact set h
  · split at h
    · exact set h
    · unfold endHead at h
      split at h
      · exact set h
      · split at h <;> exact set h
  · split at h <;> exact set h
  · split at h
    · exact set h
    · exact endCheck_turns hC h

/-- Every command but POWER_ON_RESET. -/
theorem exec_turns {i : Instr} (hi : ∀ strap seated, i ≠ .powerOnReset strap seated) (hC : C → ClosableOwnNone s)
    (h : exec i s = .next t) : s.Turns C t := by
  have request (e : exec i s = requestMeaning i s) : s.Turns C t := requestMeaning_turns hC (e ▸ h)
  cases i with
  | powerOnReset strap seated => exact absurd rfl (hi strap seated)
  | bulkOutByte b => exact s.quiet_works.trans_turns (takeByte_turns hC h)
  | stallTimerExpiry => exact execStallTimerExpiry_turns h
  | frameTakenBulkIn => exact execFrameTakenBulkIn_turns h
  | readerSlotSeated p => exact execReaderSlotSeated_turns h
  | cardIn p m c => exact execCardIn_turns h
  | identityTimerExpiry p => exact execIdentityTimerExpiry_turns h
  | cardOut p => exact removal_turns h
  | readerSlotNotSeated p => exact removal_turns h
  | readerData p bytes => exact execReaderData_turns h
  | readerError p => exact execReaderError_turns h
  | readerTimerExpiry p => exact execReaderTimerExpiry_turns h
  | driveDone d bytes => exact s.quiet_works.trans_turns (onResponse_turns (doneFor_fair d bytes) h)
  | driveRetry d => exact s.quiet_works.trans_turns (onResponse_turns (retryFor_fair d) h)
  | driveFail d => exact s.quiet_works.trans_turns (onResponse_turns (failFor_fair d _) h)
  | driveIn d c => exact execDriveIn_turns h
  | driveOut d => exact execDriveOut_turns h
  | responseTimerExpiry d => exact execResponseTimerExpiry_turns h
  | _ => exact request rfl

/-! ### Steps -/

/-- A step that is no POWER_ON_RESET. -/
theorem step_turns (hp : ∀ strap seated rest, s.pending ≠ .powerOnReset strap seated :: rest)
    (hC : C → ClosableOwnNone s) (h : step s = .next t) : s.Turns C t := by
  unfold step at h
  split at h
  · obtain rfl := Host.Outcome.next.inj h
    exact .refl s
  · rename_i c rest hs
    have hw : s.Works (fun _ => False) (s.withPending rest) := .of_same rfl rfl rfl rfl rfl rfl rfl rfl id id
    refine hw.trans_turns (exec_turns (fun strap seated hc => ?_) hC h)
    exact hp strap seated rest (by rw [hs, hc])

/-- A property every command keeps and POWER_ON_RESET brings about is kept by every step. -/
theorem keptByStep_of_turns {P : State → Prop} (ht : ∀ s t : State, s.Turns False t → P s → P t)
    (hp : ∀ strap seated s t, execPowerOnReset strap seated s = .next t → P t) : KeptByStep P := by
  intro s t hs h
  by_cases hpor : ∃ strap seated rest, s.pending = .powerOnReset strap seated :: rest
  · obtain ⟨strap, seated, rest, hpend⟩ := hpor
    unfold step at h
    rw [hpend] at h
    exact hp strap seated _ t h
  · push Not at hpor
    exact ht s t (step_turns hpor False.elim h) hs

/-! ### What power-on reset leaves -/

/-- A state as power-on reset leaves it, whatever the strap and the seated cards. -/
def State.FromPowerOn (t : State) : Prop :=
  t.jobs = State.reset.jobs ∧ t.clips = State.reset.clips ∧ t.ring = State.reset.ring ∧ t.dests = State.reset.dests
    ∧ t.manifest = State.reset.manifest ∧ t.faults = State.reset.faults ∧ t.link = State.reset.link
    ∧ ∀ p, (t.port p).state ≠ .bound

theorem execPowerOnReset_spec {strap : Strap} {seated : List PortNo} (h : execPowerOnReset strap seated s = .next t) :
    t.FromPowerOn := by
  obtain rfl := Host.Outcome.next.inj h
  refine ⟨rfl, rfl, rfl, rfl, rfl, rfl, rfl, fun p => ?_⟩
  have : (Vector.ofFn fun p => portAtPowerOn strap seated p)[p] = portAtPowerOn strap seated p := by simp
  change (Vector.ofFn fun p => portAtPowerOn strap seated p)[p].state ≠ .bound
  rw [this]
  unfold portAtPowerOn
  split_ifs <;> simp [CardPort.idle]

theorem State.reset_fromPowerOn : State.reset.FromPowerOn :=
  ⟨rfl, rfl, rfl, rfl, rfl, rfl, rfl, by decide⟩

namespace State.FromPowerOn

variable (h : t.FromPowerOn)
include h

theorem job (j : JobNo) : t.job j = Job.free := by
  rw [State.job_congr h.1]
  simp [State.job, State.reset]

theorem dest (d : DestNo) : t.dest d = DestPort.reset := by
  obtain ⟨-, -, -, hd, -⟩ := h
  rw [State.dest_congr hd]
  simp [State.dest, State.reset]

theorem ring : t.ring = Ring.reset := h.2.2.1

theorem manifest : t.manifest = Manifest.reset := by obtain ⟨-, -, -, -, hm, -⟩ := h; exact hm

theorem faults : t.faults = FaultUnit.reset := by obtain ⟨-, -, -, -, -, hf, -⟩ := h; exact hf

theorem link : t.link = Link.reset := by obtain ⟨-, -, -, -, -, -, hl, -⟩ := h; exact hl

theorem destSound (d : DestNo) : (t.dest d).Sound := by
  rw [h.dest]
  exact ⟨Arbiter.reset_sound, fun b hb => (nomatch hb), Nat.zero_le _⟩

theorem linkSound : t.link.Sound := by
  rw [h.link]
  exact Nat.zero_le _

theorem manifestSound : t.manifest.Sound := by
  rw [h.manifest]
  exact Nat.zero_le _

theorem countsAgree : t.CountsAgree :=
  State.countsAgree_of_reset h.ring h.job fun d => by rw [h.dest]; rfl

theorem bindingsAgree : t.BindingsAgree := by
  obtain ⟨-, -, -, -, -, -, -, hp⟩ := id h
  exact State.bindingsAgree_of_reset h.job hp

end State.FromPowerOn

/-! ### The invariants -/

/-- Settles O12: by `step_turns` every step but a POWER_ON_RESET keeps a locked plan and the enabled ports. -/
theorem strapAndLockedPlanStay : Obligations.StrapAndLockedPlanStay :=
  ⟨fun _ _ hl h hp => (step_turns (C := False) hp False.elim h).plan hl,
    fun _ _ h hp => (step_turns (C := False) hp False.elim h).enabled⟩

/-- Settles O16: every command keeps the fault unit sound, and power-on reset leaves it so. -/
theorem faultUnitStaysSound : Obligations.FaultUnitStaysSound :=
  keptByStep_of_turns (fun _ _ ht => ht.faults) fun _ _ _ _ h => by
    rw [(execPowerOnReset_spec h).faults]; exact FaultUnit.reset_sound

/-- Settles O23: every command keeps the destination ports sound, and power-on reset leaves them so. -/
theorem destinationsStaySound : Obligations.DestinationsStaySound :=
  keptByStep_of_turns (fun _ _ ht => ht.dests) fun _ _ _ _ h => (execPowerOnReset_spec h).destSound

/-- Settles O58: ring, queues and clip table, each kept by every command and sound after power-on reset. -/
theorem booksStaySound : Obligations.BooksStaySound := by
  refine ⟨?_, ?_, ?_⟩
  · exact keptByStep_of_turns (fun _ _ ht => ht.ring) fun _ _ _ _ h => by
      rw [(execPowerOnReset_spec h).ring]; exact Ring.reset_sound
  · exact keptByStep_of_turns (fun _ _ ht hs => ⟨ht.link hs.1, ht.manifest hs.2⟩) fun _ _ _ _ h =>
      ⟨(execPowerOnReset_spec h).linkSound, (execPowerOnReset_spec h).manifestSound⟩
  · refine keptByStep_of_turns (fun _ _ ht => ht.clips) fun _ _ _ t h => ?_
    obtain ⟨-, hc, -⟩ := execPowerOnReset_spec h
    rw [hc]
    rfl

/-- No STAGED slot has an empty pending set exactly when no slot is needless. -/
theorem State.stagedAreNeeded_iff (h : s.ring.Sound) : s.StagedAreNeeded ↔ ∀ n, ¬s.Needless n := by
  constructor
  · rintro hs n ⟨y, hy, hst, hp⟩
    exact hs n y (mem_of_find hy) hst hp
  · intro hs n y hm hst hp
    exact hs n ⟨y, (find_eq_some_iff h.1 n y).2 hm, hst, hp⟩

theorem stagedSlotsStayNeeded : StagedSlotsStayNeeded := by
  refine keptByStep_of_turns (fun s t ht ⟨hr, hs⟩ => ⟨ht.ring hr, ?_⟩) fun _ _ _ t h => ?_
  · rw [State.stagedAreNeeded_iff hr] at hs
    exact (State.stagedAreNeeded_iff (ht.ring hr)).2 (ht.needed hr hs)
  · have hr := (execPowerOnReset_spec h).ring
    have hsound : t.ring.Sound := hr ▸ Ring.reset_sound
    exact ⟨hsound, (State.stagedAreNeeded_iff hsound).2 (State.needed_of_reset hr)⟩

/-- A step, by the command it runs. -/
theorem step_cases (h : step s = .next t) : s.Turns (ClosableOwnNone s) t ∨ t.FromPowerOn := by
  by_cases hpor : ∃ strap seated rest, s.pending = .powerOnReset strap seated :: rest
  · obtain ⟨strap, seated, rest, hpend⟩ := hpor
    unfold step at h
    rw [hpend] at h
    exact .inr (execPowerOnReset_spec h)
  · push Not at hpor
    exact .inl (step_turns hpor id h)

theorem heldCountsStay : HeldCountsStay := fun _ _ hs hC h =>
  (step_cases h).elim (fun ht => ht.counts hC hs) (·.countsAgree)

theorem loadingJobsStayEmpty : LoadingJobsStayEmpty := fun _ t _ hs h =>
  (step_cases h).elim (fun ht => ht.loading hs) fun hp j _ => by rw [hp.job]; rfl

theorem bindingsStayMutual : BindingsStayMutual :=
  keptByStep_of_turns (fun _ _ ht => ht.bindings) fun _ _ _ _ h => (execPowerOnReset_spec h).bindingsAgree

/-- Settles O59, from the four invariants of slots, counts and bindings. -/
theorem slotsAndBindingsStaySound : Obligations.SlotsAndBindingsStaySound :=
  ⟨stagedSlotsStayNeeded, heldCountsStay, loadingJobsStayEmpty, bindingsStayMutual⟩

/-- Settles O60: the reset state is one power-on reset leaves, with every lamp off over an empty port. -/
theorem resetIsSound : Obligations.ResetIsSound := by
  have h := State.reset_fromPowerOn
  refine ⟨FaultUnit.reset_sound, h.destSound, Ring.reset_sound, h.linkSound, h.manifestSound, rfl, fun p => ?_, nofun,
    h.countsAgree, nofun, h.bindingsAgree⟩
  simp [State.formLamp, State.port, State.reset, CardPort.idle]

end Sys2Proof.Machine

/-! The step and the words of the links, STATUS, and the fault unit's own requests and occurrences (sections 10.1 to
10.4, 11.6).

An occurrence changes the fault unit by `FaultUnit.take` and hands the rest to its route. Of the routes only HOLD
touches jobs: each job record once, so that the sweep over all of them leaves a record as its own turn leaves it. -/

namespace Sys2Proof.Machine

/-! ### The step, and words written out -/

/-- Settles O1: `step` is this case distinction on the queue. -/
theorem stepRunsFrontCommand : Obligations.StepRunsFrontCommand := by
  refine ⟨fun c q s => rfl, fun s h => ?_⟩
  rw [step, h]

/-- Settles O4: each word is evaluated. -/
theorem requestWords : Obligations.RequestWords := by
  unfold Obligations.RequestWords
  refine ⟨by simp [Bytes.crc, Bytes.crcByte, Bytes.crcShift], ?_, rfl, rfl, rfl, rfl, rfl, rfl, rfl, rfl, rfl, rfl⟩
  simp [frameBytes, Bytes.crc, Bytes.crcByte, Bytes.crcShift, Bytes.le, Bytes.be]

/-! ### STATUS (R179) -/

theorem exec_status (tag : Byte) (s : State) :
    exec (.status tag) s = s.quiet.request tag 0x02 fun _ s => .tell s.statusBytes s.clearOverflow := rfl

/-- With a request taken into entry `e`, the entries in use are `e` and those in use before. -/
theorem Link.outstanding_owing (s : State) (e : EntryNo) (tag : Byte) (code : Nat) :
    (s.owing e tag code).link.outstanding
      = (allEntries.filter fun f => decide (f = e) || (s.link.table[f]).isSome).length := by
  have hentry (f : EntryNo) : ((s.owing e tag code).link.table[f]).isSome
      = (decide (f = e) || (s.link.table[f]).isSome) := by
    by_cases hf : f = e
    · subst hf; simp [State.owing]
    · have hne : e.val ≠ f.val := fun h => hf (Fin.ext h.symm)
      simp [State.owing, Vector.getElem_set_ne, hne, hf]
  simp only [Link.outstanding, hentry]

/-- The overflow flag does not stand in a reply. -/
theorem State.clearOverflow_reply (s : State) (e : EntryNo) (tag : Byte) (code : Nat) (b : List Byte) :
    (s.owing e tag code).clearOverflow.reply e .ok b = (s.answered e tag code .ok b).clearOverflow := by
  have howed : (s.owing e tag code).clearOverflow.link.table[e] = some ⟨tag, code, false⟩ := by
    simp [State.clearOverflow, State.owing]
  rw [State.reply_of_owed howed]
  simp [State.answered, State.owing, State.clearOverflow]

/-- Settles O8: the owner of STATUS tells the table of section 11.6 with its own entry counted, then the flag goes. -/
theorem statusAnswers : Obligations.StatusAnswers := by
  intro tag s e he two inUse notices slots payload
  have hpayload : (s.quiet.owing e tag 0x02).statusBytes = payload := by
    unfold State.statusBytes
    rw [Link.outstanding_owing]
    rfl
  refine ⟨by simp [payload, two, allPorts, allDests, allJobs], _, ?_, rfl⟩
  have hfree : s.quiet.link.freeEntry = some e := he
  rw [exec_status, State.request_tell hfree rfl, State.clearOverflow_reply, hpayload]
  rfl

/-! ### The alarm line (R156) -/

theorem mem_allClasses (c : FaultClass) : c ∈ allClasses := by cases c <;> decide

theorem FaultUnit.alarmFormed_of_formAlarm {u : FaultUnit} (h : u.alarm = u.formAlarm) : AlarmFormed u := by
  unfold AlarmFormed
  rw [h, FaultUnit.formAlarm, List.any_eq_true]
  simp [mem_allClasses]

/-! ### FAULT_CLEAR and FAULT_ROUTE (R160, R161) -/

theorem exec_faultClear (tag : Byte) (n : Nat) (s : State) :
    exec (.faultClear tag n) s = s.quiet.request tag 0x39 fun _ s => ruleFaultClear n s := rfl

theorem exec_faultRoute (tag : Byte) (n r : Nat) (s : State) :
    exec (.faultRoute tag n r) s = s.quiet.request tag 0x3A fun _ s => ruleFaultRoute n r s := rfl

theorem classOf_code (c : FaultClass) : classOf c.code.val = some c := by cases c <;> rfl

theorem classOf_eq_none {n : Nat} (h : 9 ≤ n) : classOf n = none := List.getElem?_eq_none h

theorem routeOf_code (r : Route) : routeOf r.code = some r := by cases r <;> rfl

theorem routeOf_eq_none {r : Nat} (h : 4 ≤ r) : routeOf r = none :=
  match r, h with
  | _ + 4, _ => rfl

theorem ruleFaultClear_none {n : Nat} (h : 9 ≤ n) (s : State) : ruleFaultClear n s = .refuse .badParam := by
  rw [ruleFaultClear, classOf_eq_none h]

theorem ruleFaultClear_code (c : FaultClass) (s : State) :
    ruleFaultClear c.code.val s = .tell ((s.faults.clear c).flagBytes ++ (s.faults.clear c).captureBytes)
      { s with faults := s.faults.clear c } := by
  rw [ruleFaultClear, classOf_code]

theorem ruleFaultRoute_none {n r : Nat} (h : 9 ≤ n ∨ 4 ≤ r) (s : State) :
    ruleFaultRoute n r s = .refuse .badParam := by
  unfold ruleFaultRoute
  rcases h with h | h
  · rw [classOf_eq_none h]
  · rw [routeOf_eq_none h]
    cases classOf n <;> rfl

theorem ruleFaultRoute_code (c : FaultClass) (x : Route) (s : State) :
    ruleFaultRoute c.code.val x.code s
      = .tell (s.faults.setRoute c x).routeBytes { s with faults := s.faults.setRoute c x } := by
  rw [ruleFaultRoute, classOf_code, routeOf_code]

/-- A request whose owner changes the fault unit and nothing else is answered in the state with that unit. -/
theorem State.request_tell_faults {s : State} {e : EntryNo} {tag : Byte} {code : Nat} {owner : EntryNo → State → Ruling}
    {b : List Byte} {u : FaultUnit} (h : s.link.freeEntry = some e)
    (ho : owner e (s.owing e tag code) = .tell b { s.owing e tag code with faults := u }) :
    s.request tag code owner = .next { s.answered e tag code .ok b with faults := u } := by
  rw [State.request_tell h ho, ← State.reply_owing]
  rfl

/-- A clear empties the capture exactly when it holds the class. -/
theorem FaultUnit.clear_capture (u : FaultUnit) (c : FaultClass) :
    (u.clear c).capture = u.capture.filter fun o => decide (o.cls ≠ c) := by
  change (if (u.capture.map (·.cls)) = some c then none else u.capture) = _
  cases u.capture with
  | none => simp
  | some o =>
    by_cases h : o.cls = c <;> simp [h, Option.filter]

theorem faultClearRules : FaultClearRules := by
  intro tag n s e he
  simp only [exec_faultClear]
  refine ⟨fun hn => State.request_refuse he (ruleFaultClear_none hn _), ?_⟩
  rintro c rfl
  refine ⟨s.faults.clear c, ?_, FaultUnit.clear_flag_self _ c, fun x hx => FaultUnit.clear_flag_of_ne _ hx, rfl,
    FaultUnit.clear_capture _ c, FaultUnit.alarmFormed_of_formAlarm rfl⟩
  rw [← FaultUnit.flagBytes_eq, ← FaultUnit.captureBytes_eq_captureReport]
  exact State.request_tell_faults he (ruleFaultClear_code c _)

theorem faultRouteRules : FaultRouteRules := by
  intro tag n r s e he
  simp only [exec_faultRoute]
  refine ⟨fun hn => State.request_refuse he (ruleFaultRoute_none hn _), ?_⟩
  rintro c x rfl rfl
  refine ⟨s.faults.setRoute c x, ?_, FaultUnit.setRoute_route_self _ c x,
    fun y hy => FaultUnit.setRoute_route_of_ne _ hy x, rfl, rfl, FaultUnit.alarmFormed_of_formAlarm rfl⟩
  rw [← FaultUnit.routeBytes_eq]
  exact State.request_tell_faults he (ruleFaultRoute_code c x _)

/-- Settles O14: both requests by the branches of their rulings. -/
theorem faultRequestRules : Obligations.FaultRequestRules := ⟨faultClearRules, faultRouteRules⟩

/-! ### What a route leaves alone (R155 to R157) -/

/-- From `s` to `t` only job records and the wait list changed, and notices were queued. -/
structure State.OnlyJobs (s t : State) : Prop where
  clips : t.clips = s.clips
  dests : t.dests = s.dests
  ports : t.ports = s.ports
  plan : t.plan = s.plan
  manifest : t.manifest = s.manifest
  faults : t.faults = s.faults
  held : t.ring.held = s.ring.held
  freeList : t.ring.freeList = s.ring.freeList
  pending : t.pending = s.pending
  lines : t.lines = s.lines
  link : s.link.OnlyNotices t.link

namespace State.OnlyJobs

theorem refl (s : State) : s.OnlyJobs s := ⟨rfl, rfl, rfl, rfl, rfl, rfl, rfl, rfl, rfl, rfl, .refl _⟩

theorem trans {s t u : State} (h : s.OnlyJobs t) (g : t.OnlyJobs u) : s.OnlyJobs u where
  clips := g.clips.trans h.clips
  dests := g.dests.trans h.dests
  ports := g.ports.trans h.ports
  plan := g.plan.trans h.plan
  manifest := g.manifest.trans h.manifest
  faults := g.faults.trans h.faults
  held := g.held.trans h.held
  freeList := g.freeList.trans h.freeList
  pending := g.pending.trans h.pending
  lines := g.lines.trans h.lines
  link := h.link.trans g.link

theorem foldl {β : Type} (f : State → β → State) (h : ∀ (s : State) x, s.OnlyJobs (f s x)) (l : List β) (s : State) :
    s.OnlyJobs (l.foldl f s) :=
  foldl_invariant (s.OnlyJobs ·) f (fun t x ht => ht.trans (h t x)) l (refl s)

end State.OnlyJobs

theorem State.modJob_onlyJobs (s : State) (j : JobNo) (f : Job → Job) : s.OnlyJobs (s.modJob j f) :=
  ⟨rfl, rfl, rfl, rfl, rfl, rfl, rfl, rfl, rfl, rfl, .refl _⟩

theorem State.notify_onlyJobs (s : State) (n : Notice) : s.OnlyJobs (s.notify n) :=
  ⟨rfl, rfl, rfl, rfl, rfl, rfl, rfl, rfl, rfl, rfl, .queueNotice _ rfl⟩

theorem State.moveJob_onlyJobs (s : State) (j : JobNo) (f : Job → Job) : s.OnlyJobs (s.moveJob j f) :=
  (s.modJob_onlyJobs j f).trans (State.notify_onlyJobs _ _)

theorem State.leaveWait_onlyJobs (s : State) (r : Requester) : s.OnlyJobs (s.leaveWait r) :=
  ⟨rfl, rfl, rfl, rfl, rfl, rfl, rfl, rfl, rfl, rfl, .refl _⟩

theorem State.pauseNow_onlyJobs (s : State) (j : JobNo) : s.OnlyJobs (s.pauseNow j) :=
  (s.leaveWait_onlyJobs _).trans (State.moveJob_onlyJobs _ _ _)

theorem State.askPause_onlyJobs (s : State) (cause : PauseCause) (j : JobNo) : s.OnlyJobs (s.askPause cause j) := by
  unfold State.askPause
  simp only
  split
  · exact (s.modJob_onlyJobs j _).trans (State.pauseNow_onlyJobs _ _)
  · exact s.modJob_onlyJobs j _

theorem State.holdJob_onlyJobs (s : State) (j : JobNo) : s.OnlyJobs (s.holdJob j) := by
  unfold State.holdJob
  split
  case h_1 => exact s.askPause_onlyJobs _ _
  case h_2 =>
    split
    · exact s.modJob_onlyJobs j _
    · exact .refl s
  all_goals exact .refl s

theorem State.holdJobs_onlyJobs (s : State) : s.OnlyJobs s.holdJobs := by
  unfold State.holdJobs
  exact .foldl _ State.holdJob_onlyJobs _ s

/-- An occurrence leaves the fault unit as `take` does, and for the rest is its route. -/
theorem State.raise_onlyJobs (s : State) (o : Occurrence) :
    ({ s with faults := s.faults.take o } : State).OnlyJobs (s.raise o) := by
  unfold State.raise State.carryRoute
  split
  · exact .refl _
  · exact State.notify_onlyJobs _ _
  · exact .refl _
  · exact State.holdJobs_onlyJobs _

theorem occurrenceIsTaken : OccurrenceIsTaken := by
  intro s o t
  have hfaults : t.faults = s.faults.take o := s.raise_faults o
  have h : ({ s with faults := s.faults.take o } : State).OnlyJobs t := s.raise_onlyJobs o
  rw [hfaults]
  refine ⟨FaultUnit.take_flag_self _ o, fun c hc => FaultUnit.take_flag_of_ne _ hc, ?_,
    FaultUnit.alarmFormed_of_formAlarm rfl, rfl, h.clips, h.dests, h.ports, h.plan, h.manifest, h.held, h.freeList,
    h.link⟩
  rw [FaultUnit.take_capture, FaultUnit.captures]
  cases s.faults.capture with
  | none => rfl
  | some x => simp

/-! ### The HOLD route on one record (R157) -/

/-- A job record after its own turn in the sweep of the HOLD route. -/
def State.heldRecord (s : State) (j : JobNo) : Job :=
  let x := s.job j
  if x.state = .running then
    if s.atBoundary j && s.readsOn j then { x with state := .paused, pausePending := false, pauseCause := some .hold }
    else { x with pausePending := true, pauseCause := some .hold }
  else if x.state = .pulled ∧ x.resumeTarget = some .running then
    { x with resumeTarget := some .paused, pauseCause := some .hold }
  else x

theorem State.askPause_job_of_ne (s : State) (cause : PauseCause) {i j : JobNo} (h : i ≠ j) :
    (s.askPause cause i).job j = s.job j := by
  unfold State.askPause
  simp only
  split <;> simp [State.pauseNow, State.moveJob, h]

theorem State.holdJob_job_of_ne (s : State) {i j : JobNo} (h : i ≠ j) : (s.holdJob i).job j = s.job j := by
  unfold State.holdJob
  split
  case h_1 => exact s.askPause_job_of_ne _ h
  case h_2 =>
    split
    · simp [h]
    · rfl
  all_goals rfl

/-- A job's mark of a pending pause does not say what it has left to read. -/
theorem State.readsOn_modJob {s : State} {j : JobNo} {f : Job → Job} (hc : (f (s.job j)).clips = (s.job j).clips)
    (hp : (f (s.job j)).readPos = (s.job j).readPos) : (s.modJob j f).readsOn j = s.readsOn j := by
  simp only [State.readsOn, State.clipAtRead, State.job_modJob_self, hc, hp]
  rfl

theorem State.holdJob_job_self (s : State) (j : JobNo) : (s.holdJob j).job j = s.heldRecord j := by
  unfold State.holdJob
  split
  case h_1 hj =>
    simp only [State.askPause]
    rw [State.readsOn_modJob rfl rfl, State.heldRecord, if_pos hj]
    change (if (s.atBoundary j && s.readsOn j) = true then _ else _ : State).job j = _
    split <;> simp [State.pauseNow, State.moveJob]
  case h_2 hj =>
    have hrun : ¬(s.job j).state = .running := by rw [hj]; decide
    rw [State.heldRecord, if_neg hrun]
    split
    · rw [if_pos ⟨hj, ‹_›⟩, State.job_modJob_self]
    · rw [if_neg (fun h => absurd h.2 ‹_›)]
  all_goals next hj => simp [State.heldRecord, hj]

/-- What a record becomes in the sweep depends on the record, the clips and the slots only. -/
theorem State.heldRecord_congr {s t : State} {j : JobNo} (hj : t.job j = s.job j) (hc : t.clips = s.clips)
    (hr : t.ring.held = s.ring.held) : t.heldRecord j = s.heldRecord j := by
  have hb : t.atBoundary j = s.atBoundary j := by simp only [State.atBoundary, State.fillingOf, hr]
  have hread : t.readsOn j = s.readsOn j := by
    have hclip : t.clip? = s.clip? := by funext c; simp only [State.clip?, hc]
    simp only [State.readsOn, State.clipAtRead, hj, hclip]
  simp only [State.heldRecord, hj, hb, hread]

/-- A sweep that does not come to `j` leaves its record. -/
theorem State.foldl_holdJob_job_of_not_mem {l : List JobNo} {j : JobNo} (h : j ∉ l) (s : State) :
    (l.foldl State.holdJob s).job j = s.job j := by
  induction l generalizing s with
  | nil => rfl
  | cons i l ih =>
    rw [List.mem_cons, not_or] at h
    rw [List.foldl_cons, ih h.2, s.holdJob_job_of_ne (Ne.symm h.1)]

theorem State.holdJobs_job (s : State) (j : JobNo) : s.holdJobs.job j = s.heldRecord j := by
  have hnodup : allJobs.Nodup := List.nodup_finRange 16
  obtain ⟨before, after, hl⟩ : ∃ before after, allJobs = before ++ j :: after :=
    List.append_of_mem (List.mem_finRange j)
  unfold State.holdJobs
  rw [hl] at hnodup ⊢
  have hbefore : j ∉ before := fun h => (List.nodup_append.1 hnodup).2.2 j h j (by simp) rfl
  have hafter : j ∉ after := (List.nodup_cons.1 (List.nodup_append.1 hnodup).2.1).1
  have hsame : s.OnlyJobs (before.foldl State.holdJob s) := .foldl _ State.holdJob_onlyJobs _ s
  rw [List.foldl_append, List.foldl_cons, State.foldl_holdJob_job_of_not_mem hafter, State.holdJob_job_self]
  exact State.heldRecord_congr (State.foldl_holdJob_job_of_not_mem hbefore s) hsame.clips hsame.held

theorem State.raise_of_hold {s : State} {o : Occurrence} (h : s.faults.route o.cls = .hold) :
    s.raise o = ({ s with faults := s.faults.take o } : State).holdJobs := by
  have hroute : (s.faults.take o).route o.cls = .hold := h
  simp only [State.raise, State.carryRoute, hroute]

/-! ### The job's own view of its slots and its list -/

theorem State.atBoundary_iff (s : State) (j : JobNo) :
    s.atBoundary j = true ↔ ¬∃ n y, (n, y) ∈ s.ring.held ∧ y.state = .filling ∧ y.owner = .job j := by
  simp only [State.atBoundary, State.fillingOf, Option.isNone_iff_eq_none, Option.map_eq_none_iff, List.find?_eq_none,
    decide_eq_true_eq, Prod.forall]
  push Not
  rfl

theorem State.readsOn_iff (s : State) (j : JobNo) : s.readsOn j = true ↔ ReadsOn s j := by
  simp only [State.readsOn, ReadsOn, State.clipAtRead, Option.any_eq_true, Option.bind_eq_some_iff, Bool.or_eq_true,
    Bool.and_eq_true, decide_eq_true_eq]
  constructor
  · rintro ⟨x, ⟨c, hc, hx⟩, h⟩
    exact ⟨c, x, hc, hx, h⟩
  · rintro ⟨c, x, hc, hx, h⟩
    exact ⟨x, ⟨c, hc, hx⟩, h⟩

theorem holdStopsTheIntake : HoldStopsTheIntake := by
  intro s o j hroute x filling
  have hrecord : (s.raise o).job j = s.heldRecord j := by
    rw [State.raise_of_hold hroute, State.holdJobs_job]
    exact State.heldRecord_congr rfl rfl rfl
  have hboundary : s.atBoundary j = true ↔ ¬filling := s.atBoundary_iff j
  have hread := s.readsOn_iff j
  rw [hrecord, State.heldRecord]
  refine ⟨fun hrun => ⟨fun h => ?_, fun hfill hon => ?_⟩, fun hpulled htarget => ?_, fun hrun hpulled => ?_⟩
  · have hgoes : ¬(s.atBoundary j && s.readsOn j) = true := by
      rw [Bool.and_eq_true, hboundary, hread]
      exact fun hb => h.elim hb.1 (absurd hb.2)
    rw [if_pos hrun, if_neg hgoes]
  · rw [if_pos hrun, if_pos (by rw [hboundary.2 hfill, hread.2 hon]; rfl)]
  · have hrun : ¬(s.job j).state = .running := fun h => absurd (hpulled.symm.trans h) (by decide)
    rw [if_neg hrun, if_pos ⟨hpulled, htarget⟩]
  · rw [if_neg hrun, if_neg hpulled]

/-- Settles O15: `take` for the fault unit, and the sweep of the HOLD route record by record. -/
theorem occurrencesAndTheHoldRoute : Obligations.OccurrencesAndTheHoldRoute :=
  ⟨occurrenceIsTaken, holdStopsTheIntake⟩

end Sys2Proof.Machine

/-! The two resets block by block, the form checks of a request, and the frame parser (chapter 1 "Reset", chapter 11).

The parser is followed through a whole frame by the four stretches it is made of: marker, head, payload, check. A
request read back from its own payload is the field layout read back, one field after the other. -/

namespace Sys2Proof.Machine

/-! ### RESET (R20, R185) -/

theorem exec_reset (tag : Byte) (s : State) : exec (.reset tag) s = .next (s.softReset tag) := rfl

theorem CardPort.softReset_eq (x : CardPort) : x.softReset =
    if x.enabled then
      { x with
        state := if x.state = .empty then .empty else .mounting
        identity := none, boundJob := none, fifo := [], abandoned := x.outstanding.isSome
        identityTimer := decide (x.state ≠ .empty), released := none
        lamp := if x.state = .empty then .off else .amber }
    else x := by
  unfold CardPort.softReset
  cases he : x.enabled with
  | false => simp
  | true => by_cases h : x.state = .empty <;> simp [h]

theorem mem_allDests (d : DestNo) : d ∈ allDests := List.mem_finRange d

theorem State.mem_softReset_lines (s : State) (tag : Byte) (o : LineOut) :
    o ∈ (s.softReset tag).lines
      ↔ ∃ p, o = .restartReader p ∧ (s.port p).enabled = true ∧ (s.port p).state ≠ .empty := by
  simp only [State.softReset, List.mem_flatMap, mem_allPorts, true_and, State.portRestart]
  refine exists_congr fun p => ?_
  split_ifs with h
  · simp [h.1, h.2]
  · simpa using fun _ he => not_and.1 h he

/-- Settles O9: each block of the state `softReset` builds. -/
theorem softResetInEveryBlock : Obligations.SoftResetInEveryBlock := by
  intro tag s
  refine ⟨s.softReset tag, exec_reset tag s, s.job_softReset tag, rfl, rfl, rfl, rfl, rfl, fun c => ⟨?_, rfl⟩, rfl, rfl, ?_,
    fun p => ?_, fun d => ?_, s.mem_softReset_lines tag⟩
  · cases c <;> rfl
  · rfl
  · rw [State.port_softReset, CardPort.softReset_eq]
  · rw [State.dest_softReset]
    rfl

/-! ### POWER_ON_RESET (R20, R44, R96) -/

theorem strapEnables_eq (strap : Strap) (p : PortNo) :
    strapEnables strap p = (decide (strap = .eightPort) || decide (p.val < 4)) := by
  cases strap <;> rfl

theorem portAtPowerOn_eq (strap : Strap) (seated : List PortNo) (p : PortNo) :
    portAtPowerOn strap seated p =
      { enabled := strapEnables strap p
        state := if (strapEnables strap p && seated.contains p) = true then .mounting else .empty, identity := none
        boundJob := none, fifo := [], outstanding := none, abandoned := false
        identityTimer := strapEnables strap p && seated.contains p, readerTimer := false, released := none
        lamp := if (strapEnables strap p && seated.contains p) = true then .amber else .off } := by
  unfold portAtPowerOn
  cases hm : strapEnables strap p && seated.contains p with
  | false => simp [CardPort.idle]
  | true =>
    have he : strapEnables strap p = true := (Bool.and_eq_true_iff.1 hm).1
    simp [CardPort.idle, he]

theorem mem_powerOnRestarts_reader (strap : Strap) (p : PortNo) :
    .restartReader p ∈ powerOnRestarts strap ↔ strapEnables strap p = true := by
  simp [powerOnRestarts, mem_allPorts]

theorem mem_powerOnRestarts_drive (strap : Strap) (d : DestNo) : .restartDrive d ∈ powerOnRestarts strap := by
  simp [powerOnRestarts, mem_allDests]

/-- The state power-on reset leaves. -/
def State.poweredOn (strap : Strap) (seated : List PortNo) (s : State) : State :=
  { State.reset with
    ports := Vector.ofFn fun p => portAtPowerOn strap seated p
    lines := powerOnRestarts strap
    pending := s.pending }

theorem exec_powerOnReset (strap : Strap) (seated : List PortNo) (s : State) :
    exec (.powerOnReset strap seated) s = .next (s.poweredOn strap seated) := rfl

theorem State.port_poweredOn (strap : Strap) (seated : List PortNo) (s : State) (p : PortNo) :
    (s.poweredOn strap seated).port p = portAtPowerOn strap seated p := by
  simp [State.port, State.poweredOn]

/-- Settles O10: the reset state's blocks, with the ports of the strap. -/
theorem powerOnInEveryBlock : Obligations.PowerOnInEveryBlock := by
  intro strap seated s
  have hpower : (s.poweredOn strap seated).FromPowerOn := execPowerOnReset_spec (exec_powerOnReset strap seated s)
  refine ⟨s.poweredOn strap seated, exec_powerOnReset strap seated s, hpower.job, rfl, rfl, rfl, rfl, rfl, rfl, rfl,
    fun p => ⟨?_, ?_⟩, fun d => ⟨mem_powerOnRestarts_drive strap d, ?_⟩⟩
  · rw [State.port_poweredOn, portAtPowerOn_eq, strapEnables_eq]
  · rw [← strapEnables_eq]
    exact mem_powerOnRestarts_reader strap p
  · rw [hpower.dest]
    refine ⟨rfl, rfl, rfl, rfl, rfl, rfl, rfl, fun w => ?_, rfl, rfl, rfl⟩
    cases w <;> simp [DestPort.queue, DestPort.reset]

/-! ### A full table (R173) -/

theorem exec_jobAbandon (tag : Byte) (n : Nat) (s : State) :
    exec (.jobAbandon tag n) s = s.quiet.request tag 0x25 fun _ s => onJob n s fun j => .take [] (abandonJob j s) := rfl

theorem exec_jobQuery (tag : Byte) (n : Nat) (s : State) :
    exec (.jobQuery tag n) s = s.quiet.request tag 0x27 fun _ s => onJob n s fun j => .tell (s.jobBytes j) s := rfl

theorem exec_clipRetry (tag : Byte) (n : Nat) (s : State) :
    exec (.clipRetry tag n) s = s.quiet.request tag 0x2A fun _ s =>
      onClip n s fun x => if x.state = .sourceFault then .take [] (retryClip n x s) else .refuse .wrongState := rfl

/-- Every request but RESET is offered to the table under its own code and tag. -/
theorem exec_eq_request {i : Instr} {code : Nat} {tag : Byte} {payload : List Byte}
    (h : encodeRequest i = some (code, tag, payload)) (hcode : code ≠ 0x03) (s : State) :
    ∃ owner, exec i s = s.quiet.request tag code owner := by
  cases i with
  | clipQuery t key =>
    cases key <;>
    · simp only [encodeRequest, Option.some.injEq, Prod.mk.injEq] at h
      obtain ⟨rfl, rfl, -⟩ := h
      exact ⟨_, rfl⟩
  | status t =>
    obtain ⟨rfl, rfl, -⟩ : 0x02 = code ∧ t = tag ∧ _ := by simpa [encodeRequest] using h
    exact ⟨_, exec_status t s⟩
  | jobAbandon t n =>
    obtain ⟨rfl, rfl, -⟩ : 0x25 = code ∧ t = tag ∧ _ := by simpa [encodeRequest] using h
    exact ⟨_, exec_jobAbandon t n s⟩
  | jobQuery t n =>
    obtain ⟨rfl, rfl, -⟩ : 0x27 = code ∧ t = tag ∧ _ := by simpa [encodeRequest] using h
    exact ⟨_, exec_jobQuery t n s⟩
  | clipRetry t n =>
    obtain ⟨rfl, rfl, -⟩ : 0x2A = code ∧ t = tag ∧ _ := by simpa [encodeRequest] using h
    exact ⟨_, exec_clipRetry t n s⟩
  | reset t =>
    simp only [encodeRequest, Option.some.injEq, Prod.mk.injEq] at h
    exact absurd h.1.symm hcode
  | _ =>
    simp only [encodeRequest, Option.some.injEq, Prod.mk.injEq, reduceCtorEq] at h
    try
      obtain ⟨rfl, rfl, -⟩ := h
      exact ⟨_, rfl⟩

theorem Link.freeEntry_eq_none {l : Link} (h : ∀ e : EntryNo, (l.table[e]).isSome) : l.freeEntry = none := by
  simp only [Link.freeEntry, List.find?_eq_none]
  intro e _
  simpa [Option.isSome_iff_ne_none] using h e

theorem State.turnAway_eq (s : State) (tag : Byte) :
    s.turnAway tag = if s.link.refusal.isSome then s
      else { s with link := { s.link with refusal := some tag, outq := s.link.outq ++ [⟨.busy, 0x48, tag, []⟩] } } := by
  unfold State.turnAway
  cases s.link.refusal <;> rfl

theorem fullTableTurnsRequestsAway : FullTableTurnsRequestsAway := by
  intro i code tag payload s h hcode hfull
  obtain ⟨owner, howner⟩ := exec_eq_request h hcode s
  have hnone : s.quiet.link.freeEntry = none := Link.freeEntry_eq_none hfull
  rw [howner, State.request_of_full hnone, State.turnAway_eq]
  rfl

/-! ### The form checks (R174) -/

theorem length_of_readFields {sizes : List Nat} {bs : List Byte} {xs : List Nat} (h : readFields sizes bs = some xs) :
    bs.length = sizes.sum := by
  induction sizes generalizing bs xs with
  | nil =>
    cases bs with
    | nil => rfl
    | cons b bs => simp [readFields] at h
  | cons n ns ih =>
    unfold readFields at h
    split at h
    · cases h
    · obtain ⟨ys, hys, -⟩ := Option.map_eq_some_iff.1 h
      have := ih hys
      simp only [List.length_drop] at this
      simp only [List.sum_cons]
      omega

theorem readFixed_malformed {sizes : List Nat} {bs : List Byte} (h : bs.length ≠ sizes.sum)
    (mk : List Nat → Option Instr) : readFixed sizes bs mk = .malformed := by
  have hnone : readFields sizes bs = none := by
    rw [Option.eq_none_iff_forall_ne_some]
    exact fun xs hxs => h (length_of_readFields hxs)
  rw [readFixed, hnone]
  rfl

theorem decodeRequest_unknown {code : Nat} (h : code ∉ fixedLayouts.map Prod.fst) (h21 : code ≠ 0x21)
    (h28 : code ≠ 0x28) (tag : Byte) (bs : List Byte) : decodeRequest code tag bs = .unknown := by
  simp only [fixedLayouts, List.map_cons, List.map_nil, List.mem_cons, List.not_mem_nil, not_or, or_false] at h
  unfold decodeRequest
  split
  case h_27 => rfl
  all_goals omega

theorem decodeRequest_malformed {code n : Nat} (h : (code, n) ∈ fixedLayouts) {bs : List Byte} (hlen : bs.length ≠ n)
    (tag : Byte) : decodeRequest code tag bs = .malformed := by
  simp only [fixedLayouts, List.mem_cons, Prod.mk.injEq, List.not_mem_nil, or_false] at h
  obtain ⟨rfl, rfl⟩ | h := h
  · exact readFixed_malformed hlen _
  iterate 22
    obtain ⟨rfl, rfl⟩ | h := h
    · exact readFixed_malformed hlen _
  obtain ⟨rfl, rfl⟩ := h
  exact readFixed_malformed hlen _

/-- A request refused by its form is answered from its entry. -/
theorem refuseForm_of_free {s : State} {e : EntryNo} (h : s.link.freeEntry = some e) (code : Nat) (tag : Byte)
    (st : Status) : refuseForm code tag st s = .next (s.answered e tag code st []) := by
  unfold refuseForm
  rw [if_neg (by simp [h])]
  exact State.request_refuse h rfl

theorem badFormsAreAnswered : BadFormsAreAnswered := by
  refine ⟨fun code tag payload s e he => ⟨fun h => ?_, fun n hn hlen => ?_⟩, fun tag payload s hfull hne => ?_⟩
  · rw [admitRequest, decodeRequest_unknown h.1 h.2.1 h.2.2]
    exact refuseForm_of_free he _ _ _
  · rw [admitRequest, decodeRequest_malformed hn hlen]
    exact refuseForm_of_free he _ _ _
  · have hlen : payload.length ≠ 0 := fun h => hne (List.length_eq_zero_iff.1 h)
    rw [admitRequest, decodeRequest_malformed (n := 0) (by decide) hlen]
    exact if_pos ⟨rfl, by rw [hfull]; rfl⟩

/-- Settles O5: a full table turns away whatever owner a request has, and the form checks look at code and length. -/
theorem requestsAreAdmitted : Obligations.RequestsAreAdmitted := ⟨fullTableTurnsRequestsAway, badFormsAreAnswered⟩

end Sys2Proof.Machine

/-! The frame parser, byte by byte and over a whole frame, and the request layouts read back (sections 11.2 to 11.5,
11.7).

A frame goes through the parser in four stretches: the marker, the header of four bytes, the payload, and the two check
bytes. At each byte the state is the quiet one with the parser's three fields set, so the stretches compose. -/

namespace Sys2Proof

open Bytes

/-! ### Request payloads read back (R182) -/

theorem lt_of_fits {n x : Nat} (h : fits n x = true) : x < 256 ^ n := of_decide_eq_true h

/-- A field that fits its place is read and the rest goes on. -/
theorem readFields_of_fits {n x : Nat} (h : fits n x = true) (ns : List Nat) (rest : List Byte) :
    readFields (n :: ns) (le n x ++ rest) = (readFields ns rest).map (x :: ·) := readFields_le (lt_of_fits h) ns rest

/-- The last field of a fixed layout. -/
theorem readFields_last {n x : Nat} (h : fits n x = true) : readFields [n] (le n x) = some [x] := by
  have := readFields_of_fits h [] []
  rwa [List.append_nil] at this

theorem Extent.length_bytes (x : Extent) : x.bytes.length = 10 := by simp [Extent.bytes]

theorem readExtents_flatMap {xs : List Extent} (h : ∀ x ∈ xs, x.wellFormed = true) (rest : List Byte) :
    readExtents xs.length (xs.flatMap Extent.bytes ++ rest) = some (xs, rest) := by
  induction xs with
  | nil => rfl
  | cons x xs ih =>
    have hx : fits 6 x.start = true ∧ fits 4 x.count = true := Bool.and_eq_true_iff.1 (h x (by simp))
    have hrest := ih fun y hy => h y (by simp [hy])
    have hlen : ¬((x :: xs).flatMap Extent.bytes ++ rest).length < 10 := by
      simp [Extent.length_bytes]
    have hdrop : ((x :: xs).flatMap Extent.bytes ++ rest).drop 10 = xs.flatMap Extent.bytes ++ rest := by
      rw [List.flatMap_cons, List.append_assoc, List.drop_left' x.length_bytes]
    have hstart : ((x :: xs).flatMap Extent.bytes ++ rest).take 6 = le 6 x.start := by
      simp [List.flatMap_cons, Extent.bytes, List.append_assoc, List.take_left' (le_length 6 x.start)]
    have hcount : (((x :: xs).flatMap Extent.bytes ++ rest).drop 6).take 4 = le 4 x.count := by
      simp [List.flatMap_cons, Extent.bytes, List.append_assoc, List.drop_left' (le_length 6 x.start),
        List.take_left' (le_length 4 x.count)]
    rw [List.length_cons, readExtents, if_neg hlen, hdrop, hrest]
    simp only [hstart, hcount, ofLe_le (lt_of_fits hx.1), ofLe_le (lt_of_fits hx.2)]

theorem ClipEntry.length_bytes (x : ClipEntry) : x.bytes.length = x.size := by
  have hextents : (x.extents.flatMap Extent.bytes).length = 10 * x.extents.length := by
    simp [List.length_flatMap, Extent.length_bytes, Nat.mul_comm]
  simp only [ClipEntry.bytes, ClipEntry.size, List.length_append, le_length, hextents]

theorem readEntry_bytes {x : ClipEntry} (h : x.wellFormed = true) (rest : List Byte) :
    readEntry (x.bytes ++ rest) = some (x, rest) := by
  simp only [ClipEntry.wellFormed, Bool.and_eq_true, List.all_eq_true] at h
  obtain ⟨⟨⟨hlength, hextents⟩, htoken⟩, hall⟩ := h
  have hform : x.bytes ++ rest = le 5 x.length ++ (le 1 x.extents.length ++ (le 1 x.token.length
      ++ (x.token ++ (x.extents.flatMap Extent.bytes ++ rest)))) := by
    simp [ClipEntry.bytes, List.append_assoc]
  have hlen : ¬(x.bytes ++ rest).length < 7 := by
    rw [List.length_append, ClipEntry.length_bytes, ClipEntry.size]
    omega
  have h5 : (x.bytes ++ rest).take 5 = le 5 x.length := by rw [hform, List.take_left' (le_length _ _)]
  have h6 : ((x.bytes ++ rest).drop 5).take 1 = le 1 x.extents.length := by
    rw [hform, List.drop_left' (le_length _ _), List.take_left' (le_length _ _)]
  have h7 : ((x.bytes ++ rest).drop 6).take 1 = le 1 x.token.length := by
    rw [hform, ← List.append_assoc, List.drop_left' (by simp), List.take_left' (le_length _ _)]
  have h8 : (x.bytes ++ rest).drop 7 = x.token ++ (x.extents.flatMap Extent.bytes ++ rest) := by
    rw [hform, ← List.append_assoc, ← List.append_assoc, List.drop_left' (by simp)]
  simp only [readEntry, if_neg hlen, h5, h6, h7, h8, ofLe_le (lt_of_fits hlength), ofLe_le (lt_of_fits hextents),
    ofLe_le (lt_of_fits htoken), List.drop_left, List.take_left, readExtents_flatMap hall]
  rw [if_neg (by simp)]

theorem readEntries_flatMap {xs : List ClipEntry} (h : ∀ x ∈ xs, x.wellFormed = true) :
    readEntries xs.length (xs.flatMap ClipEntry.bytes) = some (xs, []) := by
  induction xs with
  | nil => rfl
  | cons x xs ih =>
    rw [List.length_cons, List.flatMap_cons, readEntries, readEntry_bytes (h x (by simp))]
    simp only [ih fun y hy => h y (by simp [hy])]

theorem le_one (x : Nat) : le 1 x = [BitVec.ofNat 8 x] := rfl

theorem toNat_ofNat_of_fits {x : Nat} (h : fits 1 x = true) : (BitVec.ofNat 8 x).toNat = x := by
  have := lt_of_fits h
  rw [BitVec.toNat_ofNat]
  omega

theorem readClipAdd_bytes {tag : Byte} {j : Nat} {xs : List ClipEntry} (hj : fits 1 j = true)
    (hn : fits 1 xs.length = true) (hxs : ∀ x ∈ xs, x.wellFormed = true) :
    readClipAdd tag (le 1 j ++ le 1 xs.length ++ xs.flatMap ClipEntry.bytes) = .good (.clipAdd tag j xs) := by
  rw [le_one, le_one]
  simp only [List.cons_append, List.nil_append, readClipAdd, toNat_ofNat_of_fits hj, toNat_ofNat_of_fits hn,
    readEntries_flatMap hxs]

theorem length_clipAdd_bytes (j : Nat) (xs : List ClipEntry) :
    (le 1 j ++ le 1 xs.length ++ xs.flatMap ClipEntry.bytes).length = clipAddSize xs := by
  have hsizes : (xs.flatMap ClipEntry.bytes).length = (xs.map ClipEntry.size).sum := by
    rw [List.length_flatMap]
    exact congrArg (fun f => (xs.map f).sum) (funext ClipEntry.length_bytes)
  simp only [List.length_append, le_length, hsizes, clipAddSize]

/-- The layouts of section 11.7 lose no field: the fields of a fixed layout are read one after the other. -/
theorem decodeRequest_encodeRequest {i : Instr} {code : Nat} {tag : Byte} {payload : List Byte}
    (hw : i.wellFormed = true) (h : encodeRequest i = some (code, tag, payload)) :
    decodeRequest code tag payload = .good i ∧ code < 64 ∧ payload.length ≤ 4096 := by
  cases i with
  | clipAdd t j xs =>
    simp only [Instr.wellFormed, Bool.and_eq_true, List.all_eq_true, decide_eq_true_eq] at hw
    obtain ⟨⟨⟨hj, hn⟩, hxs⟩, hsize⟩ := hw
    simp only [encodeRequest, Option.some.injEq, Prod.mk.injEq] at h
    obtain ⟨rfl, rfl, rfl⟩ := h
    exact ⟨readClipAdd_bytes hj hn hxs, by decide, by rw [length_clipAdd_bytes]; exact hsize⟩
  | clipQuery t key =>
    cases key with
    | byNumber c =>
      simp only [encodeRequest, Option.some.injEq, Prod.mk.injEq] at h
      obtain ⟨rfl, rfl, rfl⟩ := h
      refine ⟨?_, by decide, by simp⟩
      simp [decodeRequest, readClipQuery, le_one, ofLe_le (lt_of_fits hw)]
    | byTag f l =>
      obtain ⟨hf, hl⟩ := Bool.and_eq_true_iff.1 hw
      simp only [encodeRequest, Option.some.injEq, Prod.mk.injEq] at h
      obtain ⟨rfl, rfl, rfl⟩ := h
      refine ⟨?_, by decide, by simp⟩
      simp [decodeRequest, readClipQuery, le_one, List.take_left' (be_length 4 f), List.drop_left' (be_length 4 f),
        ofBe_be (lt_of_fits hf), ofLe_le (lt_of_fits hl)]
  | _ =>
    simp only [encodeRequest, Option.some.injEq, Prod.mk.injEq, reduceCtorEq] at h
    try
      obtain ⟨rfl, rfl, rfl⟩ := h
      simp only [Instr.wellFormed, Bool.and_eq_true, List.all_cons, List.all_nil, Bool.and_true] at hw
      refine ⟨?_, by decide, by simp⟩
      simp [decodeRequest, readFixed, readFields_of_fits, readFields_last, hw, one, noFields, readFields.eq_1]

end Sys2Proof

namespace Sys2Proof.Machine

/-! ### The parser, byte by byte (R169, R170) -/

theorem exec_bulkOutByte (b : Byte) (s : State) : exec (.bulkOutByte b) s = takeByte b s.quiet := rfl

/-- The length a header announces is read from its third and fourth bytes, 0 where they are missing. -/
theorem headerLength_eq_announced (buf : List Byte) : headerLength buf = announced buf := by
  match buf with
  | [] => rfl
  | [_] => rfl
  | [_, _] => rfl
  | [_, _, x] => simp [headerLength, announced, Bytes.ofLe]
  | _ :: _ :: x :: y :: rest => simp [headerLength, announced, Bytes.ofLe]

/-- The parser's fields as they stand already. -/
theorem State.setParser_self {s : State} {st : ParserState} {buf : List Byte} {stall : Bool} (hp : s.link.parser = st)
    (hb : s.link.buf = buf) (hs : s.link.stall = stall) : s.setParser st buf stall = s := by
  subst hp hb hs
  rfl

theorem takeByte_hunt {s : State} (h : s.link.Hunting) (b : Byte) :
    takeByte b s = .next (s.setParser (if b = 0xB5 then .mark else .hunt) [] false) := by
  obtain ⟨hp, hb, hs⟩ := h
  simp only [takeByte, hp]
  split_ifs
  · rfl
  · rw [State.setParser_self hp hb hs]

theorem takeByte_mark {s : State} (hp : s.link.parser = .mark) (hb : s.link.buf = []) (hs : s.link.stall = false)
    (b : Byte) :
    takeByte b s = .next (s.setParser (if b = 0x4A then .head else if b = 0xB5 then .mark else .hunt) []
      (decide (b = 0x4A))) := by
  simp only [takeByte, hp]
  split_ifs with h1 h2
  · simp [h1]
  · rw [decide_eq_false h1, State.setParser_self hp hb hs]
  · rw [decide_eq_false h1]
    rfl

theorem huntAndMark : HuntAndMark := by
  intro b s hb hs
  simp only [exec_bulkOutByte]
  have hquiet : s.quiet.link = s.link := rfl
  refine ⟨fun hp => ?_, fun hp => ?_⟩
  · rw [takeByte_hunt (s := s.quiet) ⟨hp, hb, hs⟩, State.setParser, hquiet, hb, hs]
  · rw [takeByte_mark (s := s.quiet) hp hb hs, State.setParser, hquiet, hb]

section Collecting

variable {s : State} {b : Byte}

theorem takeByte_head (hp : s.link.parser = .head) : takeByte b s =
    .next (if (s.link.buf ++ [b]).length < 4 then s.setParser .head (s.link.buf ++ [b]) true
      else endHead (s.link.buf ++ [b]) s) := by
  simp only [takeByte, hp, apply_ite Host.Outcome.next]

theorem takeByte_body (hp : s.link.parser = .body) : takeByte b s =
    .next (if (s.link.buf ++ [b]).length < 4 + announced (s.link.buf ++ [b])
      then s.setParser .body (s.link.buf ++ [b]) true else s.setParser .check (s.link.buf ++ [b]) true) := by
  simp only [takeByte, hp, headerLength_eq_announced, apply_ite Host.Outcome.next]

theorem takeByte_check (hp : s.link.parser = .check) : takeByte b s =
    if (s.link.buf ++ [b]).length < 6 + announced (s.link.buf ++ [b])
      then .next (s.setParser .check (s.link.buf ++ [b]) true) else endCheck (s.link.buf ++ [b]) s := by
  simp only [takeByte, hp, headerLength_eq_announced]

end Collecting

theorem endHead_eq (buf : List Byte) (s : State) : endHead buf s =
    if 4096 < announced buf then s.hunt
    else if announced buf = 0 then s.setParser .check buf true else s.setParser .body buf true := by
  rw [endHead, headerLength_eq_announced]
  rfl

/-- A frame whose check disagrees raises LINK_CHECK. -/
theorem endCheck_of_ne {buf : List Byte}
    (h : buf.drop (4 + announced buf) ≠ Bytes.be 2 (Bytes.crc (buf.take (4 + announced buf))).toNat) (s : State) :
    endCheck buf s = .next (s.hunt.raise linkCheck) := by
  simp only [endCheck, headerLength_eq_announced, if_neg h]

/-- A frame whose check agrees is taken. -/
theorem endCheck_of_eq {kind tag l0 l1 : Byte} {rest : List Byte}
    (h : (kind :: tag :: l0 :: l1 :: rest).drop (4 + announced (kind :: tag :: l0 :: l1 :: rest))
      = Bytes.be 2 (Bytes.crc ((kind :: tag :: l0 :: l1 :: rest).take
          (4 + announced (kind :: tag :: l0 :: l1 :: rest)))).toNat) (s : State) :
    endCheck (kind :: tag :: l0 :: l1 :: rest) s
      = takeFrame kind tag (rest.take (announced (kind :: tag :: l0 :: l1 :: rest))) s.hunt := by
  simp only [endCheck, headerLength_eq_announced, if_pos h]

theorem takeFrame_of_no_request {kind : Byte} (h : 64 ≤ kind.toNat) (tag : Byte) (payload : List Byte) (s : State) :
    takeFrame kind tag payload s = .next s := by
  rw [takeFrame, if_neg (by omega)]

/-- A frame whose check agrees, but whose kind byte is that of no request, is discarded. -/
theorem endCheck_of_no_request {buf : List Byte}
    (h : buf.drop (4 + announced buf) = Bytes.be 2 (Bytes.crc (buf.take (4 + announced buf))).toNat)
    (hkind : 64 ≤ (buf.getD 0 0).toNat) (s : State) : endCheck buf s = .next s.hunt := by
  simp only [endCheck, headerLength_eq_announced, if_pos h]
  split
  · exact takeFrame_of_no_request hkind _ _ _
  · rfl

theorem framesAreCollected : FramesAreCollected := by
  intro b s buf stay hunt
  simp only [exec_bulkOutByte]
  have hbuf : s.quiet.link.buf ++ [b] = buf := rfl
  refine ⟨fun hp => ⟨fun hlt => ?_, fun heq => ?_⟩, fun hp => ?_, fun hp => ⟨fun hlt => ?_, fun heq => ?_⟩⟩
  · rw [takeByte_head (s := s.quiet) hp, hbuf, if_pos hlt]
    rfl
  · rw [takeByte_head (s := s.quiet) hp, hbuf, if_neg (by omega), endHead_eq]
    rfl
  · rw [takeByte_body (s := s.quiet) hp, hbuf]
    rfl
  · rw [takeByte_check (s := s.quiet) hp, hbuf, if_pos hlt]
    rfl
  · rw [takeByte_check (s := s.quiet) hp, hbuf, if_neg (by omega)]
    exact ⟨fun hne => endCheck_of_ne hne _, fun hcrc hkind => endCheck_of_no_request hcrc hkind _⟩

/-! ### The stall timer and the bulk-in pipe (R171, R176) -/

theorem stallTimerDiscardsTheFrame : StallTimerDiscardsTheFrame := by
  intro s
  change execStallTimerExpiry s = _
  unfold execStallTimerExpiry
  split <;> rfl

theorem bulkInTakesTheOldestFrame : BulkInTakesTheOldestFrame := by
  intro s
  change (_ → execFrameTakenBulkIn s = _) ∧ ∀ f rest, _ → execFrameTakenBulkIn s = _
  refine ⟨fun h => ?_, fun f rest h => ?_⟩
  · simp only [execFrameTakenBulkIn, h]
  · simp only [execFrameTakenBulkIn, h]
    cases hf : f.owner <;> rfl

/-- Settles O6: the parser's four states, its timer, and the oldest frame of the queue. -/
theorem linkTakesAndGivesBytes : Obligations.LinkTakesAndGivesBytes :=
  ⟨huntAndMark, framesAreCollected, stallTimerDiscardsTheFrame, bulkInTakesTheOldestFrame⟩

/-- Settles O3: the layouts are read back field by field. -/
theorem requestsReadAsWritten : Obligations.RequestsReadAsWritten := fun _ _ _ _ => decodeRequest_encodeRequest

/-! ### A frame through the parser (R169, R170) -/

/-- The state in the middle of a frame: nothing on the lines, the parser's fields as given. -/
theorem exec_bulkOutByte_setParser (b : Byte) (s : State) (st : ParserState) (buf : List Byte) (stall : Bool) :
    exec (.bulkOutByte b) (s.quiet.setParser st buf stall) = takeByte b (s.quiet.setParser st buf stall) := rfl

theorem feedBytes_cons {b : Byte} {s t : State} (h : exec (.bulkOutByte b) s = .next t) (bs : List Byte) :
    feedBytes (b :: bs) s = feedBytes bs t := by
  rw [feedBytes, h]

theorem State.setParser_setParser (s : State) (st st' : ParserState) (buf buf' : List Byte) (stall stall' : Bool) :
    (s.setParser st buf stall).setParser st' buf' stall' = s.setParser st' buf' stall' := rfl

theorem feedBytes_single (b : Byte) (s : State) : feedBytes [b] s = exec (.bulkOutByte b) s := by
  rw [feedBytes]
  cases exec (.bulkOutByte b) s <;> rfl

theorem feedBytes_marker {s : State} (h : s.link.Hunting) (bs : List Byte) :
    feedBytes (0xB5 :: 0x4A :: bs) s = feedBytes bs (s.quiet.setParser .head [] true) := by
  have hmark : exec (.bulkOutByte 0xB5) s = .next (s.quiet.setParser .mark [] false) :=
    takeByte_hunt (s := s.quiet) h 0xB5
  have hhead : exec (.bulkOutByte 0x4A) (s.quiet.setParser .mark [] false)
      = .next (s.quiet.setParser .head [] true) :=
    takeByte_mark (s := s.quiet.setParser .mark [] false) rfl rfl rfl 0x4A
  rw [feedBytes_cons hmark, feedBytes_cons hhead]

theorem feedBytes_head (kind tag l0 l1 : Byte) (bs : List Byte) (s : State) :
    feedBytes (kind :: tag :: l0 :: l1 :: bs) (s.quiet.setParser .head [] true)
      = feedBytes bs (endHead [kind, tag, l0, l1] (s.quiet.setParser .head [kind, tag, l0] true)) := by
  have hstay (b : Byte) (buf : List Byte) (h : (buf ++ [b]).length < 4) :
      exec (.bulkOutByte b) (s.quiet.setParser .head buf true)
        = .next (s.quiet.setParser .head (buf ++ [b]) true) := by
    rw [exec_bulkOutByte_setParser, takeByte_head rfl]
    exact congrArg _ (if_pos h)
  have hend : exec (.bulkOutByte l1) (s.quiet.setParser .head [kind, tag, l0] true)
      = .next (endHead [kind, tag, l0, l1] (s.quiet.setParser .head [kind, tag, l0] true)) := by
    rw [exec_bulkOutByte_setParser, takeByte_head rfl]
    rfl
  calc feedBytes (kind :: tag :: l0 :: l1 :: bs) (s.quiet.setParser .head [] true)
    _ = feedBytes (tag :: l0 :: l1 :: bs) (s.quiet.setParser .head [kind] true) :=
        feedBytes_cons (hstay kind [] (by simp)) _
    _ = feedBytes (l0 :: l1 :: bs) (s.quiet.setParser .head [kind, tag] true) :=
        feedBytes_cons (hstay tag [kind] (by simp)) _
    _ = feedBytes (l1 :: bs) (s.quiet.setParser .head [kind, tag, l0] true) :=
        feedBytes_cons (hstay l0 [kind, tag] (by simp)) _
    _ = _ := feedBytes_cons hend bs

/-- The header stands in the first four bytes. -/
theorem announced_append {buf : List Byte} (h : 4 ≤ buf.length) (bs : List Byte) :
    announced (buf ++ bs) = announced buf := by
  simp only [announced, List.getD_eq_getElem?_getD]
  rw [List.getElem?_append_left (by omega), List.getElem?_append_left (by omega)]

theorem feedBytes_body {s : State} {rest : List Byte} (hne : rest ≠ []) {buf : List Byte} (h4 : 4 ≤ buf.length)
    (hlen : buf.length + rest.length = 4 + announced buf) (tail : List Byte) :
    feedBytes (rest ++ tail) (s.quiet.setParser .body buf true)
      = feedBytes tail (s.quiet.setParser .check (buf ++ rest) true) := by
  induction rest generalizing buf with
  | nil => exact absurd rfl hne
  | cons b rest ih =>
    have hbuf : (s.quiet.setParser .body buf true).link.buf ++ [b] = buf ++ [b] := rfl
    have hbyte : exec (.bulkOutByte b) (s.quiet.setParser .body buf true) = _ :=
      (exec_bulkOutByte_setParser b s _ _ _).trans (takeByte_body rfl)
    rw [hbuf, announced_append h4, State.setParser_setParser, State.setParser_setParser] at hbyte
    simp only [List.length_append, List.length_cons, List.length_nil] at hbyte hlen
    rw [List.cons_append]
    cases rest with
    | nil =>
      simp only [List.length_nil] at hlen
      rw [if_neg (by omega)] at hbyte
      exact feedBytes_cons hbyte _
    | cons b' rest =>
      simp only [List.length_cons] at hlen
      rw [if_pos (by omega)] at hbyte
      have hnext : (buf ++ [b]).length + (b' :: rest).length = 4 + announced (buf ++ [b]) := by
        rw [announced_append h4]
        simp only [List.length_append, List.length_cons, List.length_nil]
        omega
      rw [feedBytes_cons hbyte]
      have := ih (by simp) (buf := buf ++ [b]) (by simp; omega) hnext
      rwa [List.append_assoc] at this

theorem feedBytes_check {s : State} {buf : List Byte} (h4 : 4 ≤ buf.length) (hlen : buf.length = 4 + announced buf)
    (c0 c1 : Byte) :
    feedBytes [c0, c1] (s.quiet.setParser .check buf true)
      = endCheck (buf ++ [c0, c1]) (s.quiet.setParser .check (buf ++ [c0]) true) := by
  have hfirst : exec (.bulkOutByte c0) (s.quiet.setParser .check buf true) = _ :=
    (exec_bulkOutByte_setParser c0 s _ _ _).trans (takeByte_check rfl)
  have hsecond : exec (.bulkOutByte c1) (s.quiet.setParser .check (buf ++ [c0]) true) = _ :=
    (exec_bulkOutByte_setParser c1 s _ _ _).trans (takeByte_check rfl)
  have hbuf0 : (s.quiet.setParser .check buf true).link.buf ++ [c0] = buf ++ [c0] := rfl
  have hbuf1 : (s.quiet.setParser .check (buf ++ [c0]) true).link.buf ++ [c1] = buf ++ [c0, c1] :=
    List.append_assoc buf [c0] [c1]
  rw [hbuf0, announced_append h4, if_pos (by simp; omega), State.setParser_setParser] at hfirst
  rw [hbuf1, announced_append h4, if_neg (by simp; omega)] at hsecond
  rw [feedBytes_cons hfirst, feedBytes_single, hsecond]

/-- The header and the payload of a frame, as the check is formed over them. -/
def frameBody (kind tag : Byte) (payload : List Byte) : List Byte :=
  kind :: tag :: (Bytes.le 2 payload.length ++ payload)

theorem announced_frameBody {payload : List Byte} (h : payload.length ≤ 4096) (kind tag : Byte) :
    announced (frameBody kind tag payload) = payload.length := by
  rw [← headerLength_eq_announced]
  change Bytes.ofLe (Bytes.le 2 payload.length) = _
  exact Bytes.ofLe_le (by omega)

theorem length_frameBody (kind tag : Byte) (payload : List Byte) :
    (frameBody kind tag payload).length = 4 + payload.length := by
  simp [frameBody]
  omega

/-- A frame's bytes up to its check leave the parser in CHECK with them in its buffer. -/
theorem feedBytes_frameBody {payload : List Byte} (h : payload.length ≤ 4096) (kind tag : Byte) (tail : List Byte)
    (s : State) :
    feedBytes (frameBody kind tag payload ++ tail) (s.quiet.setParser .head [] true)
      = feedBytes tail (s.quiet.setParser .check (frameBody kind tag payload) true) := by
  have hheader : announced [kind, tag, BitVec.ofNat 8 payload.length, BitVec.ofNat 8 (payload.length / 256)]
      = payload.length := announced_frameBody h kind tag
  have hform : frameBody kind tag payload ++ tail
      = kind :: tag :: BitVec.ofNat 8 payload.length :: BitVec.ofNat 8 (payload.length / 256) :: (payload ++ tail) := rfl
  rw [hform, feedBytes_head, endHead_eq, hheader, if_neg (by omega)]
  split_ifs with hzero
  · obtain rfl := List.length_eq_zero_iff.1 hzero
    rfl
  · exact feedBytes_body (fun hnil => hzero (by rw [hnil]; rfl)) (by simp) (by rw [hheader]; rfl) tail

/-- A whole frame, sent to a parser that stands between frames, is taken by the class of its kind byte. -/
theorem feedBytes_frameBytes {payload : List Byte} (h : payload.length ≤ 4096) (kind tag : Byte) {s : State}
    (hs : s.link.Hunting) : feedBytes (frameBytes kind tag payload) s = takeFrame kind tag payload s.quiet := by
  obtain ⟨c0, c1, hcheck⟩ : ∃ c0 c1, Bytes.be 2 (Bytes.crc (frameBody kind tag payload)).toNat = [c0, c1] := ⟨_, _, rfl⟩
  have hannounced : announced (frameBody kind tag payload ++ [c0, c1]) = payload.length := by
    rw [announced_append (by rw [length_frameBody]; omega), announced_frameBody h]
  have hlen : (frameBody kind tag payload).length = 4 + payload.length := length_frameBody kind tag payload
  have hagrees : (frameBody kind tag payload ++ [c0, c1]).drop (4 + payload.length)
      = Bytes.be 2 (Bytes.crc ((frameBody kind tag payload ++ [c0, c1]).take (4 + payload.length))).toNat := by
    rw [List.drop_left' hlen, List.take_left' hlen, hcheck]
  have hframe : frameBytes kind tag payload = 0xB5 :: 0x4A :: (frameBody kind tag payload ++ [c0, c1]) := by
    rw [← hcheck]
    rfl
  have hhunt : (s.quiet.setParser .check (frameBody kind tag payload ++ [c0]) true).hunt = s.quiet :=
    State.setParser_self (s := s.quiet) hs.1 hs.2.1 hs.2.2
  rw [hframe, feedBytes_marker hs, feedBytes_frameBody h,
    feedBytes_check (by omega) (by rw [announced_frameBody h, hlen]), ← hhunt]
  rw [← hannounced] at hagrees
  refine (endCheck_of_eq hagrees _).trans ?_
  have hpayload : (payload ++ [c0, c1]).take payload.length = payload := List.take_left
  exact congrArg (takeFrame kind tag · _) ((congrArg (List.take · _) hannounced).trans hpayload)

/-- A request framed means what the command means. -/
theorem requestMeaning_quiet {i : Instr} {x : Nat × Byte × List Byte} (h : encodeRequest i = some x) (s : State) :
    requestMeaning i s.quiet = exec i s := by
  cases i with
  | clipQuery t key => rfl
  | _ => first | rfl | cases h

/-- Settles O2: the frame passes the parser whole, and its payload is read back as the request it was written from. -/
theorem frameRunsItsRequest : Obligations.FrameRunsItsRequest := by
  intro i bytes s hw hframe hs
  obtain ⟨⟨code, tag, payload⟩, hcode, rfl⟩ := Option.map_eq_some_iff.1 hframe
  obtain ⟨hdecode, hlt, hlen⟩ := decodeRequest_encodeRequest hw hcode
  have hkind : (Bytes.u8 code).toNat = code := by
    rw [Bytes.u8, BitVec.toNat_ofNat]
    omega
  rw [feedBytes_frameBytes hlen _ _ hs, takeFrame, hkind, if_pos hlt, admitRequest, hdecode]
  exact requestMeaning_quiet hcode s

end Sys2Proof.Machine

/-! What a write to one record leaves of the others, and the statements of chapters 5 and 6 that no event runs
behind: allocation, drives coming and going, the arbiter's choice and its grants. -/

namespace Sys2Proof.Machine

/-! ### Records after a write -/

theorem State.dest_modDest (s : State) (d : DestNo) (f : DestPort → DestPort) (e : DestNo) :
    (s.modDest d f).dest e = if e = d then f (s.dest d) else s.dest e := by
  split
  · subst e; exact s.dest_modDest_self d f
  · exact s.dest_modDest_of_ne (Ne.symm ‹_›) f

theorem State.dest_moveDest (s : State) (d : DestNo) (f : DestPort → DestPort) (e : DestNo) :
    (s.moveDest d f).dest e = if e = d then f (s.dest d) else s.dest e := s.dest_modDest d f e

theorem State.setDest_setDest (s : State) (d : DestNo) (x y : DestPort) : (s.setDest d x).setDest d y = s.setDest d y := by
  simp [State.setDest]

/-- A destination changed after it was written is the one written, changed. -/
theorem State.modDest_setDest (s : State) (d : DestNo) (x : DestPort) (f : DestPort → DestPort) :
    (s.setDest d x).modDest d f = s.setDest d (f x) := by
  simp only [State.modDest, State.dest_setDest_self, State.setDest_setDest]

theorem State.clip_setClip (s : State) (c : Nat) (x : Clip) (c' : Nat) :
    (s.setClip c x).clip? c' = if c' = c then some x else s.clip? c' := by
  split
  · subst c'; exact Table.find_insert_self _ _ _
  · exact Table.find_insert_of_ne ‹_› _ _

theorem State.clip_modClip (s : State) (c : Nat) (f : Clip → Clip) (c' : Nat) :
    (s.modClip c f).clip? c' = if c' = c then (s.clip? c).map f else s.clip? c' := by
  unfold State.modClip
  split
  · rename_i h
    split
    · subst c'; rw [h]; rfl
    · rfl
  · rename_i x h
    rw [State.clip_setClip, h]; rfl

theorem State.clip_setCopy (s : State) (c : Nat) (d : DestNo) (k : Copy) (c' : Nat) :
    (s.setCopy c d k).clip? c'
      = if c' = c then (s.clip? c).map fun x => { x with copies := x.copies.set d (some k) } else s.clip? c' :=
  s.clip_modClip c _ c'

theorem Vector.getElem_set_fin {α : Type} {n : Nat} (v : Vector α n) (d e : Fin n) (k : α) :
    (v.set d k)[e] = if e = d then k else v[e] := by
  simp only [Fin.getElem_fin, Vector.getElem_set, Fin.ext_iff, eq_comm]

/-- The copies of a clip in use after one of them is set. -/
theorem State.copy_setCopy {s : State} {c : Nat} {x : Clip} (hx : s.clip? c = some x) (d : DestNo) (k : Copy) (c' : Nat)
    (d' : DestNo) : (s.setCopy c d k).copy? c' d' = if c' = c ∧ d' = d then some k else s.copy? c' d' := by
  rw [State.copy?, State.clip_setCopy, State.copy?]
  by_cases hc : c' = c
  · subst hc
    simp only [hx, if_true, true_and, Option.map_some, Option.bind_some, Vector.getElem_set_fin]
  · simp [hc]

/-- The copies after one of them is changed. -/
theorem State.copy_modCopy (s : State) (c : Nat) (d : DestNo) (f : Copy → Copy) (c' : Nat) (d' : DestNo) :
    (s.modCopy c d f).copy? c' d' = if c' = c ∧ d' = d then (s.copy? c d).map f else s.copy? c' d' := by
  unfold State.modCopy
  split
  · rename_i h
    split
    · rename_i he
      obtain ⟨rfl, rfl⟩ := he
      rw [h]; rfl
    · rfl
  · rename_i k h
    obtain ⟨x, hx, -⟩ := State.copy_some_iff.1 h
    rw [State.copy_setCopy hx, h]; rfl

/-! ### Places (O18) -/

theorem unitCount_eq (n : Nat) : unitCount n = clipUnits n := by
  rw [unitCount, clipUnits, unitBytes, show n + 1048576 - 1 = n + 1048575 by omega]

theorem allocationRules : AllocationRules := by
  intro x b n hb D C
  have hD : b.dataUnits = D := rfl
  have hC : b.ceiling = C := rfl
  refine ⟨fun ha => ⟨fun h => ?_, fun h => ?_⟩, fun hf => ?_, fun _ => ⟨fun h => ?_, fun h ht => ?_, fun h ht => ?_⟩⟩ <;>
    simp only [DestPort.allocate, hb, hD, hC]
  · rw [if_pos trivial, ha, if_neg (by decide), if_pos h]
  · rw [if_pos trivial, ha, if_neg (by decide), if_neg (by omega)]
  · rw [if_pos trivial, if_pos hf]
  · rw [if_neg (by decide), if_pos h]
  · rw [if_neg (by decide), if_neg (by omega), if_pos ht]
  · rw [if_neg (by decide), if_neg (by omega), if_neg (by omega)]

/-- A plan copy that is placed: the new copy, then its place. -/
theorem State.planCopy_placed {s : State} {c : Nat} {d : DestNo} {x : Clip} (hx : s.clip? c = some x) {w : Window} {t : Nat}
    (h : (s.dest d).allocate 1 (clipUnits x.length) = .placed w t) :
    s.planCopy c d = (s.setCopy c d (Copy.fresh .noSpace .plan 1)).place d c w t := by
  simp only [State.planCopy, hx, Option.elim, unitCount_eq, h]

/-- A plan copy without room on an ACTIVE destination. -/
theorem State.planCopy_noRoom {s : State} {c : Nat} {d : DestNo} {x : Clip} (hx : s.clip? c = some x)
    (h : (s.dest d).allocate 1 (clipUnits x.length) = .noRoom true) :
    s.planCopy c d = (s.setCopy c d (Copy.fresh .noSpace .plan 1)).fillDest d c := by
  simp only [State.planCopy, hx, Option.elim, unitCount_eq, h]

theorem State.job_of_setCopy {s : State} {c : Nat} {x : Clip} (hx : s.clip? c = some x) (d : DestNo) (k : Copy) :
    ((s.setCopy c d k).clip? c).map (·.job) = some x.job := by
  rw [State.clip_setCopy, if_pos rfl, hx]; rfl

theorem State.copy_congr {s t : State} (h : t.clips = s.clips) (c : Nat) (d : DestNo) : t.copy? c d = s.copy? c d := by
  unfold State.copy?; rw [State.clip_congr h]

/-! ### What an occurrence leaves alone -/

theorem State.raise_clips (s : State) (o : Occurrence) : (s.raise o).clips = s.clips := (s.raise_onlyJobs o).clips
theorem State.raise_dests (s : State) (o : Occurrence) : (s.raise o).dests = s.dests := (s.raise_onlyJobs o).dests
theorem State.raise_ports (s : State) (o : Occurrence) : (s.raise o).ports = s.ports := (s.raise_onlyJobs o).ports
theorem State.raise_plan (s : State) (o : Occurrence) : (s.raise o).plan = s.plan := (s.raise_onlyJobs o).plan
theorem State.raise_manifest (s : State) (o : Occurrence) : (s.raise o).manifest = s.manifest :=
  (s.raise_onlyJobs o).manifest
theorem State.raise_freeList (s : State) (o : Occurrence) : (s.raise o).ring.freeList = s.ring.freeList :=
  (s.raise_onlyJobs o).freeList

theorem State.dest_raise (s : State) (o : Occurrence) (d : DestNo) : (s.raise o).dest d = s.dest d :=
  State.dest_congr (s.raise_dests o) d

/-- What a destination that fills leaves: its own state, the occurrence taken, and jobs at the HOLD route's mercy. -/
theorem State.fillDest_spec (s : State) (d : DestNo) (c : Nat) :
    let t := s.fillDest d c
    (∀ e, t.dest e = if e = d then { s.dest d with state := .full } else s.dest e) ∧ t.clips = s.clips
      ∧ t.ports = s.ports ∧ t.ring.held = s.ring.held ∧ t.ring.freeList = s.ring.freeList ∧ t.plan = s.plan
      ∧ t.manifest = s.manifest ∧ t.pending = s.pending
      ∧ t.faults = s.faults.take ⟨.destFull, (s.clip? c).map (·.job), some c, some d, none, .noRoom⟩ := by
  intro t
  have h := State.raise_onlyJobs (s.moveDest d fun x => { x with state := .full })
    ⟨.destFull, (s.clip? c).map (·.job), some c, some d, none, .noRoom⟩
  refine ⟨fun e => ?_, h.clips, h.ports, h.held, h.freeList, h.plan, h.manifest, h.pending, h.faults⟩
  exact (State.dest_raise _ _ e).trans (s.dest_moveDest d _ e)

theorem planCopyIsPlaced : PlanCopyIsPlaced := by
  intro s c d x b hx ha hb n C t copy
  obtain ⟨hact, -⟩ := allocationRules (s.dest d) b n hb
  obtain ⟨hplaced, hfull⟩ := hact ha
  by_cases hroom : b.nextUnit + n ≤ C ∧ b.nextTrailer < b.strip
  · have ht : t = (s.setCopy c d (Copy.fresh .noSpace .plan 1)).place d c ⟨b.nextUnit, n⟩ b.nextTrailer :=
      State.planCopy_placed hx (hplaced hroom)
    have hcopy (c' : Nat) (d' : DestNo) :
        t.copy? c' d' = if c' = c ∧ d' = d then
          some (copy .writing (some ⟨b.nextUnit, n⟩) (some b.nextTrailer)) else s.copy? c' d' := by
      rw [ht, State.place, State.copy_modCopy]
      change (if c' = c ∧ d' = d then
          ((s.setCopy c d (Copy.fresh .noSpace .plan 1)).copy? c d).map _ else
          (s.setCopy c d (Copy.fresh .noSpace .plan 1)).copy? c' d') = _
      rw [State.copy_setCopy hx, State.copy_setCopy hx]
      split
      · simp [Copy.fresh, copy]
      · rfl
    have hdest (e : DestNo) : t.dest e = if e = d then
        { s.dest d with binding := some { b with nextUnit := b.nextUnit + n, nextTrailer := b.nextTrailer + 1 } }
        else s.dest e := by
      rw [ht, State.place, State.dest_modCopy, State.dest_modDest, State.dest_setCopy, State.dest_setCopy, hb]; rfl
    refine ⟨fun c' d' hne => by rw [hcopy, if_neg hne], fun d' hd => by rw [hdest, if_neg hd], ?_, ?_, ?_, ?_,
      fun _ => ⟨by rw [hcopy, if_pos ⟨rfl, rfl⟩], by rw [hdest, if_pos rfl], ?_, ?_, ?_⟩, fun h => by omega⟩ <;>
      rw [ht] <;> simp [State.place]
  · have ht : t = (s.setCopy c d (Copy.fresh .noSpace .plan 1)).fillDest d c :=
      State.planCopy_noRoom hx (hfull (by omega))
    obtain ⟨hdest, hclips, hports, hheld, -, hplan, hmanifest, -, hfaults⟩ :=
      (s.setCopy c d (Copy.fresh .noSpace .plan 1)).fillDest_spec d c
    have hcopy (c' : Nat) (d' : DestNo) :
        t.copy? c' d' = if c' = c ∧ d' = d then some (copy .noSpace none none) else s.copy? c' d' := by
      rw [ht, State.copy_congr hclips, State.copy_setCopy hx]; rfl
    rw [← ht] at hdest hports hheld hplan hmanifest hfaults
    rw [State.job_of_setCopy hx, State.setCopy_faults] at hfaults
    rw [State.setCopy_ports] at hports
    rw [State.setCopy_ring] at hheld
    rw [State.setCopy_plan] at hplan
    rw [State.setCopy_manifest] at hmanifest
    refine ⟨fun c' d' hne => by rw [hcopy, if_neg hne], fun d' hd => by rw [hdest, if_neg hd, State.dest_setCopy], hports,
      hheld, hplan, hmanifest, fun h => absurd h hroom, fun _ => ⟨by rw [hcopy, if_pos ⟨rfl, rfl⟩], ?_, hfaults⟩⟩
    rw [hdest, if_pos rfl, State.dest_setCopy]

/-- Settles O18: the four forms of the allocation test, and the two outcomes of a plan copy under it. -/
theorem placesAreAllocated : Obligations.PlacesAreAllocated := ⟨allocationRules, planCopyIsPlaced⟩

end Sys2Proof.Machine

/-! Drives coming and going at a destination that is not in use, the arbiter's choice, its grants, and retries
(chapters 5 and 6). -/

namespace Sys2Proof.Machine

/-! ### DRIVE_IN, DRIVE_OUT and the response timer (O19) -/

theorem exec_driveIn (d : DestNo) (n : Nat) (s : State) : exec (.driveIn d n) s = execDriveIn d n s := rfl
theorem exec_driveOut (d : DestNo) (s : State) : exec (.driveOut d) s = execDriveOut d s := rfl
theorem exec_responseTimerExpiry (d : DestNo) (s : State) :
    exec (.responseTimerExpiry d) s = execResponseTimerExpiry d s := rfl

/-- Only destination `d` differs, by `f`, and what stands on the lines. -/
structure State.OnlyDest (s t : State) (d : DestNo) (x : DestPort) : Prop where
  self : t.dest d = x
  others : ∀ f, f ≠ d → t.dest f = s.dest f
  ports : t.ports = s.ports
  books : s.SameBooks t

theorem State.OnlyDest.of_modDest (s : State) (d : DestNo) (f : DestPort → DestPort) :
    s.OnlyDest (s.modDest d f) d (f (s.dest d)) :=
  ⟨s.dest_modDest_self d f, fun _ h => s.dest_modDest_of_ne (Ne.symm h) f, rfl, ⟨rfl, rfl, rfl, rfl, rfl, rfl, rfl⟩⟩

theorem State.OnlyDest.trans {s t u : State} {d : DestNo} {x y : DestPort} (h : s.OnlyDest t d x) (g : t.OnlyDest u d y) :
    s.OnlyDest u d y :=
  ⟨g.self, fun f hf => (g.others f hf).trans (h.others f hf), g.ports.trans h.ports, h.books.trans g.books⟩

theorem State.OnlyDest.notify {s t : State} {d : DestNo} {x : DestPort} (h : s.OnlyDest t d x) (n : Notice) :
    s.OnlyDest (t.notify n) d x := ⟨h.self, h.others, h.ports, h.books⟩

theorem State.OnlyDest.emitLine {s t : State} {d : DestNo} {x : DestPort} (h : s.OnlyDest t d x) (o : LineOut) :
    s.OnlyDest (t.emitLine o) d x := ⟨h.self, h.others, h.ports, h.books⟩

theorem State.OnlyDest.of_quiet {s t : State} {d : DestNo} {x : DestPort} (h : s.quiet.OnlyDest t d x) :
    s.OnlyDest t d x := ⟨h.self, h.others, h.ports, h.books⟩

/-- The first DRIVE_IN after a DRIVE_OUT restarts the link and forgets the DRIVE_OUT. -/
theorem State.quiet_firstIn (s : State) (d : DestNo) :
    s.OnlyDest (s.quiet.firstIn d) d { s.dest d with outSinceIn := false } ∧ (s.quiet.firstIn d).link = s.link
      ∧ (s.quiet.firstIn d).lines = if (s.dest d).outSinceIn then [.restartDrive d] else [] := by
  have hq : s.quiet.dest d = s.dest d := rfl
  unfold State.firstIn
  rw [hq]
  split
  · exact ⟨((State.OnlyDest.of_modDest s.quiet d fun x => { x with outSinceIn := false }).emitLine _).of_quiet, rfl, rfl⟩
  · rename_i h
    refine ⟨⟨?_, fun _ _ => rfl, rfl, ⟨rfl, rfl, rfl, rfl, rfl, rfl, rfl⟩⟩, rfl, rfl⟩
    rw [← Bool.eq_false_iff.2 h]; rfl

/-- A change of a destination announced: the change, and the notice formed from the state it leaves. -/
theorem State.moveDest_spec (s : State) (d : DestNo) (f : DestPort → DestPort) :
    s.OnlyDest (s.moveDest d f) d (f (s.dest d)) ∧ (s.moveDest d f).lines = s.lines
      ∧ (s.moveDest d f).link = s.link.queueNotice ((Notice.destChange d).frame (s.moveDest d f)) :=
  ⟨(State.OnlyDest.of_modDest s d f).notify _, rfl, rfl⟩

/-- DRIVE_IN of the capacity already held changes no presence and no capacity. -/
theorem execDriveIn_held {d : DestNo} {n : Nat} {s : State} (hs : (s.dest d).state ≠ .absent)
    (hc : (s.dest d).capacity = some n) (hp : (s.dest d).present = true) :
    execDriveIn d n s = .next (s.quiet.firstIn d) := by
  have hdest : (s.quiet.firstIn d).dest d = _ := (s.quiet_firstIn d).1.self
  have hrec : (s.quiet.firstIn d).recordDrive d n = s.quiet.firstIn d := by
    unfold State.recordDrive
    rw [hdest, if_pos (by simp [hp, hc])]
  unfold execDriveIn
  cases hst : (s.dest d).state <;> simp only [hrec, hc, if_true]
  exact absurd hst hs

/-- DRIVE_IN of another capacity at a destination that is not in use. -/
theorem execDriveIn_new {d : DestNo} {n : Nat} {s : State}
    (hs : (s.dest d).state = .absent ∨ (s.dest d).state = .unbound ∨ (s.dest d).state = .lost)
    (hc : (s.dest d).state = .absent ∨ (s.dest d).capacity ≠ some n) :
    execDriveIn d n s = .next ((s.quiet.firstIn d).moveDest d fun x =>
      { x.driveHere n with state := if x.state = .absent then .unbound else x.state }) := by
  have hdest : (s.quiet.firstIn d).dest d = _ := (s.quiet_firstIn d).1.self
  have hmove (f g : DestPort → DestPort) (h : f ((s.quiet.firstIn d).dest d) = g ((s.quiet.firstIn d).dest d)) :
      (s.quiet.firstIn d).moveDest d f = (s.quiet.firstIn d).moveDest d g := by
    unfold State.moveDest State.modDest; rw [h]
  have hrec (hc : (s.dest d).capacity ≠ some n) (hst : (s.dest d).state ≠ .absent) :
      (s.quiet.firstIn d).recordDrive d n = (s.quiet.firstIn d).moveDest d fun x =>
        { x.driveHere n with state := if x.state = .absent then .unbound else x.state } := by
    unfold State.recordDrive
    rw [hdest, if_neg (by simp [hc])]
    apply hmove
    rw [hdest]
    simp only [DestPort.driveHere, if_neg hst]
  unfold execDriveIn
  rcases hs with hst | hst | hst
  · simp only [hst]
    congr 1
    apply hmove
    rw [hdest]
    simp only [DestPort.driveHere, hst, if_true]
  all_goals
    have hna : (s.dest d).state ≠ .absent := by rw [hst]; decide
    simp only [hst, hrec (hc.resolve_left hna) hna]

theorem driveInRules : DriveInRules := by
  intro d n s x y hs hp
  obtain ⟨hfirst, hlink, hlines⟩ := s.quiet_firstIn d
  rw [exec_driveIn]
  by_cases hheld : x.state ≠ .absent ∧ x.capacity = some n
  · obtain ⟨hst, hc⟩ := hheld
    have hy : y = { s.dest d with outSinceIn := false } := by
      simp only [y, x] at hst hc ⊢
      rw [if_neg hst, ← hc, ← hp hst hc]
    refine ⟨_, execDriveIn_held hst hc (hp hst hc), hy ▸ hfirst.self, hfirst.others, hfirst.ports, hfirst.books, hlines, ?_⟩
    rw [if_pos ⟨hst, hc⟩, hlink]
  · have hc : x.state = .absent ∨ x.capacity ≠ some n := by tauto
    have hs' : x.state = .absent ∨ x.state = .unbound ∨ x.state = .lost := by tauto
    obtain ⟨hmove, hmlines, hmlink⟩ := (s.quiet.firstIn d).moveDest_spec d fun x =>
      { x.driveHere n with state := if x.state = .absent then .unbound else x.state }
    have hall := hfirst.trans hmove
    refine ⟨_, execDriveIn_new hs' hc, ?_, hall.others, hall.ports, hall.books, hmlines.trans hlines, ?_⟩
    · rw [hall.self, hfirst.self]; rfl
    · rw [if_neg hheld, hmlink, hlink]

theorem driveOutRules : DriveOutRules := by
  intro d s x
  refine ⟨fun h => ?_, fun h => ?_, fun h => ?_⟩ <;> rw [exec_driveOut] <;> unfold execDriveOut <;> simp only [x] at h
  · rw [h]
  · rw [h]
    obtain ⟨hmove, hlines, hlink⟩ := (s.quiet.clearDrive d).moveDest_spec d fun x => { x.driveGone with state := .absent }
    have hall := (State.OnlyDest.of_modDest s.quiet d _).trans hmove
    refine ⟨_, rfl, ?_, hall.others, hall.ports, hall.books, hlines, hlink⟩
    rw [hall.self, State.clearDrive, State.dest_modDest_self]; rfl
  · rw [h]
    cases hp : (s.dest d).present
    · have hall := State.OnlyDest.of_modDest s.quiet d DestPort.driveGone
      refine ⟨_, by simp only [Bool.false_eq_true, if_false], by rw [hall.self, ← h]; rfl, hall.others, hall.ports, hall.books, rfl, rfl⟩
    · obtain ⟨hmove, hlines, hlink⟩ := s.quiet.moveDest_spec d DestPort.driveGone
      refine ⟨_, by simp only [if_true], by rw [hmove.self, ← h]; rfl, hmove.others, hmove.ports, hmove.books, hlines, hlink⟩

theorem State.isServing_iff (s : State) (d : DestNo) : s.isServing d = true ↔ InUse (s.dest d) := by
  simp [State.isServing, InUse]

theorem responseTimerRules : ResponseTimerRules := by
  intro d s x
  rw [exec_responseTimerExpiry]
  unfold execResponseTimerExpiry
  refine ⟨fun h => ?_, fun h hu => ?_⟩ <;> simp only [x] at h
  · rw [h]; rfl
  · have hall := State.OnlyDest.of_modDest s.quiet d fun x => { x with outstanding := none, abandoned := false, timer := false }
    rw [h, if_neg (by decide), if_neg (by rw [State.isServing_iff]; exact hu)]
    exact ⟨_, rfl, hall.self, hall.others, hall.ports, hall.books, rfl, rfl⟩

/-- Settles O19: what DRIVE_IN, DRIVE_OUT and the response timer change at a destination that is not in use. -/
theorem drivesComeAndGo : Obligations.DrivesComeAndGo := ⟨driveInRules, driveOutRules, responseTimerRules⟩

/-! ### The arbiter's choice (O21) -/

theorem State.writerWaits_iff (s : State) (d : DestNo) (w : Writer) : s.writerWaits d w = true ↔ Waits s d w := by
  unfold State.writerWaits Waits
  cases hq : (s.dest d).queue w with
  | nil => simp
  | cons i rest =>
    simp only [List.head?_cons, Option.any_some, State.itemReady]
    cases hk : i.kind with
    | trailer => simp [hk]
    | data n =>
      simp only [Option.any_eq_true, decide_eq_true_eq]
      constructor
      · rintro ⟨y, hy, hst⟩
        exact ⟨i, rest, rfl, .inr ⟨n, y, hk, hy, hst⟩⟩
      · rintro ⟨i', rest', he, h | ⟨n', y, hk', hy, hst⟩⟩ <;> obtain ⟨rfl, rfl⟩ := List.cons.inj he
        · rw [hk] at h; cases h
        · rw [hk] at hk'; cases hk'; exact ⟨y, hy, hst⟩

theorem State.writerUrgent_iff (s : State) (w : Writer) : s.writerUrgent w = true ↔ IsUrgent s w := by
  cases w <;> simp [State.writerUrgent, IsUrgent]

theorem State.readLaneWaits_iff (s : State) (d : DestNo) :
    s.readLaneWaits d = true ↔ ∃ a, (s.dest d).rl.active = some a ∧ a.formed.isSome = true := by
  simp only [State.readLaneWaits, Option.any_eq_true]

/-- The first writer of the rotation that passes a test. -/
theorem FirstInTurn.find_eq {s : State} {d : DestNo} {P : Writer → Prop} {w : Writer} (h : FirstInTurn s d P w)
    {p : Writer → Bool} (hp : ∀ v, p v = true ↔ P v) : (s.dest d).arb.rotation.find? p = some w := by
  obtain ⟨hw, before, after, hrot, hbefore⟩ := h
  rw [List.find?_eq_some_iff_append]
  exact ⟨(hp w).2 hw, before, after, hrot, fun v hv => by simpa [← hp] using hbefore v hv⟩

/-- With no lock the choice is the read lane's share, else the first waiting writer, urgent ones first. -/
theorem State.choose_of_unlocked {s : State} {d : DestNo} (h : (s.dest d).arb.lock = none) :
    s.choose d =
      if s.readLaneWaits d && (((s.dest d).arb.rotation.filter (s.writerWaits d)).isEmpty
          || decide (3 ≤ (s.dest d).arb.grants)) then some .readLane
      else match (s.dest d).arb.rotation.find? fun w => s.writerWaits d w && s.writerUrgent w with
        | some w => some (.writer w)
        | none => ((s.dest d).arb.rotation.find? (s.writerWaits d)).map .writer := by
  simp only [State.choose, h, List.find?_filter, List.head?_filter, ← Bool.and_eq_true, Bool.decide_eq_true]
    <;> rfl

/-- Settles O21: the cases of the arbiter's choice, in their order. -/
theorem arbiterChoosesInOrder : Obligations.ArbiterChoosesInOrder := by
  intro s d x readLane first
  refine ⟨fun h => ?_, fun hout huse => ?_⟩
  · unfold State.select
    rw [if_neg]
    rw [Bool.and_eq_true, State.isServing_iff]
    rintro ⟨huse, hnone⟩
    rcases h with h | h
    · rw [Option.isNone_iff_eq_none] at hnone
      simp only [x, hnone] at h; cases h
    · exact h huse
  · have hsel : s.select d = s.choose d := by
      unfold State.select
      rw [if_pos]
      rw [Bool.and_eq_true, State.isServing_iff]
      exact ⟨huse, by rw [Option.isNone_iff_eq_none]; exact hout⟩
    rw [hsel]
    refine ⟨fun w c hlock => ?_, fun hlock => ?_⟩
    · have hlock' : (s.dest d).arb.lock = some (w, c) := hlock
      simp only [State.choose, hlock']
    · have hfirst : (s.readLaneWaits d && (((s.dest d).arb.rotation.filter (s.writerWaits d)).isEmpty
          || decide (3 ≤ (s.dest d).arb.grants))) = true ↔ first := by
        simp only [Bool.and_eq_true, Bool.or_eq_true, State.readLaneWaits_iff, List.isEmpty_iff, List.filter_eq_nil_iff,
          State.writerWaits_iff, decide_eq_true_eq]
        rfl
      have hboth (v : Writer) : (s.writerWaits d v && s.writerUrgent v) = true ↔ Waits s d v ∧ IsUrgent s v := by
        rw [Bool.and_eq_true, State.writerWaits_iff, State.writerUrgent_iff]
      rw [State.choose_of_unlocked hlock]
      refine ⟨fun h => if_pos (hfirst.2 h), fun h => ?_⟩
      rw [if_neg (fun hc => h (hfirst.1 hc))]
      refine ⟨fun w hw => by rw [FirstInTurn.find_eq hw hboth], fun hnone => ?_⟩
      have hnourgent : (s.dest d).arb.rotation.find? (fun w => s.writerWaits d w && s.writerUrgent w) = none := by
        rw [List.find?_eq_none]
        exact fun v hv hc => hnone v hv ((hboth v).1 hc)
      rw [hnourgent]
      refine ⟨fun w hw => by rw [FirstInTurn.find_eq hw (s.writerWaits_iff d)]; rfl, fun hno => ?_⟩
      have : (s.dest d).arb.rotation.find? (s.writerWaits d) = none := by
        rw [List.find?_eq_none]
        exact fun v hv hc => hno v hv ((s.writerWaits_iff d v).1 hc)
      simp only [this, Option.map_none]

/-! ### Grants (O22) -/

/-- A destination written, with something put on a line. -/
theorem State.modDest_emitLine_modDest (s : State) (d : DestNo) (f g : DestPort → DestPort) (o : LineOut) :
    ((s.modDest d f).emitLine o).modDest d g = { s.setDest d (g (f (s.dest d))) with lines := s.lines ++ [o] } := by
  have h := s.modDest_setDest d (f (s.dest d)) g
  calc ((s.modDest d f).emitLine o).modDest d g
      = { (s.setDest d (f (s.dest d))).modDest d g with lines := s.lines ++ [o] } := rfl
    _ = _ := by rw [h]

/-- A grant to a writer: its request outstanding and on the line, rotation and count moved on. -/
theorem State.carryGrant_writer_eq {s : State} {d : DestNo} {w : Writer} {r : DriveRequest} (h : s.formWrite d w = some r) :
    s.carryGrant d (.writer w) =
      { s.setDest d
          { s.dest d with
            outstanding := some r, abandoned := false, timer := true
            arb :=
              { rotation := (s.dest d).arb.rotation.filter (· ≠ w) ++ (s.dest d).arb.rotation.filter (· = w)
                lock := (s.dest d).arb.lock, grants := min 3 ((s.dest d).arb.grants + 1) } } with
        lines := s.lines ++ [.drive d r.cmd] } := by
  simp only [State.carryGrant, h, State.issueDrive, State.modDest_emitLine_modDest]

theorem State.arbitrate_of_select {s : State} {d : DestNo} {g : Grant} (h : s.select d = some g) :
    s.arbitrate d = s.carryGrant d g := by
  unfold State.arbitrate; rw [h]

theorem sectorsOf_eq (n : Nat) : sectorsOf n = (n + 511) / 512 := by
  rw [sectorsOf, sectorBytes, show n + 512 - 1 = n + 511 by omega]

theorem dataGrantIssuesTheUnit : DataGrantIssuesTheUnit := by
  intro s d w i rest n x k b win y hsel hq hkind hx hk hb hwin hy cmd
  have hform : s.formWrite d w = some ⟨cmd, .data w i.clip k.attempt n⟩ := by
    simp only [State.formWrite, hq, List.head?_cons, hx, hk, hb, hwin, hkind, hy, Option.bind_eq_bind, Option.bind_some,
      sectorsOf_eq, sectorFill]
    rfl
  rw [State.arbitrate_of_select hsel, State.carryGrant_writer_eq hform]

theorem readLaneGrantIssuesItsRequest : ReadLaneGrantIssuesItsRequest := by
  intro s d step cmd r hsel hact
  rw [State.arbitrate_of_select hsel]
  simp only [State.carryGrant, hact, State.issueDrive, State.modDest_emitLine_modDest]

/-- A trailer is one sector, its fields in order and zero bytes behind them. -/
theorem trailerBytes_eq (c : Nat) (card : Identity) (length : Nat) (sum : ClosedSum) (w : Window) (attempt : Nat)
    {token : List Byte} (h : token.length ≤ 48) :
    (trailerBytes c card length sum w attempt token).length = 512
      ∧ ∃ tail, trailerBytes c card length sum w attempt token =
          [0x57, 0x5A, 0x54, 0x31] ++ Bytes.le 2 c ++ Bytes.le 8 card.media ++ Bytes.le 6 card.capacity
            ++ Bytes.le 5 length ++ Bytes.be 4 sum.s1 ++ Bytes.be 4 sum.s2 ++ Bytes.be 4 sum.f.toNat
            ++ Bytes.le 6 w.first ++ Bytes.le 4 w.count ++ [BitVec.ofNat 8 attempt]
            ++ [BitVec.ofNat 8 token.length] ++ token ++ tail
        ∧ ∀ z ∈ tail, z = 0 := by
  constructor
  · simp only [trailerBytes, trailerMarker, Identity.bytes, ClosedSum.bytes, tokenBytes, Bytes.zeros, List.length_append,
      List.length_cons, List.length_nil, List.length_replicate, Bytes.le_length, Bytes.be_length]
    omega
  · refine ⟨Bytes.zeros (48 - token.length) ++ Bytes.zeros 415, ?_, ?_⟩
    · simp only [trailerBytes, trailerMarker, Identity.bytes, ClosedSum.bytes, tokenBytes, Bytes.u8, List.append_assoc,
        List.cons_append, List.nil_append]
    · simp only [Bytes.zeros, List.mem_append, List.mem_replicate]
      tauto

theorem trailerGrantIssuesTheTrailer : TrailerGrantIssuesTheTrailer := by
  intro s d w i rest x k b win t sum card hsel hq hkind hx hk hb hwin ht hsum hcard htok
  have hform : s.formWrite d w = some ⟨⟨.write, b.areaStart + t, 1, trailerBytes i.clip card x.length sum win k.attempt x.token⟩,
      .trailer w i.clip k.attempt⟩ := by
    simp only [State.formWrite, hq, List.head?_cons, hx, hk, hb, hwin, hkind, ht, hsum, hcard, Option.bind_eq_bind,
      Option.bind_some]
    rfl
  obtain ⟨hlen, htail⟩ := trailerBytes_eq i.clip card x.length sum win k.attempt htok
  refine ⟨_, hlen, htail, ?_⟩
  rw [State.arbitrate_of_select hsel, State.carryGrant_writer_eq hform]
  exact ⟨State.dest_setDest_self s d _, rfl, fun f hf => State.dest_setDest_of_ne s (Ne.symm hf) _,
    ⟨rfl, rfl, rfl, rfl, rfl, rfl, rfl⟩, rfl, rfl⟩

/-- Settles O22: the three forms of a grant. -/
theorem grantsIssueRequests : Obligations.GrantsIssueRequests :=
  ⟨dataGrantIssuesTheUnit, trailerGrantIssuesTheTrailer, readLaneGrantIssuesItsRequest⟩

/-! ### Responses that set nothing further in motion (O24) -/

theorem exec_driveDone (d : DestNo) (bytes : List Byte) (s : State) :
    exec (.driveDone d bytes) s = onResponse d s.quiet (doneFor d bytes) := rfl
theorem exec_driveRetry (d : DestNo) (s : State) : exec (.driveRetry d) s = onResponse d s.quiet (retryFor d) := rfl
theorem exec_driveFail (d : DestNo) (s : State) :
    exec (.driveFail d) s = onResponse d s.quiet (failFor d .driveFail) := rfl

/-- A port with its outstanding request cleared. -/
theorem State.clearDrive_eq (s : State) (d : DestNo) : s.clearDrive d = s.setDest d (cleared (s.dest d)) := rfl

/-- A response to a request that is not abandoned is handed on, the request cleared. -/
theorem onResponse_of_outstanding {s : State} {d : DestNo} {r : DriveRequest} (h : (s.dest d).outstanding = some r)
    (ha : (s.dest d).abandoned = false) (f : DriveRequest → State → Work) :
    onResponse d s.quiet f = event (f r (s.quiet.setDest d (cleared (s.dest d)))) := by
  unfold onResponse
  simp only [State.dest_quiet, h, ha, Bool.false_eq_true, if_false, State.clearDrive_eq]

@[simp] theorem queue_cleared (x : DestPort) (w : Writer) : (cleared x).queue w = x.queue w := by cases w <;> rfl

/-- Settles O24: a RETRY below the limit is counted where its request came from. -/
theorem driveRetryRules : Obligations.DriveRetryRules := by
  intro s d r hr ha
  refine ⟨fun w i rest hserves hq hlt => ?_, fun a hserves hact hlt => ?_⟩ <;>
    rw [exec_driveRetry, onResponse_of_outstanding hr ha]
  · have hwrite : retryFor d r (s.quiet.setDest d (cleared (s.dest d)))
        = ((s.quiet.setDest d (cleared (s.dest d))).countRetry d w).still := by
      have hw : writeRetry d w r (s.quiet.setDest d (cleared (s.dest d)))
          = ((s.quiet.setDest d (cleared (s.dest d))).countRetry d w).still := by
        unfold writeRetry State.headRetries
        rw [State.dest_setDest_self, queue_cleared, hq]
        exact if_pos hlt
      rcases hserves with ⟨c, a, n, h⟩ | ⟨c, a, h⟩ <;> rw [retryFor, h, ← hw]
    rw [hwrite, event_still_eq, State.countRetry, State.modDest_setDest, queue_cleared, hq]
  · have hread : retryFor d r (s.quiet.setDest d (cleared (s.dest d)))
        = ((s.quiet.setDest d (cleared (s.dest d))).setActive d (some ⟨a.step, some r.cmd, a.retries + 1⟩)).still := by
      unfold retryFor readRetry
      rw [hserves]
      simp only [State.dest_setDest_self]
      rw [show (cleared (s.dest d)).rl.active = some a from hact]
      exact if_pos hlt
    rw [hread, event_still_eq, State.setActive, State.modDest_setDest]
    rfl

end Sys2Proof.Machine

/-! The clip sum, the pieces of a unit, and the requests that only answer (chapters 1 to 3). -/

namespace Sys2Proof.Machine

/-! ### Sums (O57) -/

theorem Sums.step_lt (x : Sums) (w : Nat) : (x.step w).s1 < 4294967291 ∧ (x.step w).s2 < 4294967291 :=
  ⟨Nat.mod_lt _ (by decide), Nat.mod_lt _ (by decide)⟩

theorem Sums.feed_lt (x : Sums) (bytes : List Byte) (h1 : x.s1 < 4294967291) (h2 : x.s2 < 4294967291) :
    (x.feed bytes).s1 < 4294967291 ∧ (x.feed bytes).s2 < 4294967291 := by
  induction x, bytes using Sums.feed.induct with
  | case1 x => exact ⟨h1, h2⟩
  | case2 x a => exact x.step_lt _
  | case3 x a b => exact x.step_lt _
  | case4 x a b c => exact x.step_lt _
  | case5 x a b c d bs ih => exact ih (x.step_lt _).1 (x.step_lt _).2

/-- A run of whole words first leaves the rest to be fed as it stands. -/
theorem Sums.feed_append (x : Sums) (first rest : List Byte) (h : 4 ∣ first.length) :
    x.feed (first ++ rest) = (x.feed first).feed rest := by
  induction x, first using Sums.feed.induct with
  | case1 x => rfl
  | case2 x a => exact absurd h (by simp)
  | case3 x a b => exact absurd h (by simp)
  | case4 x a b c => exact absurd h (by simp)
  | case5 x a b c d bs ih => exact ih (by simpa [Nat.dvd_add_left] using h)

/-- An incomplete last group is completed with zero bytes. -/
theorem Sums.feed_pad (x : Sums) (bytes : List Byte) (h : ¬4 ∣ bytes.length) : x.feed bytes = x.feed (bytes ++ [0]) := by
  induction x, bytes using Sums.feed.induct with
  | case1 x => exact absurd (by decide) h
  | case2 x a => rfl
  | case3 x a b => rfl
  | case4 x a b c => rfl
  | case5 x a b c d bs ih => exact ih (by simpa [Nat.dvd_add_left] using h)

theorem Sums.close_getLsbD (x : Sums) (length : Nat) {i : Nat} (hi : i < 32) :
    (x.close length).f.getLsbD i = (x.s2.testBit ((i + 32 - length % 32) % 32) != x.s1.testBit i) := by
  have hr : length % 32 < 32 := Nat.mod_lt _ (by decide)
  simp only [Sums.close, BitVec.getLsbD_xor, BitVec.getLsbD_rotateLeft, BitVec.getLsbD_ofNat, Nat.mod_mod]
  by_cases hlt : i < length % 32
  · have : (i + 32 - length % 32) % 32 = 32 - length % 32 + i := by omega
    rw [this]
    simp [hi, hlt, show 32 - length % 32 + i < 32 by omega]
  · have : (i + 32 - length % 32) % 32 = i - length % 32 := by omega
    rw [this]
    simp [hi, hlt, show i - length % 32 < 32 by omega]

/-- Settles O57: the accumulators' bound, feeding in runs, padding, and the tag bit by bit. -/
theorem sumsAddUp : Obligations.SumsAddUp := by
  refine ⟨Sums.feed_lt, fun _ _ _ _ _ _ => rfl, Sums.feed_append, Sums.feed_pad,
    fun x length => ⟨rfl, rfl, fun _ _ _ => x.close_getLsbD length⟩, fun x y length h => ?_⟩
  obtain ⟨h1, h2⟩ : x.s1 = y.s1 ∧ x.s2 = y.s2 := by simpa [ClosedSum.agrees, Sums.close] using h
  simp only [Sums.close, h1, h2]

/-! ### The pieces of a unit (O37) -/

/-- The card sectors of extents laid end to end. -/
def extentSectors (es : List Extent) : List Nat := sectorsOfRuns (es.map fun e => (e.start, e.count))

theorem extentSectors_cons (e : Extent) (es : List Extent) :
    extentSectors (e :: es) = (List.range e.count).map (e.start + ·) ++ extentSectors es := rfl

theorem sectorsOfRuns_cons (r : Nat × Nat) (rs : List (Nat × Nat)) :
    sectorsOfRuns (r :: rs) = (List.range r.2).map (r.1 + ·) ++ sectorsOfRuns rs := rfl

/-- `n` sectors of a run from place `skip` on. -/
theorem drop_take_range {start skip n count : Nat} (h : skip + n ≤ count) :
    (((List.range count).map (start + ·)).drop skip).take n = (List.range n).map (start + skip + ·) := by
  apply List.ext_getElem
  · simp; omega
  · intro i h1 h2
    simp [Nat.add_assoc]

/-- The run cut out of extents that hold it is the sectors in their place. -/
theorem cutRun_sectors (es : List Extent) (skip want : Nat) (h : skip + want ≤ (es.map (·.count)).sum) :
    sectorsOfRuns (cutRun es skip want) = ((extentSectors es).drop skip).take want := by
  induction es generalizing skip want with
  | nil => obtain rfl : want = 0 := by simp at h; omega
           simp [cutRun, sectorsOfRuns]
  | cons e es ih =>
    simp only [List.map_cons, List.sum_cons] at h
    have hlen : ((List.range e.count).map (e.start + ·)).length = e.count := by simp
    rw [extentSectors_cons, cutRun]
    split_ifs with h0 hskip
    · simp [h0, sectorsOfRuns]
    · rw [ih _ _ (by omega), List.drop_append, List.drop_of_length_le (l := List.map _ _) (by simpa using hskip), hlen,
        List.nil_append]
    · simp only [sectorsOfRuns_cons]
      rw [ih _ _ (by omega), List.drop_zero, List.drop_append_of_le_length (by simp; omega), List.take_append]
      by_cases hw : want ≤ e.count - skip
      · rw [Nat.min_eq_left hw, Nat.sub_self, List.take_zero, drop_take_range (by omega)]
        simp; omega
      · rw [Nat.min_eq_right (by omega), ← drop_take_range (start := e.start) (count := e.count) (by omega)]
        simp only [List.length_drop, hlen]
        rw [List.take_of_length_le (by simp),
          List.take_of_length_le (l := List.drop _ _) (by simp only [List.length_drop, hlen]; omega)]

theorem cutRun_sum (es : List Extent) (skip want : Nat) (h : skip + want ≤ (es.map (·.count)).sum) :
    ((cutRun es skip want).map Prod.snd).sum = want := by
  induction es generalizing skip want with
  | nil => simp at h; simp [cutRun]; omega
  | cons e es ih =>
    simp only [List.map_cons, List.sum_cons] at h
    rw [cutRun]
    split_ifs with h0 hskip
    · simp [h0]
    · exact ih _ _ (by omega)
    · simp only [List.map_cons, List.sum_cons, ih 0 (want - min want (e.count - skip)) (by omega)]
      omega

/-- Each piece is a nonempty run inside one extent. -/
theorem cutRun_mem {es : List Extent} {skip want a n : Nat} (h : (a, n) ∈ cutRun es skip want) :
    1 ≤ n ∧ ∃ e ∈ es, e.start ≤ a ∧ a + n ≤ e.start + e.count := by
  induction es generalizing skip want with
  | nil => simp [cutRun] at h
  | cons e es ih =>
    rw [cutRun] at h
    have later (g : ∃ e ∈ es, e.start ≤ a ∧ a + n ≤ e.start + e.count) :
        ∃ x ∈ e :: es, x.start ≤ a ∧ a + n ≤ x.start + x.count := by
      obtain ⟨x, hx, g⟩ := g
      exact ⟨x, List.mem_cons_of_mem _ hx, g⟩
    split_ifs at h with h0 hskip
    · simp at h
    · exact ⟨(ih h).1, later (ih h).2⟩
    · rcases List.mem_cons.1 h with h | h
      · cases h
        exact ⟨by omega, e, List.mem_cons_self, by omega, by omega⟩
      · exact ⟨(ih h).1, later (ih h).2⟩

/-- Settles O37: a unit's sectors fit the extents behind its place, and the run cut there is in order. -/
theorem piecesCoverTheUnit : Obligations.PiecesCoverTheUnit := by
  intro x k hlen hk sectors
  have hpieces : unitPieces x k = cutRun x.extents (2048 * k) sectors := by
    rw [unitPieces, sectorsOf_eq, unitByteCount, unitSectors, unitBytes]
  have hfits : 2048 * k + sectors ≤ (x.extents.map (·.count)).sum := by
    simp only [sectors, clipUnits] at hk ⊢
    omega
  rw [hpieces]
  exact ⟨cutRun_sectors _ _ _ hfits, cutRun_sum _ _ _ hfits, fun _ _ h => cutRun_mem h⟩

end Sys2Proof.Machine

/-! Requests that name a job, a clip or a port: their refusals, the four queries, and the requests of chapter 1 that
are answered at once. -/

namespace Sys2Proof.Machine

/-! ### Numbers a request names -/

@[simp] theorem jobOf_val (j : JobNo) : jobOf j.val = some j := dif_pos j.isLt
@[simp] theorem destOf_val (d : DestNo) : destOf d.val = some d := dif_pos d.isLt
@[simp] theorem portOf_val (p : PortNo) : portOf p.val = some p := dif_pos p.isLt

theorem jobOf_eq_none {n : Nat} (h : 16 ≤ n) : jobOf n = none := dif_neg (by omega)
theorem destOf_eq_none {n : Nat} (h : 4 ≤ n) : destOf n = none := dif_neg (by omega)
theorem portOf_eq_none {n : Nat} (h : 8 ≤ n) : portOf n = none := dif_neg (by omega)

theorem onJob_large {n : Nat} (h : 16 ≤ n) (s : State) (f : JobNo → Ruling) : onJob n s f = .refuse .badParam := by
  rw [onJob, jobOf_eq_none h]

theorem onJob_free {s : State} {j : JobNo} (h : (s.job j).state = .free) (f : JobNo → Ruling) :
    onJob j.val s f = .refuse .noSuch := by
  simp only [onJob, jobOf_val, if_pos h]

theorem onJob_used {s : State} {j : JobNo} (h : (s.job j).state ≠ .free) (f : JobNo → Ruling) : onJob j.val s f = f j := by
  simp only [onJob, jobOf_val, if_neg h]

theorem onClip_large {c : Nat} (h : 4096 ≤ c) (s : State) (f : Clip → Ruling) : onClip c s f = .refuse .badParam :=
  if_pos h

theorem onClip_free {s : State} {c : Nat} (hc : c < 4096) (h : s.clip? c = none) (f : Clip → Ruling) :
    onClip c s f = .refuse .noSuch := by
  rw [onClip, if_neg (show ¬clipCount ≤ c from Nat.not_le.2 hc), h]

theorem onClip_used {s : State} {c : Nat} {x : Clip} (hc : c < 4096) (h : s.clip? c = some x) (f : Clip → Ruling) :
    onClip c s f = f x := by
  rw [onClip, if_neg (show ¬clipCount ≤ c from Nat.not_le.2 hc), h]

/-! ### A request taken touches the link controller alone -/

section
variable (s : State) (e : EntryNo) (tag : Byte) (code : Nat)

@[simp] theorem State.owing_ports : (s.owing e tag code).ports = s.ports := rfl
@[simp] theorem State.owing_jobs : (s.owing e tag code).jobs = s.jobs := rfl
@[simp] theorem State.owing_clips : (s.owing e tag code).clips = s.clips := rfl
@[simp] theorem State.owing_ring : (s.owing e tag code).ring = s.ring := rfl
@[simp] theorem State.owing_dests : (s.owing e tag code).dests = s.dests := rfl
@[simp] theorem State.owing_plan : (s.owing e tag code).plan = s.plan := rfl
@[simp] theorem State.owing_manifest : (s.owing e tag code).manifest = s.manifest := rfl
@[simp] theorem State.owing_faults : (s.owing e tag code).faults = s.faults := rfl
@[simp] theorem State.owing_lines : (s.owing e tag code).lines = s.lines := rfl
@[simp] theorem State.owing_pending : (s.owing e tag code).pending = s.pending := rfl
@[simp] theorem State.port_owing (k : PortNo) : (s.owing e tag code).port k = s.port k := rfl
@[simp] theorem State.job_owing (k : JobNo) : (s.owing e tag code).job k = s.job k := rfl
@[simp] theorem State.dest_owing (k : DestNo) : (s.owing e tag code).dest k = s.dest k := rfl
@[simp] theorem State.clip_owing (k : Nat) : (s.owing e tag code).clip? k = s.clip? k := rfl
@[simp] theorem State.slot_owing (k : Nat) : (s.owing e tag code).slot? k = s.slot? k := rfl

end

/-! ### A reply behind its notices -/

/-- A request taken, notices queued, and the reply given back. -/
theorem Link.OnlyNotices.answersTo {l m : Link} {e : EntryNo} {tag : Byte} {code : Nat}
    (h : ({ l with table := l.table.set e (some ⟨tag, code, false⟩) } : Link).OnlyNotices m) (b : List Byte) :
    l.AnswersTo (m.queueReply e .ok b) e tag code b := by
  obtain ⟨htable, hparser, hbuf, hstall, hrefusal, notices, hnotices, houtq⟩ := h
  have hentry : m.table[e] = some ⟨tag, code, false⟩ := by rw [htable]; simp
  unfold Link.queueReply
  rw [hentry]
  refine ⟨?_, hparser, hbuf, hstall, hrefusal, notices, hnotices, ?_⟩
  · simp only [htable]; simp
  · simp only [houtq]; rfl

/-- A request answered at once, with only notices ahead of its reply. -/
theorem State.request_tell_notices {s s' : State} {e : EntryNo} {tag : Byte} {code : Nat} {owner : EntryNo → State → Ruling}
    {b : List Byte} (h : s.link.freeEntry = some e) (ho : owner e (s.owing e tag code) = .tell b s')
    (hl : (s.owing e tag code).link.OnlyNotices s'.link) :
    s.request tag code owner = .next (s'.reply e .ok b) ∧ s.link.AnswersTo (s'.reply e .ok b).link e tag code b :=
  ⟨State.request_tell h ho, hl.answersTo b⟩

/-! ### The requests, each as a ruling -/

theorem exec_jobStart (tag : Byte) (n q u : Nat) (s : State) :
    exec (.jobStart tag n q u) s = s.quiet.request tag 0x22 fun _ s => ruleJobStart n q u s := rfl
theorem exec_jobPause (tag : Byte) (n : Nat) (s : State) :
    exec (.jobPause tag n) s = s.quiet.request tag 0x23 fun _ s => ruleJobPause n s := rfl
theorem exec_jobResume (tag : Byte) (n : Nat) (s : State) :
    exec (.jobResume tag n) s = s.quiet.request tag 0x24 fun _ s => ruleJobResume n s := rfl
theorem exec_jobClose (tag : Byte) (n : Nat) (s : State) :
    exec (.jobClose tag n) s = s.quiet.request tag 0x26 fun _ s => ruleJobClose n s := rfl
theorem exec_jobOpen (tag : Byte) (n : Nat) (s : State) :
    exec (.jobOpen tag n) s = s.quiet.request tag 0x20 fun _ s => ruleJobOpen n s := rfl
theorem exec_clipAdd (tag : Byte) (n : Nat) (es : List ClipEntry) (s : State) :
    exec (.clipAdd tag n es) s = s.quiet.request tag 0x21 fun _ s => ruleClipAdd n es s := rfl
theorem exec_clipExclude (tag : Byte) (c : Nat) (s : State) :
    exec (.clipExclude tag c) s = s.quiet.request tag 0x29 fun _ s => ruleClipExclude c s := rfl
theorem exec_copyAdd (tag : Byte) (c n : Nat) (s : State) :
    exec (.copyAdd tag c n) s = s.quiet.request tag 0x2B fun _ s => ruleCopyAdd c n s := rfl
theorem exec_clipQuery (tag : Byte) (key : ClipKey) (s : State) :
    exec (.clipQuery tag key) s = s.quiet.request tag 0x28 fun _ s => ruleClipQuery key s := rfl
theorem exec_destQuery (tag : Byte) (n : Nat) (s : State) :
    exec (.destQuery tag n) s = s.quiet.request tag 0x12 fun _ s => ruleDestQuery n s := rfl
theorem exec_planQuery (tag : Byte) (s : State) :
    exec (.planQuery tag) s = s.quiet.request tag 0x0A fun _ s => .tell s.planBytes s := rfl

/-! ### Refusals of the requests that name a job (O52) -/

theorem jobNumbersAreChecked : JobNumbersAreChecked := by
  intro tag n i code s e he hi
  have hrule : ∃ r : State → Ruling, exec i s = s.quiet.request tag code (fun _ s => r s)
      ∧ (∀ t, 16 ≤ n → r t = .refuse .badParam)
      ∧ ∀ (t : State) (j : JobNo), j.val = n → (t.job j).state = .free → r t = .refuse .noSuch := by
    rcases hi with ⟨q, u, rfl, rfl⟩ | ⟨rfl, rfl⟩ | ⟨rfl, rfl⟩ | ⟨rfl, rfl⟩ | ⟨rfl, rfl⟩ | ⟨rfl, rfl⟩
    · exact ⟨_, exec_jobStart .., fun t h => onJob_large h t _, fun t j h hf => h ▸ onJob_free hf _⟩
    · exact ⟨_, exec_jobPause .., fun t h => onJob_large h t _, fun t j h hf => h ▸ onJob_free hf _⟩
    · exact ⟨_, exec_jobResume .., fun t h => onJob_large h t _, fun t j h hf => h ▸ onJob_free hf _⟩
    · exact ⟨_, exec_jobAbandon .., fun t h => onJob_large h t _, fun t j h hf => h ▸ onJob_free hf _⟩
    · exact ⟨_, exec_jobClose .., fun t h => onJob_large h t _, fun t j h hf => h ▸ onJob_free hf _⟩
    · exact ⟨_, exec_jobQuery .., fun t h => onJob_large h t _, fun t j h hf => h ▸ onJob_free hf _⟩
  obtain ⟨r, hr, hlarge, hfree⟩ := hrule
  rw [hr]
  exact ⟨fun h => State.request_refuse he (hlarge _ h), fun j hj hf => State.request_refuse he (hfree _ j hj hf)⟩

/-- The ports of a role whose destination is ACTIVE, of two roles together. -/
theorem length_filter_roles (f : DestNo → Role) (g : DestNo → Bool) (l : List DestNo) :
    ((l.filter fun d => decide (f d = .mirror)) ++ l.filter fun d => decide (f d = .spare)).countP g
      = (l.filter fun d => decide (f d ≠ .off) && g d).length := by
  rw [← List.countP_eq_length_filter]
  induction l with
  | nil => rfl
  | cons d l ih =>
    rw [List.countP_append] at ih ⊢
    rw [List.countP_cons, ← ih]
    cases hf : f d <;> simp [hf, List.countP_cons] <;> omega

theorem activePlanned_eq (s : State) : s.activePlanned = activePlanned s := by
  rw [State.activePlanned, ← List.countP_eq_length_filter]
  exact length_filter_roles (fun d => s.plan.roles[d]) (fun d => decide ((s.dest d).state = .active)) allDests

theorem jobStartRefusals : JobStartRefusals := by
  intro tag j q u s e he run answer
  have refused {st : Status} (hfree : (s.job j).state ≠ .free)
      (h : ruleJobStart j.val q u (s.quiet.owing e tag 0x22) = .refuse st) : run = answer st :=
    State.request_refuse he h
  have rule (hfree : (s.job j).state ≠ .free) : ruleJobStart j.val q u (s.quiet.owing e tag 0x22) = _ :=
    onJob_used hfree _
  refine ⟨fun hfree hst => ?notLoading, fun hst => ⟨fun hclips => ?noClip, fun hclips => ⟨fun hport => ?noCard,
    fun hport hfew => ?few⟩⟩⟩
  case notLoading =>
    exact refused hfree ((rule hfree).trans (if_pos (.inl hst)))
  all_goals
    have hfree : (s.job j).state ≠ .free := by rw [hst]; decide
    refine refused hfree ((rule hfree).trans ?_)
  case noClip => exact if_pos (.inr hclips)
  all_goals
    have hgo : ¬((s.job j).state ≠ .loading ∨ (s.job j).clips = []) := by simp [hst, hclips]
  case noCard => exact (if_neg hgo).trans (if_pos (by simp [State.owing, State.job, State.quiet] at hport ⊢; exact hport))
  case few =>
    refine (if_neg hgo).trans ((if_neg ?_).trans (if_pos ?_))
    · have hsome : ((s.quiet.owing e tag 0x22).job j).boundPort.isSome := hport
      simp only [Option.isNone_iff_eq_none]
      exact Option.isSome_iff_ne_none.1 hsome
    · rw [activePlanned_eq]; exact hfew

/-! ### Refusals of the requests that name a clip (O52) -/

/-- CLIP_RETRY as a ruling. -/
def ruleClipRetry (c : Nat) (s : State) : Ruling :=
  onClip c s fun x => if x.state = .sourceFault then .take [] (retryClip c x s) else .refuse .wrongState

theorem exec_clipRetry_eq (tag : Byte) (c : Nat) (s : State) :
    exec (.clipRetry tag c) s = s.quiet.request tag 0x2A fun _ s => ruleClipRetry c s := rfl

/-- COPY_ADD at a destination and a clip in use. -/
theorem ruleCopyAdd_used {s : State} {c : Nat} {x : Clip} {d : DestNo} (hc : c < 4096) (hx : s.clip? c = some x) :
    ruleCopyAdd c d.val s =
      if !x.state.supplied then .refuse .wrongState
      else if (x.copies[d]).any fun k => k.state.live || decide (k.state = .verified) then .refuse .wrongState
      else if !s.isActive d then .refuse .wrongState
      else .take [] (addCopy c d x s) := by
  unfold ruleCopyAdd
  rw [destOf_val]
  exact onClip_used hc hx _

theorem clipRequestRefusals : ClipRequestRefusals := by
  intro tag c n s e he refused
  have hexclude {st : Status} (h : ruleClipExclude c (s.quiet.owing e tag 0x29) = .refuse st) :
      refused (.clipExclude tag c) 0x29 st := State.request_refuse he h
  have hcopy {st : Status} (h : ruleCopyAdd c n (s.quiet.owing e tag 0x2B) = .refuse st) :
      refused (.copyAdd tag c n) 0x2B st := State.request_refuse he h
  have hretry {st : Status} (h : ruleClipRetry c (s.quiet.owing e tag 0x2A) = .refuse st) :
      refused (.clipRetry tag c) 0x2A st := State.request_refuse (owner := fun _ s => ruleClipRetry c s) he h
  have hused {x : Clip} (hx : s.clip? c = some x) (code : Nat) : (s.quiet.owing e tag code).clip? c = some x := hx
  refine ⟨fun hc => ⟨hexclude (onClip_large hc _ _), hretry (onClip_large hc _ _)⟩, fun h => hcopy ?_,
    fun hc hnone => ⟨hexclude (onClip_free hc hnone _), hretry (onClip_free hc hnone _),
      fun hn => hcopy ?_⟩, fun x hc hx => ⟨fun h => hexclude ?_, fun h => hretry ?_, ?_⟩⟩
  · unfold ruleCopyAdd
    by_cases hn : 4 ≤ n
    · rw [destOf_eq_none hn]
    · rw [show destOf n = some ⟨n, by omega⟩ from dif_pos (by omega)]
      exact onClip_large (h.resolve_right hn) _ _
  · unfold ruleCopyAdd
    rw [show destOf n = some ⟨n, hn⟩ from dif_pos hn]
    exact onClip_free hc hnone _
  · unfold ruleClipExclude
    rw [onClip_used hc (hused hx _)]
    rcases h with h | h | h <;> rw [h]
  · rw [ruleClipRetry, onClip_used hc (hused hx _), if_neg h]
  · rintro d rfl
    have hrule := ruleCopyAdd_used (d := d) hc (hused hx 0x2B)
    refine ⟨fun h => hcopy (hrule.trans (if_pos ?_)), fun k hk h => hcopy (hrule.trans ?_), fun h => hcopy (hrule.trans ?_)⟩
    · obtain ⟨h1, h2, h3⟩ := h
      revert h1 h2 h3
      cases x.state <;> simp [ClipState.supplied]
    · split
      · rfl
      · refine if_pos ?_
        rw [hk]
        simpa using h
    · split
      · rfl
      · split
        · rfl
        · have hidle : (s.quiet.owing e tag 0x2B).isActive d = false := decide_eq_false h
          exact if_pos (by rw [hidle]; rfl)

/-- Settles O52: numbers first, then free records, then states, in the order of each request's ruling. -/
theorem jobAndClipRequestsAreRefused : Obligations.JobAndClipRequestsAreRefused :=
  ⟨jobNumbersAreChecked, jobStartRefusals, clipRequestRefusals⟩

end Sys2Proof.Machine

/-! The four queries in the obligations' layouts, and a job opened on a port. -/

namespace Sys2Proof.Machine

/-! ### Queries (O51) -/

theorem planQueryAnswers : PlanQueryAnswers := by
  intro tag s e he
  rw [exec_planQuery]
  have hbytes : (s.quiet.owing e tag 0x0A).planBytes = planReport s.plan s.plan.lock
      ++ [BitVec.ofNat 8 (rolesCounted s .mirror fun _ => true),
          BitVec.ofNat 8 (rolesCounted s .mirror fun x => decide (x = .active)),
          BitVec.ofNat 8 (rolesCounted s .spare fun x => decide (x = .active))] := by
    have hactive (r : Role) : (rolesCounted s r fun x => decide (x = .active)) = ((s.plan.withRole r).filter s.isActive).length := by
      rw [rolesCounted, Plan.withRole, List.filter_filter]
      simp only [State.isActive, Bool.and_comm]
    rw [rolesCounted_all, hactive, hactive]
    rfl
  rw [← hbytes]
  exact State.request_tell_unchanged he rfl

theorem optField_eq {α : Type} (n : Nat) (f : α → List Byte) (x : Option α) : optField n f x = optReport n (x.map f) := by
  cases x <;> rfl

theorem clipState_any (x : Option ClipState) (st : ClipState) :
    (x.any fun y => decide (y = st)) = x.any fun y => decide (clipStateCode y = clipStateCode st) := by
  cases x with
  | none => rfl
  | some y => cases y <;> cases st <;> rfl

theorem State.jobBytes_eq (s : State) (j : JobNo) : s.jobBytes j = jobReport s j := by
  have hcode : (s.job j).state.code = jobStateCode (s.job j).state := by cases (s.job j).state <;> rfl
  have htarget : (s.job j).resumeTarget.map (·.code)
      = (s.job j).resumeTarget.map fun t => match t with
          | .running => 2
          | .paused => 3 := by
    cases (s.job j).resumeTarget with
    | none => rfl
    | some t => cases t <;> rfl
  have hcause : (s.job j).pauseCause.map (·.code)
      = (s.job j).pauseCause.map fun t => match t with
          | .host => 0
          | .hold => 1 := by
    cases (s.job j).pauseCause with
    | none => rfl
    | some t => cases t <;> rfl
  have hclips (st : ClipState) : (s.clipsIn j fun y => decide (y = st))
      = (s.job j).clips.filter fun c => (s.clipState? c).any fun y => decide (clipStateCode y = clipStateCode st) := by
    unfold State.clipsIn
    congr 1
    funext c
    exact clipState_any _ st
  have hsets (ds : List DestNo) : destSetBytes ds = (List.finRange 4).map fun d => markByte (decide (d ∈ ds)) := by
    simp only [destSetBytes, List.contains_eq_mem]
    rfl
  simp only [State.jobBytes, jobReport, snapshotBytes, optField_eq, hcode, htarget, hcause, hclips, hsets, allClipStates,
    List.flatMap_cons, List.flatMap_nil, List.append_nil, List.append_assoc, List.cons_append, List.nil_append]
  rfl

theorem State.destBytes_eq (s : State) (d : DestNo) : s.destBytes d = destReport s d := by
  have hcode : (s.dest d).state.code = destStateCode (s.dest d).state := by cases (s.dest d).state <;> rfl
  have hlive : (fun k : CopyState => decide (k = .queued ∨ k = .writing ∨ k = .written ∨ k = .verifying)) = CopyState.live := by
    funext k
    cases k <;> rfl
  have hcount (p : CopyState → Bool) :
      (s.clips.filter fun c : Nat × Clip => (c.2.copies[d]).any fun k => p k.state).length = copiesOn s d p := by
    unfold copiesOn
    congr 2
    funext c
    cases c.2.copies[d] <;> rfl
  have hliveOn : s.liveOn d = copiesOn s d CopyState.live := hcount _
  have hverified : s.verifiedOn d = copiesOn s d fun k => decide (k = .verified) :=
    hcount fun k => decide (k = .verified)
  simp only [State.destBytes, destReport, optField_eq, hcode, hlive, hliveOn, hverified]
  rfl

theorem copyBytes_eq (k : Option Copy) : copyBytes k = copyReport k := by
  cases k with
  | none => rfl
  | some k =>
    have hcode : k.state.code = copyStateCode k.state := by cases k.state <;> rfl
    have horigin : Bytes.u8 k.origin.code = (match k.origin with
        | .plan => 0
        | .spare => 1
        | .repair => 2
        | .host => 3 : Byte) := by cases k.origin <;> rfl
    simp only [copyBytes, copyReport, placeBytes, optField_eq, hcode, horigin, List.append_assoc, List.cons_append,
      List.nil_append]
    rfl

theorem clipBytes_eq (c : Nat) (x : Clip) : clipBytes c x = clipReport c x := by
  have hcode : x.state.code = clipStateCode x.state := by cases x.state <;> rfl
  have hstatus : Bytes.u8 x.mstatus.code = (match x.mstatus with
      | .none => 0
      | .deferred => 1
      | .queued => 2
      | .taken => 3 : Byte) := by cases x.mstatus <;> rfl
  have hdests (f : DestNo → List Byte) : allDests.flatMap f = f 0 ++ f 1 ++ f 2 ++ f 3 := by
    simp [allDests, List.append_assoc]
  simp only [clipBytes, clipReport, tokenBytes, optField_eq, hcode, hstatus, hdests, copyBytes_eq, List.append_assoc,
    List.cons_append, List.nil_append]
  rfl

theorem jobClipAndDestQueries : JobClipAndDestQueries := by
  intro tag s e he answer
  have hclip (c : Nat) : ruleClipQuery (.byNumber c) (s.quiet.owing e tag 0x28) = _ := rfl
  refine ⟨fun j hj => ?_, fun d => ?_, fun n hn => ?_, fun c hc => ?_, fun c hc hnone => ?_, fun c x hc hx => ?_,
    fun f length => ?_⟩
  · rw [exec_jobQuery, ← State.jobBytes_eq]
    exact State.request_tell_unchanged he (onJob_used hj _)
  · rw [exec_destQuery, ← State.destBytes_eq]
    refine State.request_tell_unchanged he ?_
    simp only [ruleDestQuery, destOf_val]
    rfl
  · rw [exec_destQuery]
    exact State.request_refuse he (by rw [ruleDestQuery, destOf_eq_none hn])
  · rw [exec_clipQuery]
    exact State.request_refuse he (onClip_large hc _ _)
  · rw [exec_clipQuery]
    exact State.request_refuse he (onClip_free hc hnone _)
  · rw [exec_clipQuery, ← clipBytes_eq]
    exact State.request_tell_unchanged he (onClip_used hc hx _)
  · intro found
    have hsame : (fun z : Nat × Clip => z.2.hasTag f length) = fun z : Nat × Clip => match z.2.sum with
        | some sum => decide (sum.f.toNat = f ∧ z.2.length = length)
        | none => false := by
      funext z
      unfold Clip.hasTag
      cases z.2.sum <;> rfl
    have hfilter : (s.quiet.owing e tag 0x28).clips.filter (fun z : Nat × Clip => z.2.hasTag f length) = found := by
      rw [hsame]; rfl
    rw [exec_clipQuery]
    refine ⟨fun hnil => State.request_refuse he ?_, fun c x more hfound => ?_⟩
    · simp only [ruleClipQuery, hfilter, hnil]
    · rw [← clipBytes_eq]
      refine State.request_tell_unchanged he ?_
      simp only [ruleClipQuery, hfilter, hfound]
      rfl

/-- Settles O51: each query tells its report and leaves the state as it was. -/
theorem queriesOnlyAnswer : Obligations.QueriesOnlyAnswer := ⟨planQueryAnswers, jobClipAndDestQueries⟩

/-! ### JOB_OPEN (O44) -/

theorem State.jobHolding_isSome (s : State) (card : Identity) : (s.jobHolding card).isSome ↔ ∃ j, Holds s j card := by
  simp only [State.jobHolding, List.find?_isSome, Holds, decide_eq_true_eq]
  exact ⟨fun ⟨j, _, h⟩ => ⟨j, h⟩, fun ⟨j, h⟩ => ⟨j, List.mem_finRange j, h⟩⟩

theorem State.freeJobRecord_none {s : State} (h : ∀ j, (s.job j).state ≠ .free) : s.freeJobRecord = none := by
  simpa [State.freeJobRecord] using fun j _ => h j

/-- The record JOB_OPEN takes is the lowest-numbered FREE one. -/
theorem State.freeJobRecord_lowest {s : State} {j : JobNo} (hj : (s.job j).state = .free)
    (hl : ∀ l, l < j → (s.job l).state ≠ .free) : s.freeJobRecord = some j := by
  have hfin : allJobs.Pairwise (· < ·) := List.pairwise_lt_finRange 16
  obtain ⟨before, after, hsplit⟩ := List.append_of_mem (List.mem_finRange j)
  rw [State.freeJobRecord, List.find?_eq_some_iff_append]
  refine ⟨by simpa using hj, before, after, hsplit, fun l hlmem => ?_⟩
  rw [show allJobs = before ++ j :: after from hsplit] at hfin
  have : l < j := (List.pairwise_append.1 hfin).2.2 l hlmem j List.mem_cons_self
  simpa using hl l this

/-- Each ruling of JOB_OPEN, by the port it names. -/
theorem ruleJobOpen_val (p : PortNo) (s : State) : ruleJobOpen p.val s =
    if !(s.port p).enabled then .refuse .noSuch
    else match (s.port p).state with
      | .empty => .refuse .noCard
      | .mounting => .refuse .wrongState
      | .unreadable => .refuse .wrongState
      | .bound => .refuse .wrongState
      | .present =>
        if ((s.port p).identity.bind s.jobHolding).isSome then .refuse .wrongState
        else match s.freeJobRecord with
          | none => .refuse .tableFull
          | some j => .tell [Bytes.u8 j.val] (s.openJob j p) := by
  simp only [ruleJobOpen, portOf_val] <;> rfl

theorem State.formLamp_movePort (s : State) (p : PortNo) (f : CardPort → CardPort) (q : PortNo) :
    (s.movePort p f).formLamp q = (s.modPort p f).formLamp q := by
  refine State.formLamp_congr q rfl rfl ?_
  by_cases h : q = p
  · subst h
    rw [State.port_movePort, if_pos rfl, State.port_modPort_self]
    exact ⟨rfl, rfl, rfl, rfl, rfl, rfl, rfl⟩
  · rw [State.port_movePort, if_neg h, State.port_modPort_of_ne _ (Ne.symm h)]
    exact .refl _

/-- A port moved carries the lamp formed for the state it leaves. -/
theorem State.port_movePort_formed (s : State) (p : PortNo) (f : CardPort → CardPort) (q : PortNo) :
    (s.movePort p f).port q
      = if q = p then { f (s.port p) with lamp := (s.movePort p f).formLamp p } else s.port q := by
  rw [State.port_movePort, State.formLamp_movePort]

theorem State.moveJob_onlyNotices (s : State) (j : JobNo) (f : Job → Job) : s.link.OnlyNotices (s.moveJob j f).link :=
  (s.modJob j f).notify_onlyNotices _

theorem State.movePort_onlyNotices (s : State) (p : PortNo) (f : CardPort → CardPort) :
    s.link.OnlyNotices (s.movePort p f).link :=
  State.notify_onlyNotices ((s.modPort p f).modPort p _) _

/-- A job opened on a port: the record, the port, and two notices. -/
theorem State.openJob_spec (s : State) (j : JobNo) (p : PortNo) :
    let t := s.openJob j p
    (∀ i, t.job i = if i = j then
        { Job.free with state := .loading, identity := (s.port p).identity, boundPort := some p } else s.job i)
      ∧ (∀ q, t.port q = if q = p then
          { s.port p with state := .bound, boundJob := some j, released := none, lamp := t.formLamp p } else s.port q)
      ∧ t.clips = s.clips ∧ t.ring = s.ring ∧ t.dests = s.dests ∧ t.plan = s.plan ∧ t.manifest = s.manifest
      ∧ t.faults = s.faults ∧ t.lines = s.lines ∧ s.link.OnlyNotices t.link := by
  intro t
  refine ⟨fun i => ?_, fun q => ?_, by simp [t, State.openJob], by simp [t, State.openJob], by simp [t, State.openJob],
    by simp [t, State.openJob], by simp [t, State.openJob], by simp [t, State.openJob], by simp [t, State.openJob],
    (s.moveJob_onlyNotices j _).trans (State.movePort_onlyNotices _ p _)⟩
  · simp only [t, State.openJob]
    rw [State.job_movePort, State.job_moveJob]
  · exact State.port_movePort_formed _ p _ q

end Sys2Proof.Machine

/-! JOB_OPEN, CLIP_ADD and JOB_CLOSE, each by the branches of its ruling. -/

namespace Sys2Proof.Machine

/-- Settles O44: JOB_OPEN by the branches of its ruling. -/
theorem jobOpenRules : Obligations.JobOpenRules := by
  intro tag n s e he run answer
  have hrun : run = s.quiet.request tag 0x20 fun _ s => ruleJobOpen n s := exec_jobOpen tag n s
  have refused {st : Status} (h : ruleJobOpen n (s.quiet.owing e tag 0x20) = .refuse st) : run = answer st := by
    rw [hrun]; exact State.request_refuse he h
  refine ⟨fun hn => refused (by rw [ruleJobOpen, portOf_eq_none hn]), ?_⟩
  rintro p rfl x
  refine ⟨fun hd => refused ?_, fun hen => ⟨fun hst => refused ?_, fun hst => refused ?_, fun card hst hcard =>
    ⟨fun hholds => refused ?_, fun hnone => ⟨fun hfull => refused ?_, fun j hj hlow => ?_⟩⟩⟩⟩ <;>
    simp only [x] at *
  · rw [ruleJobOpen_val, State.port_owing, State.port_quiet, hd]; rfl
  · rw [ruleJobOpen_val, State.port_owing, State.port_quiet, hen, hst]; rfl
  · rw [ruleJobOpen_val, State.port_owing, State.port_quiet, hen]
    rcases hst with hst | hst | hst <;> rw [hst] <;> rfl
  all_goals
    have hpresent : ruleJobOpen p.val (s.quiet.owing e tag 0x20) =
        if (s.jobHolding card).isSome then .refuse .wrongState
        else match s.freeJobRecord with
          | none => .refuse .tableFull
          | some j => .tell [Bytes.u8 j.val] ((s.quiet.owing e tag 0x20).openJob j p) := by
      rw [ruleJobOpen_val, State.port_owing, State.port_quiet, hen, hst, hcard]; rfl
  · rw [hpresent, if_pos ((s.jobHolding_isSome card).2 hholds)]
  · rw [hpresent, if_neg (by rw [s.jobHolding_isSome card]; simpa using hnone), State.freeJobRecord_none hfull]
  · have htell : ruleJobOpen p.val (s.quiet.owing e tag 0x20)
        = .tell [Bytes.u8 j.val] ((s.quiet.owing e tag 0x20).openJob j p) := by
      rw [hpresent, if_neg (by rw [s.jobHolding_isSome card]; simpa using hnone), State.freeJobRecord_lowest hj hlow]
    obtain ⟨hjob, hport, hclips, hring, hdests, hplan, hmanifest, hfaults, hlines, hlink⟩ :=
      (s.quiet.owing e tag 0x20).openJob_spec j p
    obtain ⟨hnext, hanswer⟩ := State.request_tell_notices (s := s.quiet)
      (owner := fun _ s => ruleJobOpen p.val s) he htell hlink
    refine ⟨_, hrun.trans hnext, ?_, fun l hl => (hjob l).trans (if_neg hl), (hport p).trans (if_pos rfl),
      fun q hq => (hport q).trans (if_neg hq), hclips, hring, hdests, hplan, hmanifest, hfaults, hlines, hanswer⟩
    exact ((hjob j).trans (if_pos rfl)).trans (by rw [State.port_owing, State.port_quiet, hcard])

/-! ### CLIP_ADD (O46) -/

theorem illFormed_iff (x : ClipEntry) : IllFormed x ↔ ClipEntry.inForm x = false := by
  have hextents : (∃ y ∈ x.extents, y.count = 0 ∨ 16777216 < y.count) ↔ x.extents.all Extent.inRange = false := by
    rw [List.all_eq_false]
    refine exists_congr fun y => and_congr_right fun _ => ?_
    simp [Extent.inRange]
    omega
  have hempty : (x.length = 0 ∧ x.extents ≠ []) ∨ (0 < x.length ∧ x.extents = []) ↔ ¬(x.length = 0 ↔ x.extents = []) := by
    by_cases hl : x.length = 0 <;> by_cases he : x.extents = [] <;> simp [hl, he, Nat.pos_of_ne_zero]
  unfold IllFormed ClipEntry.inForm
  rw [hextents]
  have hlength : decide (x.length ≤ (x.extents.map (·.count)).sum * sectorBytes) = false
      ↔ (x.extents.map (·.count)).sum * 512 < x.length := by rw [decide_eq_false_iff_not, Nat.not_le]; rfl
  rw [Bool.and_eq_false_iff, Bool.and_eq_false_iff, hlength]
  simp only [Bool.and_eq_false_iff, decide_eq_false_iff_not, ← hempty, Nat.not_lt, Nat.not_le, or_assoc]

/-- The lowest numbers not in use, as a filter of all of them. -/
theorem Table.freeFrom_eq (used : List Nat) (fuel k want : Nat) :
    Table.freeFrom used fuel k want = ((List.range' k fuel).filter fun c => !used.contains c).take want := by
  induction fuel generalizing k want with
  | zero => simp [Table.freeFrom]
  | succ fuel ih =>
    cases want with
    | zero => simp [Table.freeFrom]
    | succ want =>
      rw [Table.freeFrom, List.range'_succ, List.filter_cons]
      by_cases h : used.contains k = true
      · rw [if_pos h, ih, if_neg (by rw [h]; decide)]
      · rw [if_neg h, ih, if_pos (by simpa using h), List.take_succ_cons]

theorem State.freeClipNumbers_eq (s : State) (want : Nat) :
    s.freeClipNumbers want = ((List.range 4096).filter fun c => (s.clip? c).isNone).take want := by
  rw [State.freeClipNumbers, Table.freeFrom_eq, List.range_eq_range']
  congr 2
  funext c
  have : (s.clip? c).isNone = true ↔ c ∉ s.clips.map Prod.fst := by
    rw [Option.isNone_iff_eq_none]; exact Table.find_eq_none_iff
  rw [Bool.eq_iff_iff, this]
  simp

/-- The clip records filled by CLIP_ADD, entry by entry. -/
theorem State.foldl_setClip_of_not_mem (j : JobNo) {ns : List Nat} {es : List ClipEntry} {c : Nat} (h : c ∉ ns) (s : State) :
    ((ns.zip es).foldl (fun s (c, e) => s.setClip c (Clip.added j e)) s).clip? c = s.clip? c := by
  induction ns generalizing es s with
  | nil => rfl
  | cons n ns ih =>
    cases es with
    | nil => rfl
    | cons e es =>
      rw [List.mem_cons, not_or] at h
      rw [List.zip_cons_cons, List.foldl_cons, ih h.2, State.clip_setClip, if_neg h.1]

theorem State.foldl_setClip_getElem (j : JobNo) {ns : List Nat} {es : List ClipEntry} (hn : ns.Nodup) {i c : Nat}
    {x : ClipEntry} (hc : ns[i]? = some c) (hx : es[i]? = some x) (s : State) :
    ((ns.zip es).foldl (fun s (c, e) => s.setClip c (Clip.added j e)) s).clip? c = some (Clip.added j x) := by
  induction ns generalizing es s i with
  | nil => simp at hc
  | cons n ns ih =>
    cases es with
    | nil => simp at hx
    | cons e es =>
      rw [List.nodup_cons] at hn
      rw [List.zip_cons_cons, List.foldl_cons]
      cases i with
      | zero =>
        obtain rfl : n = c := by simpa using hc
        obtain rfl : e = x := by simpa using hx
        rw [State.foldl_setClip_of_not_mem j hn.1, State.clip_setClip, if_pos rfl]
      | succ i => exact ih hn.2 (by simpa using hc) (by simpa using hx) _

/-- What adding clips leaves. -/
theorem State.addClips_spec (s : State) (j : JobNo) (ns : List Nat) (es : List ClipEntry) :
    let t := s.addClips j ns es
    (∀ c, t.clip? c = ((ns.zip es).foldl (fun s (c, e) => s.setClip c (Clip.added j e)) s).clip? c)
      ∧ (∀ i, t.job i = if i = j then { s.job j with clips := (s.job j).clips ++ ns } else s.job i)
      ∧ t.ports = s.ports ∧ t.ring = s.ring ∧ t.dests = s.dests ∧ t.plan = s.plan ∧ t.manifest = s.manifest
      ∧ t.faults = s.faults ∧ t.link = s.link := by
  have keeps {γ : Type} (get : State → γ) (h : ∀ (s : State) (c : Nat) (x : Clip), get (s.setClip c x) = get s) :
      get ((ns.zip es).foldl (fun s (c, e) => s.setClip c (Clip.added j e)) s) = get s :=
    foldl_keeps get _ (fun s (z : Nat × ClipEntry) => h s z.1 _) _ s
  refine ⟨fun c => rfl, fun i => ?_, keeps (·.ports) fun _ _ _ => rfl, keeps (·.ring) fun _ _ _ => rfl,
    keeps (·.dests) fun _ _ _ => rfl, keeps (·.plan) fun _ _ _ => rfl, keeps (·.manifest) fun _ _ _ => rfl,
    keeps (·.faults) fun _ _ _ => rfl, keeps (·.link) fun _ _ _ => rfl⟩
  rw [State.addClips, State.job_modJob]
  simp only [State.job_congr (keeps (·.jobs) fun _ _ _ => rfl)]

/-- Settles O46: CLIP_ADD by the branches of its ruling. -/
theorem clipAddRules : Obligations.ClipAddRules := by
  intro tag n es s e he run answer bad free numbers
  have hrun : run = s.quiet.request tag 0x21 fun _ s => ruleClipAdd n es s := exec_clipAdd tag n es s
  have refused {st : Status} (h : ruleClipAdd n es (s.quiet.owing e tag 0x21) = .refuse st) : run = answer st := by
    rw [hrun]; exact State.request_refuse he h
  have hbad : bad ↔ es.length = 0 ∨ 32 < es.length ∨ (!es.all ClipEntry.inForm) = true := by
    simp only [bad, illFormed_iff, Bool.not_eq_true', List.all_eq_false, Bool.not_eq_true]
  refine ⟨fun h => refused ?_, ?_⟩
  · unfold ruleClipAdd
    split
    · rfl
    · rename_i j hj
      refine if_pos (hbad.1 (h.resolve_left fun hn => ?_))
      rw [jobOf_eq_none hn] at hj
      cases hj
  rintro j rfl hok
  have rule : ruleClipAdd j.val es (s.quiet.owing e tag 0x21) =
      if (s.job j).state = .free then .refuse .noSuch
      else if !es.all fun x => x.extents.all (Extent.below ((s.job j).identity.elim 0 (·.capacity))) then .refuse .badParam
      else if (s.job j).state ≠ .loading then .refuse .wrongState
      else if numbers.length < es.length then .refuse .tableFull
      else .tell (Bytes.u8 numbers.length :: numbers.flatMap (Bytes.le 2))
        ((s.quiet.owing e tag 0x21).addClips j numbers es) := by
    have hnumbers : (s.quiet.owing e tag 0x21).freeClipNumbers es.length = numbers := State.freeClipNumbers_eq _ _
    simp only [ruleClipAdd, jobOf_val, hnumbers]
    exact if_neg fun h => hok (hbad.2 h)
  refine ⟨fun hfree => refused (rule.trans (if_pos hfree)), fun card hused hcard => ?_⟩
  have hbelow : (!es.all fun x => x.extents.all (Extent.below ((s.job j).identity.elim 0 (·.capacity)))) = true
      ↔ ∃ x ∈ es, ∃ y ∈ x.extents, card.capacity ≤ y.start + y.count - 1 := by
    simp only [hcard, Option.elim_some, Bool.not_eq_true', List.all_eq_false, Bool.not_eq_true, Extent.below,
      decide_eq_false_iff_not, Nat.not_lt]
  refine ⟨fun h => refused (rule.trans ((if_neg hused).trans (if_pos (hbelow.2 h)))), fun h => ?_⟩
  have hfits : ¬(!es.all fun x => x.extents.all (Extent.below ((s.job j).identity.elim 0 (·.capacity)))) = true := by
    rw [hbelow]
    rintro ⟨x, hx, y, hy, hlt⟩
    have := h x hx y hy
    omega
  have rule' := rule.trans ((if_neg hused).trans (if_neg hfits))
  have hlen : numbers.length = min es.length free.length := List.length_take
  refine ⟨fun hst => refused (rule'.trans (if_pos hst)), fun hst => ⟨fun hfew => ?_, fun hroom => ?_⟩⟩
  · exact refused (rule'.trans ((if_neg (not_not.2 hst)).trans (if_pos (by omega))))
  · have htell := rule'.trans ((if_neg (not_not.2 hst)).trans (if_neg (show ¬numbers.length < es.length by omega)))
    have hnodup : numbers.Nodup := (List.nodup_range.filter _).sublist (List.take_sublist _ _)
    obtain ⟨hclip, hjob, hports, hring, hdests, hplan, hmanifest, hfaults, hlink⟩ :=
      (s.quiet.owing e tag 0x21).addClips_spec j numbers es
    refine ⟨_, hrun.trans (State.request_tell he htell), fun i c x hc hx => ?_, fun c hc => ?_, (hjob j).trans (if_pos rfl),
      fun l hl => (hjob l).trans (if_neg hl), hports, hring, hdests, hplan, hmanifest, hfaults, ?_⟩
    · exact (hclip c).trans (State.foldl_setClip_getElem j hnodup hc hx _)
    · exact (hclip c).trans (State.foldl_setClip_of_not_mem j hc _)
    · rw [State.reply_link_eq, hlink, ← State.reply_link_eq, State.reply_owing]
      rfl

/-! ### JOB_CLOSE (O49) -/

/-- A job record freed, its clips and its port with it. -/
theorem State.freeJob_ports (s : State) (j : JobNo) (p : Option PortNo) :
    let t := s.freeJob j p
    (∀ q, p = some q → t.port q = { s.port q with state := .present, boundJob := none, lamp := t.formLamp q })
      ∧ (∀ q, p ≠ some q → t.port q = s.port q) ∧ s.link.OnlyNotices t.link := by
  have hnotices : s.link.OnlyNotices ((s.freeClips j).moveJob j fun _ => Job.free).link :=
    (s.freeClips j).moveJob_onlyNotices j _
  cases p with
  | none => exact ⟨nofun, fun q _ => rfl, hnotices⟩
  | some p =>
    refine ⟨fun q hq => ?_, fun q hq => ?_, hnotices.trans (State.movePort_onlyNotices _ p _)⟩
    · obtain rfl := Option.some.inj hq
      exact (State.port_movePort_formed _ p _ p).trans (if_pos rfl)
    · exact (State.port_movePort_formed _ p _ q).trans (if_neg fun h => hq (congrArg some h.symm))

/-- Settles O49: JOB_CLOSE frees what `freeJob` frees, when the job's end is open. -/
theorem jobCloseRules : Obligations.JobCloseRules := by
  intro tag j s e he hused run
  have hrun : run = s.quiet.request tag 0x26 fun _ s => ruleJobClose j.val s := exec_jobClose tag j.val s
  have rule : ruleJobClose j.val (s.quiet.owing e tag 0x26) =
      if s.mayClose j then .tell [] ((s.quiet.owing e tag 0x26).freeJob j (s.job j).boundPort)
      else .refuse .wrongState := onJob_used hused _
  refine ⟨fun h => ?_, fun h => ?_⟩ <;> rw [← State.mayClose_iff] at h
  · rw [hrun]; exact State.request_refuse he (rule.trans (if_neg h))
  · obtain ⟨hring, hdests, hplan, hmanifest, hfaults, hclips, -, hjob, -⟩ :=
      (s.quiet.owing e tag 0x26).freeJob_spec j (s.job j).boundPort
    obtain ⟨hbound, hothers, hlink⟩ := (s.quiet.owing e tag 0x26).freeJob_ports j (s.job j).boundPort
    obtain ⟨hnext, hanswer⟩ := State.request_tell_notices (s := s.quiet)
      (owner := fun _ s => ruleJobClose j.val s) he (rule.trans (if_pos h)) hlink
    exact ⟨_, hrun.trans hnext, (hjob j).trans (if_pos rfl), fun l hl => (hjob l).trans (if_neg hl), hclips, hbound,
      hothers, hring, hdests, hplan, hmanifest, hfaults, hanswer⟩

end Sys2Proof.Machine

/-! What lamps, arbiters and reader links leave alone is left alone by every effect that follows.

`Alike` says that two states differ at most in what the end of a task may change between two tasks: lamps, requests
issued, turns of the arbiters, notices. Each operation takes alike states to alike states, so a run of an event's tasks
can be followed without the lamps and the links in between (`effects`). -/

namespace Sys2Proof.Machine

/-! ### Records without what lamps and links change -/

/-- A card port without its lamp and its request. -/
def CardPort.bare (x : CardPort) : CardPort :=
  { x with outstanding := none, abandoned := false, readerTimer := false, lamp := .off }

/-- A card port without its lamp. -/
def CardPort.dark (x : CardPort) : CardPort := { x with lamp := .off }

/-- A read lane whose request may have been issued. -/
def ReadLane.bare (x : ReadLane) : ReadLane := { x with active := x.active.map fun a => { a with formed := none } }

/-- A destination port without its request and its arbiter's turn. -/
def DestPort.bare (x : DestPort) : DestPort :=
  { x with
    outstanding := none, abandoned := false, timer := false, rl := x.rl.bare
    arb := { Arbiter.reset with lock := x.arb.lock } }

/-- A destination port whose arbiter selects nothing: a request is outstanding, or the destination is not in use. -/
def DestPort.Blocked (x : DestPort) : Prop := x.outstanding.isSome ∨ ¬(x.state = .active ∨ x.state = .full)

/-- The link controller without its notices. -/
def Link.bare (l : Link) : Link :=
  { l with outq := l.outq.filter fun f => decide (f.owner ≠ .notice), overflow := false }

/-- Where the effects followed start, and whether a SECTOR_READ may be answered among them. -/
structure Frame where
  start : State
  answers : Bool

/-- `s` and `t` differ at most in lamps, requests issued, arbiters' turns and notices; both carry on what was queued
and what stood on the lines at the start, and the link controller queued only notices unless answers are among the
effects.  What has a request outstanding, or is not in use, issued none. -/
structure Frame.Alike (o : Frame) (s t : State) : Prop where
  ports : ∀ p, (s.port p).bare = (t.port p).bare
  read : ∀ p, (s.port p).outstanding.isSome → (t.port p).dark = (s.port p).dark
  dests : ∀ d, (s.dest d).bare = (t.dest d).bare
  busy : ∀ d, (s.dest d).Blocked → t.dest d = s.dest d
  jobs : s.jobs = t.jobs
  clips : s.clips = t.clips
  ring : s.ring = t.ring
  plan : s.plan = o.start.plan ∧ t.plan = o.start.plan
  manifest : s.manifest = t.manifest
  faults : s.faults = t.faults
  pending : s.pending = o.start.pending ∧ t.pending = o.start.pending
  link : s.link.bare = t.link.bare
  noReply : o.answers = false → s.link.bare = o.start.link.bare
  outq : o.start.link.outq <+: s.link.outq ∧ o.start.link.outq <+: t.link.outq
  lines : o.start.lines <+: s.lines ∧ o.start.lines <+: t.lines

/-! ### Lamps and links -/

theorem CardPort.bare_eq_of_sameCard {x y : CardPort} (h : x.SameCard y) : x.bare = y.bare := by
  obtain ⟨h1, h2, h3, h4, h5, h6, h7⟩ := h
  simp only [CardPort.bare, h1, h2, h3, h4, h5, h6, h7]

theorem CardPort.sameCard_of_bare_eq {x y : CardPort} (h : x.bare = y.bare) : x.SameCard y :=
  ⟨(congrArg CardPort.enabled h).symm, (congrArg CardPort.state h).symm, (congrArg CardPort.identity h).symm,
    (congrArg CardPort.boundJob h).symm, (congrArg CardPort.fifo h).symm, (congrArg CardPort.identityTimer h).symm,
    (congrArg CardPort.released h).symm⟩

theorem DestPort.sameDrive_of_bare_eq {x y : DestPort} (h : x.bare = y.bare) : x.SameDrive y :=
  ⟨(congrArg DestPort.present h).symm, (congrArg DestPort.capacity h).symm, (congrArg DestPort.outSinceIn h).symm,
    (congrArg DestPort.state h).symm, (congrArg DestPort.binding h).symm, (congrArg DestPort.wq h).symm,
    (congrArg DestPort.cq h).symm, (congrArg DestPort.lane h).symm, (congrArg (·.rl.jobs) h).symm,
    (congrArg (·.rl.sum) h).symm, (congrArg (·.arb.lock) h).symm⟩

theorem Link.bare_queueNotice (l : Link) {f : OutFrame} (hf : f.owner = .notice) : (l.queueNotice f).bare = l.bare := by
  rcases l.queueNotice_cases f with ⟨-, h⟩ | ⟨-, h⟩ <;> rw [h] <;> simp [Link.bare, List.filter_append, hf]

theorem Link.bare_of_onlyNotices {l m : Link} (h : l.OnlyNotices m) : m.bare = l.bare := by
  obtain ⟨h1, h2, h3, h4, h5, notices, hn, h6⟩ := h
  have : notices.filter (fun f => decide (f.owner ≠ .notice)) = [] := by
    rw [List.filter_eq_nil_iff]
    exact fun f hf => by simp [hn f hf]
  simp only [Link.bare, h1, h2, h3, h4, h5, h6, List.filter_append, this, List.append_nil]

/-- A link controller that kept all but notices, and added at the tail, queued at most notices. -/
theorem Link.onlyNotices_of_bare {l m : Link} (h : m.bare = l.bare) (hq : l.outq <+: m.outq) : l.OnlyNotices m := by
  obtain ⟨more, hmore⟩ := hq
  refine ⟨(congrArg Link.table h :), (congrArg Link.parser h :), (congrArg Link.buf h :), (congrArg Link.stall h :),
    (congrArg Link.refusal h :), more, fun f hf => ?_, hmore.symm⟩
  have hfilter : m.outq.filter (fun f => decide (f.owner ≠ .notice)) = l.outq.filter (fun f => decide (f.owner ≠ .notice)) :=
    (congrArg Link.outq h :)
  rw [← hmore, List.filter_append] at hfilter
  have hnone : more.filter (fun f => decide (f.owner ≠ .notice)) = [] :=
    List.append_cancel_left (hfilter.trans (List.append_nil _).symm)
  simpa using List.filter_eq_nil_iff.1 hnone f hf

namespace Frame.Alike

variable {o : Frame} {s t u : State}

theorem trans (h : o.Alike s t) (g : o.Alike t u) : o.Alike s u :=
  ⟨fun p => (h.ports p).trans (g.ports p),
    fun p hp => by
      have hst := h.read p hp
      have ht : (t.port p).outstanding.isSome := by
        rw [show (t.port p).outstanding = (s.port p).outstanding from (congrArg CardPort.outstanding hst :)]; exact hp
      exact (g.read p ht).trans hst,
    fun d => (h.dests d).trans (g.dests d),
    fun d hd => by
      have hst := h.busy d hd
      exact (g.busy d (by rw [hst]; exact hd)).trans hst,
    h.jobs.trans g.jobs,
    h.clips.trans g.clips, h.ring.trans g.ring, ⟨h.plan.1, g.plan.2⟩, h.manifest.trans g.manifest,
    h.faults.trans g.faults, ⟨h.pending.1, g.pending.2⟩, h.link.trans g.link, h.noReply, ⟨h.outq.1, g.outq.2⟩,
    ⟨h.lines.1, g.lines.2⟩⟩

theorem refl (s : State) (answers : Bool) : Frame.Alike ⟨s, answers⟩ s s :=
  ⟨fun _ => rfl, fun _ _ => rfl, fun _ => rfl, fun _ _ => rfl, rfl, rfl, rfl, ⟨rfl, rfl⟩, rfl, rfl, ⟨rfl, rfl⟩, rfl, fun _ => rfl, ⟨List.prefix_rfl, List.prefix_rfl⟩,
    ⟨List.prefix_rfl, List.prefix_rfl⟩⟩

/-! ### What alike states agree on -/

section Reads

variable (h : o.Alike s t)
include h

theorem job (j : JobNo) : s.job j = t.job j := by simp only [State.job, h.jobs]
theorem clip (c : Nat) : s.clip? c = t.clip? c := by simp only [State.clip?, h.clips]
theorem copy (c : Nat) (d : DestNo) : s.copy? c d = t.copy? c d := by simp only [State.copy?, h.clip]
theorem slot (n : Nat) : s.slot? n = t.slot? n := by simp only [State.slot?, h.ring]
theorem clipState (c : Nat) : s.clipState? c = t.clipState? c := by simp only [State.clipState?, h.clip]
theorem clipAtRead (j : JobNo) : s.clipAtRead j = t.clipAtRead j := by simp only [State.clipAtRead, h.job]
theorem clipsIn (j : JobNo) (p : ClipState → Bool) : s.clipsIn j p = t.clipsIn j p := by
  simp only [State.clipsIn, h.job, h.clipState]
theorem fillingOf (r : Requester) : s.fillingOf r = t.fillingOf r := by simp only [State.fillingOf, h.ring]
theorem clipsOfJob (j : JobNo) : s.clipsOfJob j = t.clipsOfJob j := by simp only [State.clipsOfJob, h.clips, h.job]
theorem hasMovingCopy (j : JobNo) : s.hasMovingCopy j = t.hasMovingCopy j := by
  simp only [State.hasMovingCopy, h.job, h.clip]
theorem atBoundary (j : JobNo) : s.atBoundary j = t.atBoundary j := by simp only [State.atBoundary, h.fillingOf]
theorem readsOn (j : JobNo) : s.readsOn j = t.readsOn j := by
  simp only [State.readsOn, h.clipAtRead, show s.clip? = t.clip? from funext h.clip]
theorem firstListed (j : JobNo) : s.firstListed j = t.firstListed j := by
  simp only [State.firstListed, h.job, h.clipState]
theorem anyListed (j : JobNo) : s.anyListed j = t.anyListed j := by simp only [State.anyListed, h.clipsIn]
theorem anyToRead (j : JobNo) : s.anyToRead j = t.anyToRead j := by simp only [State.anyToRead, h.clipsIn]
theorem mayRead (j : JobNo) : s.mayRead j = t.mayRead j := by simp only [State.mayRead, h.job, h.atBoundary]
theorem planWriting (c : Nat) : s.planWriting c = t.planWriting c := by simp only [State.planWriting, h.clip]
theorem portFor (c : Nat) : s.portFor c = t.portFor c := by simp only [State.portFor, h.clip, h.job]
theorem stagedFor (d : DestNo) (c k : Nat) : s.stagedFor d c k = t.stagedFor d c k := by
  simp only [State.stagedFor, h.ring]
theorem isFilling (n : Nat) : s.isFilling n = t.isFilling n := by simp only [State.isFilling, h.slot]
theorem jobOfClip (c : Nat) : s.jobOfClip c = t.jobOfClip c := by simp only [State.jobOfClip, h.clip]
theorem settleOf (c : Nat) : s.settleOf c = t.settleOf c := by simp only [State.settleOf, h.jobOfClip]
theorem jobHolding (i : Identity) : s.jobHolding i = t.jobHolding i := by simp only [State.jobHolding, h.job]
theorem formRecord (c : Nat) (x : Clip) : s.formRecord c x = t.formRecord c x := by simp only [State.formRecord, h.job]

theorem lane (d : DestNo) : (s.dest d).lane = (t.dest d).lane := (congrArg DestPort.lane (h.dests d) :)
theorem destState (d : DestNo) : (s.dest d).state = (t.dest d).state := (congrArg DestPort.state (h.dests d) :)
theorem binding (d : DestNo) : (s.dest d).binding = (t.dest d).binding := (congrArg DestPort.binding (h.dests d) :)
theorem cq (d : DestNo) : (s.dest d).cq = (t.dest d).cq := (congrArg DestPort.cq (h.dests d) :)
theorem wq (d : DestNo) : (s.dest d).wq = (t.dest d).wq := (congrArg DestPort.wq (h.dests d) :)
theorem readJobs (d : DestNo) : (s.dest d).rl.jobs = (t.dest d).rl.jobs := (congrArg (·.rl.jobs) (h.dests d) :)
theorem readActive (d : DestNo) : (s.dest d).rl.active.isSome = (t.dest d).rl.active.isSome := by
  simpa [DestPort.bare, ReadLane.bare] using congrArg (·.rl.active.isSome) (h.dests d)
theorem isActive (d : DestNo) : s.isActive d = t.isActive d := by simp only [State.isActive, h.destState]
theorem isServing (d : DestNo) : s.isServing d = t.isServing d := by simp only [State.isServing, h.destState]
theorem allocate (d : DestNo) (a n : Nat) : (s.dest d).allocate a n = (t.dest d).allocate a n := by
  simp only [DestPort.allocate, h.binding, h.destState]
theorem lanesWith (c : Nat) : s.lanesWith c = t.lanesWith c := by simp only [State.lanesWith, h.lane]
theorem laneNames (d : DestNo) (n : Nat) : s.laneNames d n = t.laneNames d n := by simp only [State.laneNames, h.cq]
theorem orphaned (n : Nat) (x : Slot) : s.orphaned n x = t.orphaned n x := by simp only [State.orphaned, h.laneNames]
theorem orphans : s.orphans = t.orphans := by simp only [State.orphans, h.ring, h.orphaned]
theorem verifiedSource (d : DestNo) (c : Nat) (l : List DestNo) : s.verifiedSource d c l = t.verifiedSource d c l := by
  simp only [State.verifiedSource, h.clip, h.isActive]
theorem formUnitRead_none (e : DestNo) (c k : Nat) : s.formUnitRead e c k = t.formUnitRead e c k := by
  simp only [State.formUnitRead, h.clip, h.binding]
theorem heldAtLimit (r : Requester) : s.heldAtLimit r = t.heldAtLimit r := by
  cases r with
  | job j => simp only [State.heldAtLimit, h.job, h.atBoundary, h.ring]
  | lane d => simp only [State.heldAtLimit, h.lane, h.ring]

end Reads

theorem orphansSince {s' t' : State} (h : o.Alike s t) (h' : o.Alike s' t') : s'.orphansSince s = t'.orphansSince t := by
  simp only [State.orphansSince, h.orphans, h'.orphans]

/-! ### Lamps and links keep states alike -/

theorem of_lampsOnly (h : o.Alike s t) (g : t.LampsOnly u) : o.Alike s u := by
  obtain ⟨⟨hj, hc, hr, hp, hm, hf, hq⟩, hd, hl, hlink, hport⟩ := g
  have hout : t.link.outq <+: u.link.outq := by
    obtain ⟨-, -, -, -, -, notices, -, he⟩ := hlink
    exact ⟨notices, he.symm⟩
  refine h.trans ⟨fun p => CardPort.bare_eq_of_sameCard (hport p).1, fun p _ => ?_,
    fun d => by rw [State.dest_congr hd], fun d _ => State.dest_congr hd d, hj.symm, hc.symm,
    hr.symm, ⟨h.plan.2, hp.trans h.plan.2⟩, hm.symm, hf.symm, ⟨h.pending.2, hq.trans h.pending.2⟩, (Link.bare_of_onlyNotices hlink).symm,
    fun ho => h.link.symm.trans (h.noReply ho), ⟨h.outq.2, h.outq.2.trans hout⟩,
    ⟨h.lines.2, hl ▸ h.lines.2⟩⟩
  obtain ⟨⟨h1, h2, h3, h4, h5, h6, h7⟩, h8, h9, h10⟩ := hport p
  simp only [CardPort.dark, h1, h2, h3, h4, h5, h6, h7, h8, h9, h10]

theorem refreshLamps (h : o.Alike s t) : o.Alike s t.refreshLamps := h.of_lampsOnly t.refreshLamps_lampsOnly

/-! ### Ports, destinations and the other blocks -/

section Basics

variable (h : o.Alike s t)
include h

theorem modPort₂ {p : PortNo} {f g : CardPort → CardPort} (hfg : (f (s.port p)).bare = (g (t.port p)).bare)
    (hr : (f (s.port p)).outstanding.isSome → (g (t.port p)).dark = (f (s.port p)).dark) :
    o.Alike (s.modPort p f) (t.modPort p g) :=
  { h with
    ports := fun q => by
      by_cases hq : p = q
      · subst hq; simpa using hfg
      · simpa [hq] using h.ports q
    read := fun q => by
      by_cases hq : p = q
      · subst hq; simpa using hr
      · simpa [hq] using h.read q }

/-- A change that keeps the request and looks at neither lamp nor request. -/
theorem modPort (p : PortNo) {f : CardPort → CardPort} (hf : ∀ x, (f x).bare = (f x.bare).bare)
    (ho : ∀ x, (f x).outstanding = x.outstanding := by intro; rfl) (hd : ∀ x, (f x).dark = (f x.dark).dark := by intro; rfl) :
    o.Alike (s.modPort p f) (t.modPort p f) :=
  h.modPort₂ (by rw [hf, h.ports p, ← hf]) fun hp => by rw [hd, h.read p (ho _ ▸ hp), ← hd]

theorem modDest₂ {d : DestNo} {f g : DestPort → DestPort} (hfg : (f (s.dest d)).bare = (g (t.dest d)).bare)
    (hb : (f (s.dest d)).Blocked → g (t.dest d) = f (s.dest d)) : o.Alike (s.modDest d f) (t.modDest d g) :=
  { h with
    dests := fun e => by
      by_cases he : d = e
      · subst he; simpa using hfg
      · simpa [he] using h.dests e
    busy := fun e => by
      by_cases he : d = e
      · subst he; simpa using hb
      · simpa [he] using h.busy e }

/-- A change that blocks no destination. -/
theorem modDest' (d : DestNo) {f : DestPort → DestPort} (f' : DestPort → DestPort) (hf : ∀ x, (f x).bare = f' x.bare)
    (hb : ∀ x, (f x).Blocked → x.Blocked := by intro _ hb; exact hb) : o.Alike (s.modDest d f) (t.modDest d f) :=
  h.modDest₂ (by rw [hf, h.dests d, ← hf]) fun hd => by rw [h.busy d (hb _ hd)]

theorem modDest (d : DestNo) {f : DestPort → DestPort} (hf : ∀ x, (f x).bare = f x.bare)
    (hb : ∀ x, (f x).Blocked → x.Blocked := by intro _ hb; exact hb) :
    o.Alike (s.modDest d f) (t.modDest d f) := h.modDest' d f hf hb

theorem modLane (d : DestNo) (f : Lane → Lane) : o.Alike (s.modLane d f) (t.modLane d f) := h.modDest d fun _ => rfl

theorem modJob (j : JobNo) (f : Job → Job) : o.Alike (s.modJob j f) (t.modJob j f) :=
  { h with jobs := by simp only [State.modJob, State.setJob, h.jobs, h.job] }

theorem setClips (f : State → List (Nat × Clip)) (hf : f s = f t) :
    o.Alike { s with clips := f s } { t with clips := f t } := { h with clips := hf }

theorem setRing (r : Ring) : o.Alike { s with ring := r } { t with ring := r } := { h with ring := rfl }

theorem setManifest (m : Manifest) : o.Alike { s with manifest := m } { t with manifest := m } :=
  { h with manifest := rfl }

theorem setFaults (u : FaultUnit) : o.Alike { s with faults := u } { t with faults := u } := { h with faults := rfl }

theorem notify (n : Notice) : o.Alike (s.notify n) (t.notify n) :=
  { h with
    link := by
      rw [State.notify_link_eq, State.notify_link_eq, Link.bare_queueNotice _ rfl, Link.bare_queueNotice _ rfl, h.link]
    noReply := fun ho => by rw [State.notify_link_eq, Link.bare_queueNotice _ rfl, h.noReply ho]
    outq := by
      have more (l : Link) (f : OutFrame) : l.outq <+: (l.queueNotice f).outq := by
        rcases l.queueNotice_cases f with ⟨-, he⟩ | ⟨-, he⟩ <;> rw [he]
        exact List.prefix_append _ _
      exact ⟨h.outq.1.trans (more _ _), h.outq.2.trans (more _ _)⟩ }

theorem reply (ho : o.answers = true) (e : EntryNo) (st : Status) (b : List Byte) : o.Alike (s.reply e st b) (t.reply e st b) := by
  have htable : s.link.table = t.link.table := (congrArg Link.table h.link :)
  have hreply (l : Link) : l.queueReply e st b = l ∧ (∀ x, l.table[e] = some x → x.queued = true)
      ∨ ∃ x, l.table[e] = some x ∧ x.queued = false ∧ l.queueReply e st b =
        { l with table := l.table.set e (some { x with queued := true })
                 outq := l.outq ++ [replyFrame (.reply e) x.tag st b] } := by
    unfold Link.queueReply
    split
    · rename_i hnone; exact .inl ⟨rfl, fun x hx => by rw [hnone] at hx; cases hx⟩
    · rename_i x hx
      split
      · rename_i hq; exact .inl ⟨rfl, fun y hy => by rw [hx] at hy; cases hy; exact hq⟩
      · rename_i hq; exact .inr ⟨x, hx, by simpa using hq, rfl⟩
  rcases hreply s.link with ⟨hs, hno⟩ | ⟨x, hx, hxq, hs⟩ <;> rcases hreply t.link with ⟨ht, hno'⟩ | ⟨y, hy, hyq, ht⟩
  · exact { h with
      link := by rw [State.reply_link_eq, State.reply_link_eq, hs, ht, h.link]
      noReply := fun h => by rw [ho] at h; cases h
      outq := by rw [State.reply_link_eq, State.reply_link_eq, hs, ht]; exact h.outq }
  · rw [← htable] at hy; rw [hno y hy] at hyq; cases hyq
  · rw [htable] at hx; rw [hno' x hx] at hxq; cases hxq
  · obtain rfl : x = y := by rw [htable, hy] at hx; exact (Option.some.inj hx).symm
    have hout : s.link.outq.filter (fun f => decide (f.owner ≠ .notice))
        = t.link.outq.filter (fun f => decide (f.owner ≠ .notice)) := (congrArg Link.outq h.link :)
    exact { h with
      link := by
        rw [State.reply_link_eq, State.reply_link_eq, hs, ht]
        simp only [Link.bare, htable, List.filter_append, hout]
        rw [show s.link.parser = t.link.parser from (congrArg Link.parser h.link :),
          show s.link.buf = t.link.buf from (congrArg Link.buf h.link :),
          show s.link.stall = t.link.stall from (congrArg Link.stall h.link :),
          show s.link.refusal = t.link.refusal from (congrArg Link.refusal h.link :)]
      noReply := fun h => by rw [ho] at h; cases h
      outq := by
        rw [State.reply_link_eq, State.reply_link_eq, hs, ht]
        exact ⟨h.outq.1.trans (List.prefix_append _ _), h.outq.2.trans (List.prefix_append _ _)⟩ }

/-- What the left side puts on a line the right one may put there or not. -/
theorem emitLine (a : LineOut) : o.Alike (s.emitLine a) (t.emitLine a) :=
  { h with lines := ⟨h.lines.1.trans (List.prefix_append _ _), h.lines.2.trans (List.prefix_append _ _)⟩ }

theorem emitLine_right (a : LineOut) : o.Alike s (t.emitLine a) :=
  { h with lines := ⟨h.lines.1, h.lines.2.trans (List.prefix_append _ _)⟩ }

theorem modPort_right {p : PortNo} (hs : (s.port p).outstanding = none) {f : CardPort → CardPort}
    (hf : (f (t.port p)).bare = (t.port p).bare) : o.Alike s (t.modPort p f) :=
  { h with
    ports := fun q => by
      by_cases hq : p = q
      · subst hq; simpa [hf] using h.ports p
      · simpa [hq] using h.ports q
    read := fun q hp => by
      by_cases hq : p = q
      · subst hq; rw [hs] at hp; cases hp
      · simpa [hq] using h.read q hp }

theorem modDest_right {d : DestNo} (hs : ¬(s.dest d).Blocked) {f : DestPort → DestPort}
    (hf : (f (t.dest d)).bare = (t.dest d).bare) : o.Alike s (t.modDest d f) :=
  { h with
    dests := fun e => by
      by_cases he : d = e
      · subst he; simpa [hf] using h.dests d
      · simpa [he] using h.dests e
    busy := fun e hb => by
      by_cases he : d = e
      · subst he; exact absurd hb hs
      · simpa [he] using h.busy e hb }

end Basics

/-! ### Arbiters and reader links -/

theorem carryGrant (h : o.Alike s t) {d : DestNo} (hd : ¬(s.dest d).Blocked) (g : Grant) : o.Alike s (t.carryGrant d g) := by
  have hissue (r : DriveRequest) : o.Alike s (t.issueDrive d r) := (h.modDest_right hd rfl).emitLine_right _
  cases g with
  | writer w =>
    simp only [State.carryGrant]
    split
    · exact h
    · exact (hissue _).modDest_right hd rfl
  | readLane =>
    simp only [State.carryGrant]
    split
    · rename_i step cmd retries hact
      refine (hissue _).modDest_right hd ?_
      simp only [State.issueDrive, State.dest_emitLine, State.dest_modDest_self, DestPort.bare, ReadLane.bare, hact,
        Option.map_some]
    · exact h

theorem serveLinks (h : o.Alike s t) : o.Alike s t.serveLinks := by
  refine serveLinks_invariant (o.Alike s ·) (fun t d h => ?_) (fun t p h => ?_) h
  · unfold State.arbitrate
    split
    · exact h
    · rename_i g hg
      refine h.carryGrant (fun hb => ?_) g
      have hnone : t.select d = none := by
        rcases hb with hb | hb
        · have hout : (t.dest d).outstanding.isNone = false := by
            rw [h.busy d (.inl hb)]
            cases ho : (s.dest d).outstanding
            · rw [ho] at hb; cases hb
            · rfl
          simp only [State.select, hout, Bool.and_false, Bool.false_eq_true, if_false]
        · have hserve : t.isServing d = false := by
            rw [← h.isServing]
            exact decide_eq_false hb
          simp only [State.select, hserve, Bool.false_and, Bool.false_eq_true, if_false]
      rw [hnone] at hg
      cases hg
  · unfold State.serveReader
    split
    · exact h
    · split
      · rename_i hready
        refine (h.modPort_right ?_ rfl).emitLine_right _
        simp only [State.readerReady, Bool.and_eq_true, Option.isNone_iff_eq_none] at hready
        by_contra hsome
        have hs : (s.port p).outstanding.isSome := Option.isSome_iff_ne_none.2 hsome
        have ht : (t.port p).outstanding = (s.port p).outstanding := (congrArg CardPort.outstanding (h.read p hs) :)
        rw [← ht] at hsome
        simp_all
      · exact h

end Frame.Alike

end Sys2Proof.Machine

/-! Each operation the effects are made of takes alike states to alike states. -/

namespace Sys2Proof.Machine

namespace Frame.Alike

variable {o : Frame} {s t : State}

theorem foldl {β : Type} {f : State → β → State} (hf : ∀ {s t : State} (x : β), o.Alike s t → o.Alike (f s x) (f t x))
    (l : List β) (h : o.Alike s t) : o.Alike (l.foldl f s) (l.foldl f t) := by
  induction l generalizing s t with
  | nil => exact h
  | cons x l ih => exact ih (hf x h)

section

variable (h : o.Alike s t)
include h

/-! ### Clips and slots -/

theorem setClip (c : Nat) (x : Clip) : o.Alike (s.setClip c x) (t.setClip c x) :=
  { h with clips := by simp only [State.setClip, h.clips] }

theorem modClip (c : Nat) (f : Clip → Clip) : o.Alike (s.modClip c f) (t.modClip c f) := by
  unfold State.modClip
  rw [h.clip]
  split
  · exact h
  · exact h.setClip c _

theorem setCopy (c : Nat) (d : DestNo) (k : Copy) : o.Alike (s.setCopy c d k) (t.setCopy c d k) := h.modClip c _

theorem modCopy (c : Nat) (d : DestNo) (f : Copy → Copy) : o.Alike (s.modCopy c d f) (t.modCopy c d f) := by
  unfold State.modCopy
  rw [h.copy]
  split
  · exact h
  · exact h.setCopy c d _

theorem modSlot (n : Nat) (f : Slot → Slot) : o.Alike (s.modSlot n f) (t.modSlot n f) := by
  unfold State.modSlot
  rw [h.slot, h.ring]
  split
  · exact h
  · exact h.setRing _

theorem stageSlot (n : Nat) (ds : List DestNo) : o.Alike (s.stageSlot n ds) (t.stageSlot n ds) := h.modSlot n _

theorem leaveWait (r : Requester) : o.Alike (s.leaveWait r) (t.leaveWait r) := by
  unfold State.leaveWait
  rw [h.ring]
  exact h.setRing _

theorem joinWait (r : Requester) : o.Alike (s.joinWait r) (t.joinWait r) := by
  unfold State.joinWait
  rw [h.ring]
  split
  · exact h
  · exact h.setRing _

/-! ### Changes of state with their notices -/

theorem moveJob (j : JobNo) (f : Job → Job) : o.Alike (s.moveJob j f) (t.moveJob j f) := by
  unfold State.moveJob
  rw [h.job]
  exact (h.modJob j f).notify _

theorem movePort₂ {p : PortNo} {f g : CardPort → CardPort} (hfg : (f (s.port p)).bare = (g (t.port p)).bare)
    (hr : (f (s.port p)).outstanding.isSome → (g (t.port p)).dark = (f (s.port p)).dark) :
    o.Alike (s.movePort p f) (t.movePort p g) := by
  refine ((h.modPort₂ hfg hr).modPort₂ ?_ ?_).notify _
  · rw [State.port_modPort_self, State.port_modPort_self]
    exact hfg
  · rw [State.port_modPort_self, State.port_modPort_self]
    exact hr

theorem movePort (p : PortNo) {f : CardPort → CardPort} (hf : ∀ x, (f x).bare = (f x.bare).bare)
    (ho : ∀ x, (f x).outstanding = x.outstanding := by intro; rfl) (hd : ∀ x, (f x).dark = (f x.dark).dark := by intro; rfl) :
    o.Alike (s.movePort p f) (t.movePort p f) :=
  h.movePort₂ (by rw [hf, h.ports p, ← hf]) fun hp => by rw [hd, h.read p (ho _ ▸ hp), ← hd]

theorem moveDest (d : DestNo) {f : DestPort → DestPort} (hf : ∀ x, (f x).bare = f x.bare)
    (hb : ∀ x, (f x).Blocked → x.Blocked := by intro _ hb; exact hb) :
    o.Alike (s.moveDest d f) (t.moveDest d f) := (h.modDest d hf hb).notify _

/-! ### Pauses and faults -/

theorem pauseNow (j : JobNo) : o.Alike (s.pauseNow j) (t.pauseNow j) := (h.leaveWait (.job j)).moveJob j _

theorem askPause (cause : PauseCause) (j : JobNo) : o.Alike (s.askPause cause j) (t.askPause cause j) := by
  have g := h.modJob j fun x => { x with pausePending := true, pauseCause := some cause }
  simp only [State.askPause, g.atBoundary, g.readsOn]
  split
  · exact g.pauseNow j
  · exact g

theorem holdJob (j : JobNo) : o.Alike (s.holdJob j) (t.holdJob j) := by
  unfold State.holdJob
  rw [h.job]
  split
  · exact h.askPause _ _
  · split
    · exact h.modJob j _
    · exact h
  all_goals exact h

theorem holdJobs : o.Alike s.holdJobs t.holdJobs := by
  unfold State.holdJobs
  exact foldl (fun j h => h.holdJob j) _ h

theorem raise (a : Occurrence) : o.Alike (s.raise a) (t.raise a) := by
  have g : o.Alike { s with faults := t.faults.take a } { t with faults := t.faults.take a } := h.setFaults _
  simp only [State.raise, State.carryRoute, h.faults]
  cases (t.faults.take a).route a.cls
  case quiet => exact g
  case notice => exact g.notify _
  case alarm => exact g
  case hold => exact g.holdJobs

/-! ### Slots -/

theorem modHeld (r : Requester) (f : Nat → Nat) : o.Alike (s.modHeld r f) (t.modHeld r f) := by
  cases r with
  | job j => exact h.modJob j fun x => { x with held := f x.held }
  | lane d => exact h.modLane d fun x => { x with held := f x.held }

theorem giveSlot (r : Requester) (c k : Nat) : (s.giveSlot r c k = none ∧ t.giveSlot r c k = none)
    ∨ ∃ n s' t', s.giveSlot r c k = some (n, s') ∧ t.giveSlot r c k = some (n, t') ∧ o.Alike s' t' := by
  unfold State.giveSlot
  rw [h.clip, h.ring]
  split
  · exact .inr ⟨_, _, _, rfl, rfl, (h.setRing _).modHeld r _⟩
  · exact .inl ⟨rfl, rfl⟩

theorem freeSlot (n : Nat) : o.Alike (s.freeSlot n) (t.freeSlot n) := by
  unfold State.freeSlot
  rw [h.slot, h.ring]
  split
  · exact h
  · exact (h.setRing _).modHeld _ _

/-! ### Reading -/

theorem standAt (j : JobNo) (i : Nat) : o.Alike (s.standAt j i) (t.standAt j i) := h.modJob j _

theorem standAtFirst (j : JobNo) : o.Alike (s.standAtFirst j) (t.standAtFirst j) := by
  unfold State.standAtFirst
  rw [h.firstListed]
  exact h.standAt j _

theorem queuePieces (p : PortNo) (w : ReaderWork) (l : List (Nat × Nat)) :
    o.Alike (s.queuePieces p w l) (t.queuePieces p w l) := h.modPort p fun _ => rfl

theorem startUnit (j : JobNo) : (s.startUnit j = none ∧ t.startUnit j = none)
    ∨ ∃ s' t', s.startUnit j = some s' ∧ t.startUnit j = some t' ∧ o.Alike s' t' := by
  unfold State.startUnit
  rw [h.clipAtRead, h.job]
  split
  · exact .inl ⟨rfl, rfl⟩
  · rename_i c _
    rcases h.giveSlot (.job j) c (t.job j).readPos.unit with ⟨hs, ht⟩ | ⟨n, s', t', hs, ht, g⟩ <;> simp only [hs, ht]
    · exact .inl ⟨trivial, trivial⟩
    · rw [h.clip]
      split
      · exact .inr ⟨_, _, rfl, rfl, g.queuePieces _ _ _⟩
      · exact .inr ⟨_, _, rfl, rfl, g⟩

theorem askForJob (j : JobNo) : o.Alike (s.askForJob j) (t.askForJob j) := by
  unfold State.askForJob
  rw [h.mayRead, h.job]
  split
  · exact h
  · split
    · exact h
    · rcases h.startUnit j with ⟨hs, ht⟩ | ⟨s', t', hs, ht, g⟩ <;> simp only [hs, ht]
      · exact h.joinWait _
      · exact g

theorem withdrawReads (gone : ReaderWork → Bool) (p : PortNo) : o.Alike (s.withdrawReads gone p) (t.withdrawReads gone p) :=
  h.modPort p fun _ => rfl

/-! ### Write queues and read lanes -/

theorem queueItem (d : DestNo) (w : Writer) (i : Item) : o.Alike (s.queueItem d w i) (t.queueItem d w i) :=
  h.modDest d (fun _ => by cases w <;> rfl) fun _ hb => by cases w <;> exact hb

theorem resetArbiter (d : DestNo) : o.Alike (s.resetArbiter d) (t.resetArbiter d) := h.modDest d fun _ => rfl

theorem setActive (e : DestNo) (a : Option ActiveRead) : o.Alike (s.setActive e a) (t.setActive e a) := by
  refine h.modDest₂ ?_ fun hb => by rw [h.busy e hb]
  have hd := h.dests e
  simp only [DestPort.bare, ReadLane.bare, DestPort.mk.injEq, ReadLane.mk.injEq] at hd ⊢
  tauto

theorem activateRead (e : DestNo) : o.Alike (s.activateRead e) (t.activateRead e) := by
  unfold State.activateRead
  rw [h.readActive, h.readJobs]
  split
  · exact h
  · split
    · exact h
    · exact (h.setActive e _).modCopy _ _ _
    · rw [h.formUnitRead_none]
      exact h.setActive e _

theorem appendRead (e : DestNo) (job : ReadJob) : o.Alike (s.appendRead e job) (t.appendRead e job) :=
  (h.modDest e (by intro; rfl)).activateRead e

theorem endRead (e : DestNo) : o.Alike (s.endRead e) (t.endRead e) := (h.modDest e (by intro; rfl)).activateRead e

theorem withdrawJobs (gone : ReadJob → Bool) (e : DestNo) : o.Alike (s.withdrawJobs gone e) (t.withdrawJobs gone e) := by
  unfold State.withdrawJobs
  rw [h.readActive, h.readJobs]
  refine activateRead (h.modDest₂ ?_ fun hb => by rw [h.busy e hb]) e
  have hd := h.dests e
  simp only [DestPort.bare, ReadLane.bare, DestPort.mk.injEq, ReadLane.mk.injEq] at hd ⊢
  obtain ⟨h1, h2, h3, h4, h5, -, -, -, h6, h7, h8, ⟨h9, h10, h11⟩, h12⟩ := hd
  refine ⟨h1, h2, h3, h4, h5, trivial, trivial, trivial, h6, h7, h8, ⟨by rw [h9], ?_, by rw [h11]⟩, h12⟩
  split
  · rfl
  · exact h10

/-! ### Copies -/

theorem place (d : DestNo) (c : Nat) (w : Window) (n : Nat) : o.Alike (s.place d c w n) (t.place d c w n) :=
  (h.modDest d (by intro; rfl)).modCopy c d _

theorem fillDest (d : DestNo) (c : Nat) : o.Alike (s.fillDest d c) (t.fillDest d c) := by
  unfold State.fillDest
  rw [h.clip]
  exact (h.moveDest d (f := fun x => { x with state := .full }) (fun _ => rfl) fun _ hb =>
    hb.elim .inl fun hf => absurd (.inr rfl) hf).raise _

theorem planCopy (c : Nat) (d : DestNo) : o.Alike (s.planCopy c d) (t.planCopy c d) := by
  have g := h.setCopy c d (Copy.fresh .noSpace .plan 1)
  simp only [State.planCopy, h.clip, h.allocate]
  split
  · exact g.place d c _ _
  · exact g.fillDest d c
  · exact g

theorem queueAtEach (c : Nat) (kind : ItemKind) (ds : List DestNo) :
    o.Alike (s.queueAtEach c kind ds) (t.queueAtEach c kind ds) := by
  unfold State.queueAtEach
  rw [h.clip]
  split
  · exact h
  · exact foldl (fun d h => h.queueItem d _ _) ds h

theorem queueTrailers (c : Nat) : o.Alike (s.queueTrailers c) (t.queueTrailers c) := by
  unfold State.queueTrailers
  rw [h.planWriting]
  exact h.queueAtEach c _ _

theorem leavePending (c : Nat) (d : DestNo) : o.Alike (s.leavePending c d) (t.leavePending c d) := by
  unfold State.leavePending
  rw [h.ring]
  exact h.setRing _

theorem leaveQueues (c : Nat) (d : DestNo) : o.Alike (s.leaveQueues c d) (t.leaveQueues c d) :=
  h.modDest' d
    (fun x => { x with
      wq := x.wq.map fun q => q.filter (·.clip ≠ c)
      cq := x.cq.filter (·.clip ≠ c)
      arb := { x.arb with lock := x.arb.lock.filter (·.2 ≠ c) } })
    fun _ => rfl

theorem leaveLane (c : Nat) (d : DestNo) : o.Alike (s.leaveLane c d) (t.leaveLane c d) := by
  simp only [State.leaveLane, h.lane]
  split
  · exact (h.modLane d _).leaveWait _
  · exact h.modLane d _

theorem leaveReaders (c : Nat) (d : DestNo) : o.Alike (s.leaveReaders c d) (t.leaveReaders c d) := by
  unfold State.leaveReaders
  exact foldl (f := fun s e => s.withdrawJobs (State.readsForCopy c d e) e) (fun e h => h.withdrawJobs _ e) _
    (foldl (f := fun s p => s.withdrawReads (State.suppliesCopy c d) p) (fun p h => h.withdrawReads _ p) _ h)

theorem withdrawCopy (c : Nat) (d : DestNo) : o.Alike (s.withdrawCopy c d) (t.withdrawCopy c d) :=
  (((h.leavePending c d).leaveQueues c d).leaveLane c d).leaveReaders c d

theorem abortCopy (c : Nat) (d : DestNo) : o.Alike (s.abortCopy c d) (t.abortCopy c d) := by
  unfold State.abortCopy
  rw [h.copy]
  split
  · exact h
  · split
    · exact (h.modCopy c d _).withdrawCopy c d
    · exact h

theorem abortCopies (c : Nat) : o.Alike (s.abortCopies c) (t.abortCopies c) := foldl (fun d h => h.abortCopy c d) _ h

theorem joinLane (c : Nat) (d : DestNo) : o.Alike (s.joinLane c d) (t.joinLane c d) := h.modLane d _

theorem giveToLane (d : DestNo) (c k : Nat) : (s.giveToLane d c k = none ∧ t.giveToLane d c k = none)
    ∨ ∃ n s' t', s.giveToLane d c k = some (n, s') ∧ t.giveToLane d c k = some (n, t') ∧ o.Alike s' t' := by
  unfold State.giveToLane
  rcases h.giveSlot (.lane d) c k with ⟨hs, ht⟩ | ⟨n, s', t', hs, ht, g⟩ <;> simp only [hs, ht]
  · exact .inl ⟨trivial, trivial⟩
  · exact .inr ⟨_, _, _, rfl, rfl, (g.modLane d _).queueItem d _ _⟩

/-! ### The manifest -/

theorem enqueueRecord (c : Nat) : o.Alike (s.enqueueRecord c) (t.enqueueRecord c) := by
  unfold State.enqueueRecord
  rw [h.clip, h.manifest]
  split
  · exact h
  · rw [h.formRecord]
    exact (h.setManifest _).setClip c _

theorem emitRecord (c : Nat) : o.Alike (s.emitRecord c) (t.emitRecord c) := by
  simp only [State.emitRecord, h.manifest]
  split
  · split
    · exact (h.enqueueRecord c).notify _
    · exact h.enqueueRecord c
  · exact (h.setManifest _).modClip c _

end

end Frame.Alike

end Sys2Proof.Machine

/-! Each task takes alike states to alike states; an event followed without lamps and links. -/

namespace Sys2Proof.Machine

/-- Is the task the answer to a SECTOR_READ? -/
def Task.answers : Task → Bool
  | .answer _ _ _ => true
  | _ => false

/-- The states left are alike, and the same tasks follow. -/
structure Work.Alike (o : Frame) (v w : Work) : Prop where
  state : o.Alike v.state w.state
  now : v.now = w.now
  later : v.later = w.later

/-- The work that goes with a job's reading: its pieces (R39). -/
def jobsPieces (j : JobNo) : ReaderWork → Bool
  | .job j' _ _ => decide (j' = j)
  | .supply _ _ _ _ _ => false
  | .sector _ _ => false

/-- A clip SOURCE_FAULT, its pieces gone and its live copies aborted (R39). -/
def State.faultClip (j : JobNo) (c : Nat) (s : State) : State :=
  let s1 := s.modClip c fun x => { x with state := .sourceFault }
  ((s.job j).boundPort.elim s1 fun p => s1.withdrawReads (jobsPieces j) p).abortCopies c

theorem runSourceFault_eq (j : JobNo) (c : Nat) (s : State) :
    runSourceFault j c s =
      ⟨(s.faultClip j c).standAtFirst j,
        [.freeSlots (((s.faultClip j c).ring.held.map Prod.fst).filter fun n =>
            ((s.faultClip j c).orphansSince s).contains n || decide ((s.faultClip j c).fillingOf (.job j) = some n)),
          .readEnded j],
        (s.lanesWith c).map Task.laneGo⟩ := by
  rfl

namespace Frame.Alike

variable {o : Frame} {s t : State}

theorem andNow (h : o.Alike s t) (ts : List Task) : Work.Alike o (s.andNow ts) (t.andNow ts) := ⟨h, rfl, rfl⟩

theorem work (h : o.Alike s t) (now later : List Task) : Work.Alike o ⟨s, now, later⟩ ⟨t, now, later⟩ := ⟨h, rfl, rfl⟩

theorem still (h : o.Alike s t) : Work.Alike o s.still t.still := ⟨h, rfl, rfl⟩

section

variable (h : o.Alike s t)
include h

/-! ### The ring -/

theorem fillForLane (d : DestNo) (n c k : Nat) (src : Source) :
    Work.Alike o (s.fillForLane d n c k src) (t.fillForLane d n c k src) := by
  unfold State.fillForLane
  cases src with
  | card =>
    simp only [h.portFor, h.clip]
    split
    · exact (h.queuePieces _ _ _).still
    · exact h.andNow _
  | dest e =>
    simp only [h.isActive]
    split
    · exact (h.appendRead e _).still
    · exact h.andNow _

theorem askForLane (d : DestNo) (c k : Nat) (src : Source) :
    Work.Alike o (s.askForLane d c k src) (t.askForLane d c k src) := by
  have g := h.modLane d fun l => { l with standing := some (k, src) }
  simp only [State.askForLane, h.lane]
  split
  · exact g.still
  · rcases h.giveToLane d c k with ⟨hs, ht⟩ | ⟨n, s', t', hs, ht, g'⟩ <;> simp only [hs, ht]
    · exact (g.joinWait _).still
    · exact g'.fillForLane d n c k src

theorem runFreeSlots (ns : List Nat) : Work.Alike o (runFreeSlots ns s) (runFreeSlots ns t) := by
  cases ns with
  | nil => exact h.still
  | cons n rest =>
    simp only [Machine.runFreeSlots, h.slot, h.heldAtLimit]
    split
    · exact h.andNow _
    · exact (h.freeSlot n).andNow _

theorem askFor (r : Requester) : Work.Alike o (askFor r s) (askFor r t) := by
  cases r with
  | job j => exact (h.askForJob j).still
  | lane d =>
    simp only [Machine.askFor, h.lane]
    split
    · rename_i c k src _ _
      have w := h.askForLane d c k src
      exact ⟨w.state, w.now, rfl⟩
    · exact h.still

theorem runServeWaiting : Work.Alike o (runServeWaiting s) (runServeWaiting t) := by
  simp only [Machine.runServeWaiting, h.ring]
  split
  · exact h.still
  · exact (h.leaveWait _).askFor _

/-! ### Reading -/

theorem startClip (j : JobNo) (c : Nat) : Work.Alike o (startClip j c s) (startClip j c t) := by
  simp only [Machine.startClip, h.job, show s.isActive = t.isActive from funext h.isActive]
  exact (foldl (f := State.planCopy c) (fun d h => h.planCopy c d) _ ((h.modClip c _).modJob j _)).andNow _

theorem startNext (j : JobNo) : Work.Alike o
    (match s.clipAtRead j with | some c => Machine.startClip j c s | none => s.andNow [.toDraining j])
    (match t.clipAtRead j with | some c => Machine.startClip j c t | none => t.andNow [.toDraining j]) := by
  rw [h.clipAtRead]
  cases t.clipAtRead j with
  | none => exact h.andNow _
  | some c => exact h.startClip j c

theorem runProceed (j : JobNo) : Work.Alike o (runProceed j s) (runProceed j t) := by
  simp only [Machine.runProceed, h.job, h.atBoundary, h.ring]
  split
  · split
    · exact (h.pauseNow j).still
    · rw [h.clipAtRead, show s.clipState? = t.clipState? from funext h.clipState]
      split
      · exact (h.askForJob j).still
      · by_cases hlisted : (t.clipAtRead j).bind t.clipState? = some .listed
        · simp only [if_pos hlisted]
          exact h.startNext j
        · simp only [if_neg hlisted]
          exact (h.standAtFirst j).startNext j
  · exact h.still

theorem recordSum (c : Nat) (sum : ClosedSum) : o.Alike (recordSum c sum s) (recordSum c sum t) := h.modClip c _

theorem runClipStarted (j : JobNo) (c : Nat) : Work.Alike o (runClipStarted j c s) (runClipStarted j c t) := by
  simp only [Machine.runClipStarted, h.clip, h.lanesWith]
  split
  · exact h.still
  · split
    · exact ⟨((h.recordSum c _).queueTrailers c).standAtFirst j, rfl, rfl⟩
    · exact h.andNow _

theorem runReadEnded (j : JobNo) : Work.Alike o (runReadEnded j s) (runReadEnded j t) := by
  simp only [Machine.runReadEnded, h.job, h.anyListed]
  split
  · split <;> exact h.andNow _
  · exact h.still

theorem runToDraining (j : JobNo) : Work.Alike o (runToDraining j s) (runToDraining j t) := by
  simp only [Machine.runToDraining, h.job]
  exact ((h.standAt j _).moveJob j _).andNow _

theorem endUnit (j : JobNo) (n c k : Nat) : Work.Alike o (endUnit j n c k s) (endUnit j n c k t) := by
  simp only [Machine.endUnit, h.clip, h.job, h.lanesWith]
  split
  · exact h.still
  · rename_i x hx
    split
    · have g := (h.recordSum c ((t.job j).live.close x.length)).standAtFirst j
      rw [g.planWriting]
      split
      · exact ⟨g, rfl, rfl⟩
      · exact ⟨((g.stageSlot n _).queueAtEach c _ _).queueTrailers c, rfl, rfl⟩
    · have g := h.modJob j fun y =>
        { y with readPos := ⟨y.readPos.clip, k + 1⟩, checkpoint := ⟨⟨y.readPos.clip, k + 1⟩, y.live⟩ }
      rw [g.planWriting]
      split
      · exact ⟨g, rfl, rfl⟩
      · exact ⟨(g.stageSlot n _).queueAtEach c _ _, rfl, rfl⟩

theorem faultClip (j : JobNo) (c : Nat) : o.Alike (s.faultClip j c) (t.faultClip j c) := by
  have g := h.modClip c fun x => { x with state := .sourceFault }
  simp only [State.faultClip, h.job]
  cases (t.job j).boundPort with
  | none => exact g.abortCopies c
  | some p => exact (g.withdrawReads _ p).abortCopies c

theorem runSourceFault (j : JobNo) (c : Nat) : Work.Alike o (runSourceFault j c s) (runSourceFault j c t) := by
  have g := h.faultClip j c
  rw [runSourceFault_eq, runSourceFault_eq, g.ring, g.fillingOf, h.orphansSince g, h.lanesWith]
  exact ⟨g.standAtFirst j, rfl, rfl⟩

/-! ### Copies -/

theorem runAbort (c : Nat) (d : DestNo) : Work.Alike o (runAbort c d s) (runAbort c d t) := by
  have g := h.abortCopy c d
  unfold Machine.runAbort
  exact ⟨g, congrArg (fun l => [Task.freeSlots l]) (h.orphansSince g), rfl⟩

theorem copyFault (cls : FaultClass) (c : Nat) (d : DestNo) (detail : Detail) :
    copyFault cls c d detail s = copyFault cls c d detail t := by simp only [Machine.copyFault, h.jobOfClip]

theorem runFailAttempt (c : Nat) (d : DestNo) (detail : Detail) :
    Work.Alike o (runFailAttempt c d detail s) (runFailAttempt c d detail t) := by
  simp only [Machine.runFailAttempt, h.copy, h.copyFault]
  split
  · exact h.still
  · split
    · split
      · have g := h.withdrawCopy c d
        rw [h.orphansSince g]
        exact g.work _ _
      · have g := (h.modCopy c d fun k => { k with state := .failed }).withdrawCopy c d
        rw [h.orphansSince g]
        exact g.work _ _
    · exact h.still

theorem runFailRepair (c : Nat) (d : DestNo) (fills : Bool) :
    Work.Alike o (runFailRepair c d fills s) (runFailRepair c d fills t) := by
  have g := (h.modCopy c d fun k => { k with state := .failed }).withdrawCopy c d
  simp only [Machine.runFailRepair, h.copyFault]
  rw [h.orphansSince g]
  exact g.work _ _

theorem runRequeue (c : Nat) (d : DestNo) : Work.Alike o (runRequeue c d s) (runRequeue c d t) := by
  simp only [Machine.runRequeue, h.copy, h.settleOf]
  split
  · exact h.still
  · exact ⟨(h.setCopy c d _).joinLane c d, rfl, rfl⟩

theorem enlistAt (c r : Nat) (d : DestNo) : o.Alike (enlistAt c r s d) (enlistAt c r t d) := by
  simp only [Machine.enlistAt, h.clip, show mayEnlist s = mayEnlist t from funext fun x => funext fun d => by
    simp only [mayEnlist, h.isActive]]
  split
  · exact h
  · split
    · exact (h.setCopy c d _).joinLane c d
    · exact h

theorem runEnlist (c : Nat) : Work.Alike o (runEnlist c s) (runEnlist c t) := by
  simp only [Machine.runEnlist, h.clip, h.job]
  split
  · exact h.still
  · split
    · exact h.still
    · split
      · exact ⟨foldl (f := Machine.enlistAt c _) (fun d h => h.enlistAt c _ d) _ h, rfl, rfl⟩
      · exact h.andNow _

theorem runSecure (c : Nat) : Work.Alike o (runSecure c s) (runSecure c t) := by
  simp only [Machine.runSecure, h.clip, h.job]
  split
  · exact h.still
  · split
    · exact h.still
    · split
      · exact ((h.setClip c _).emitRecord c).still
      · exact h.still

theorem rejoinAt (c : Nat) (d : DestNo) : o.Alike (rejoinAt c s d) (rejoinAt c t d) := by
  simp only [Machine.rejoinAt, h.copy]
  split
  · exact h
  · split
    · exact (h.modCopy c d _).joinLane c d
    · exact h

theorem runRejoin (c : Nat) : Work.Alike o (runRejoin c s) (runRejoin c t) :=
  ⟨foldl (f := Machine.rejoinAt c) (fun d h => h.rejoinAt c d) _ h, rfl, rfl⟩

theorem runSettle (j : JobNo) : Work.Alike o (runSettle j s) (runSettle j t) := by
  simp only [Machine.runSettle, h.job, show s.clipState? = t.clipState? from funext h.clipState, h.hasMovingCopy]
  split
  · split
    · exact (h.moveJob j _).andNow _
    · split
      · exact (h.moveJob j _).still
      · split
        · exact (h.moveJob j _).still
        · exact h.still
  · exact h.still

theorem runRelease (j : JobNo) : Work.Alike o (runRelease j s) (runRelease j t) := by
  have g := h.moveJob j fun x => { x with state := .released }
  simp only [Machine.runRelease, h.job, show s.clip? = t.clip? from funext h.clip]
  split
  · cases (t.job j).boundPort with
    | none => exact g.still
    | some p => exact (g.modPort p (f := fun x => { x with released := (t.job j).identity }) fun _ => rfl).still
  · exact h.still

/-! ### The catch-up lanes -/

theorem leaveSlotOf (d : DestNo) (i : Item) : o.Alike (leaveSlotOf d s i) (leaveSlotOf d t i) := by
  unfold Machine.leaveSlotOf
  split
  · exact h.modSlot _ _
  · exact h

theorem runSuspend (c : Nat) (d : DestNo) : Work.Alike o (runSuspend c d s) (runSuspend c d t) := by
  have g (q : List Item) := ((h.modCopy c d fun k => { k with suspended := true }).leaveLane c d).modDest d
    (f := fun x => { x with cq := q }) fun _ => rfl
  have hs := h.settleOf c
  have hc := h.cq d
  have hf : s.isFilling = t.isFilling := funext h.isFilling
  simp only [Machine.runSuspend, hs, hc, hf]
  have g3 := (foldl (f := Machine.leaveSlotOf d) (fun i h => h.leaveSlotOf d i) (cutItems c t.isFilling (t.dest d).cq).1
    (g (cutItems c t.isFilling (t.dest d).cq).2)).leaveReaders c d
  rw [h.orphansSince g3]
  exact g3.andNow _

theorem runCannotSupply (d : DestNo) (n c k : Nat) (src : Source) :
    Work.Alike o (runCannotSupply d n c k src s) (runCannotSupply d n c k src t) := by
  simp only [Machine.runCannotSupply, h.cq, h.slot]
  split
  · exact h.still
  · rename_i i _
    have g (i' : Item) := ((h.modDest d (f := fun x => { x with cq := x.cq.map fun j => if j.names n then i' else j })
      fun _ => rfl).modLane d fun l => { l with cardOnly := false, sum := none }).modSlot n fun x => { x with data := [] }
    split
    · cases src with
      | card =>
        have g' := g { i with noCard := true }
        simp only [g'.portFor, g'.verifiedSource]
        split
        · exact g'.fillForLane d n c k _
        · split
          · exact g'.fillForLane d n c k _
          · exact g'.andNow _
      | dest e =>
        have g' := g { i with noDests := destInsert e i.noDests }
        simp only [g'.portFor, g'.verifiedSource]
        split
        · exact g'.fillForLane d n c k _
        · split
          · exact g'.fillForLane d n c k _
          · exact g'.andNow _
    · exact h.still

theorem askAndGo (d : DestNo) (c k : Nat) (src : Source) : Work.Alike o (askAndGo d c k src s) (askAndGo d c k src t) := by
  have w := h.askForLane d c k src
  exact ⟨w.state, by simp only [Machine.askAndGo, w.now], w.later⟩

theorem chooseSource (d : DestNo) (c k : Nat) : Work.Alike o (chooseSource d c k s) (chooseSource d c k t) := by
  simp only [Machine.chooseSource, h.stagedFor, h.portFor, h.verifiedSource]
  split
  · exact ((((h.modSlot _ _).modLane d _).queueItem d .cq _).modLane d _).andNow _
  · split
    · exact h.askAndGo d c k _
    · split
      · exact (h.modLane d _).askAndGo d c k _
      · exact h.andNow _

theorem takeCopy (d : DestNo) (c : Nat) : Work.Alike o (takeCopy d c s) (takeCopy d c t) := by
  simp only [Machine.takeCopy, h.clip, h.copy, h.cq, h.allocate]
  split
  · split
    · exact (h.modLane d _).andNow _
    · split
      · exact ((h.place d c _ _).modLane d _).andNow _
      · split
        · exact ((h.modCopy c d _).leaveLane c d).andNow _
        · exact h.andNow _
  · exact (h.leaveLane c d).andNow _

theorem sourceUnstable (d : DestNo) (c : Nat) (x : Clip) : o.Alike (sourceUnstable d c x s) (sourceUnstable d c x t) := by
  simp only [Machine.sourceUnstable, h.job]
  exact (h.raise _).modClip c _

theorem endWalk (d : DestNo) (c : Nat) (x : Clip) : Work.Alike o (endWalk d c x s) (endWalk d c x t) := by
  simp only [Machine.endWalk, h.lane]
  split
  · exact (((h.sourceUnstable d c x).queueItem d .cq _).leaveLane c d).andNow _
  · exact ((h.queueItem d .cq _).leaveLane c d).andNow _

theorem runLaneGo (d : DestNo) : Work.Alike o (runLaneGo d s) (runLaneGo d t) := by
  simp only [Machine.runLaneGo, h.isServing, h.lane, h.clip, h.cq,
    show s.clipState? = t.clipState? from funext h.clipState, show s.isFilling = t.isFilling from funext h.isFilling]
  split
  · split
    · split
      · exact h.still
      · exact h.takeCopy d _
    · split
      · exact h.still
      · split
        · exact h.still
        · split
          · exact h.chooseSource d _ _
          · split
            · exact h.still
            · exact h.endWalk d _ _
  · exact h.still

/-! ### Cards and destinations -/

theorem runPull (j : JobNo) (p : PortNo) : Work.Alike o (runPull j p s) (runPull j p t) := by
  simp only [Machine.runPull, h.fillingOf]
  exact h.andNow _

theorem runPulled (j : JobNo) (p : PortNo) : Work.Alike o (runPulled j p s) (runPulled j p t) := by
  have g (f : Job → Job) := (h.leaveWait (.job j)).moveJob j f
  simp only [Machine.runPulled, h.job, (g _).clipAtRead]
  exact ((g _).raise _).still

theorem identifyCard (p : PortNo) (i : Identity) : Work.Alike o (identifyCard p i s) (identifyCard p i t) := by
  have present := (h.movePort p (f := fun x =>
    { x with state := .present, identity := some i, identityTimer := false, boundJob := none }) fun _ => rfl).still
  simp only [Machine.identifyCard, h.jobHolding, h.job, h.clipsOfJob]
  split
  · exact present
  · split
    · exact present
    · exact ((h.modJob _ _).movePort p (by intro; rfl)).andNow _

theorem runArrive (p : PortNo) (i : Identity) : Work.Alike o (runArrive p i s) (runArrive p i t) :=
  (h.movePort p (f := fun x => { x with state := .mounting, identity := none }) fun _ => rfl).identifyCard p i

theorem runBoundTo (j : JobNo) : Work.Alike o (runBoundTo j s) (runBoundTo j t) := by
  simp only [Machine.runBoundTo, h.job, h.anyToRead]
  split
  · split
    · exact (h.moveJob j _).still
    · split
      · exact (h.moveJob j _).andNow _
      · exact h.andNow _
  · exact h.andNow _
  · exact h.andNow _
  all_goals exact h.still

theorem runLostEnd (d : DestNo) (detail : Detail) : Work.Alike o (runLostEnd d detail s) (runLostEnd d detail t) :=
  ((h.resetArbiter d).raise _).still

theorem runDepart (p : PortNo) : Work.Alike o (runDepart p s) (runDepart p t) :=
  (h.movePort p (f := fun x => { x with state := .empty, identity := none, identityTimer := false, released := none })
    fun _ => rfl).still

theorem runNewDrive (d : DestNo) (capacity : Nat) : Work.Alike o (runNewDrive d capacity s) (runNewDrive d capacity t) :=
  (h.moveDest d (f := fun x => { x with present := true, capacity := some capacity }) fun _ => rfl).still

theorem freeJob (j : JobNo) (p : Option PortNo) : o.Alike (s.freeJob j p) (t.freeJob j p) := by
  have g : o.Alike ((s.freeClips j).moveJob j fun _ => Job.free) ((t.freeClips j).moveJob j fun _ => Job.free) :=
    (h.setClips (fun s => s.clips.filter fun (_, x) => decide (x.job ≠ j)) (by rw [h.clips])).moveJob j _
  cases p with
  | none => exact g
  | some p => exact g.movePort p (f := fun x => { x with state := .present, boundJob := none }) fun _ => rfl

theorem runAbandoned (j : JobNo) (p : Option PortNo) : Work.Alike o (runAbandoned j p s) (runAbandoned j p t) := by
  simp only [Machine.runAbandoned, h.manifest, show s.clip? = t.clip? from funext h.clip]
  exact ((h.setManifest _).freeJob j p).still

end

/-- Each task takes alike states to alike states. -/
theorem run (h : o.Alike s t) (a : Task) (ha : a.answers = true → o.answers = true) : Work.Alike o (a.run s) (a.run t) := by
  cases a with
  | freeSlots ns => exact h.runFreeSlots ns
  | serveWaiting => exact h.runServeWaiting
  | askAgain r => exact h.askFor r
  | proceed j => exact h.runProceed j
  | clipStarted j c => exact h.runClipStarted j c
  | readEnded j => exact h.runReadEnded j
  | toDraining j => exact h.runToDraining j
  | abort c d => exact h.runAbort c d
  | failRepair c d fills => exact h.runFailRepair c d fills
  | requeue c d => exact h.runRequeue c d
  | enlist c => exact h.runEnlist c
  | secure c => exact h.runSecure c
  | rejoin c => exact h.runRejoin c
  | settle j => exact h.runSettle j
  | release j => exact h.runRelease j
  | laneGo d => exact h.runLaneGo d
  | cannotSupply d n c k src => exact h.runCannotSupply d n c k src
  | suspend c d => exact h.runSuspend c d
  | raise a => exact (h.raise a).still
  | fillDest d c => exact (h.fillDest d c).still
  | answer e st payload => exact (h.reply (ha rfl) e st payload).still
  | pull j p => exact h.runPull j p
  | pulled j p => exact h.runPulled j p
  | emit c => exact (h.emitRecord c).still
  | arrive p i => exact h.runArrive p i
  | boundTo j => exact h.runBoundTo j
  | lostEnd d detail => exact h.runLostEnd d detail
  | depart p => exact h.runDepart p
  | newDrive d capacity => exact h.runNewDrive d capacity
  | announce n => exact (h.notify n).still
  | abandoned j p => exact h.runAbandoned j p

end Frame.Alike

/-! ### An event without its lamps and links -/

/-- The tasks of an event worked off in order, without the lamps and the links served in between; none when an answer
comes that `answers` rules out. -/
def effects (answers : Bool) : Nat → List Task → State → Option State
  | _, [], s => some s
  | 0, _ :: _, _ => none
  | n + 1, t :: ts, s =>
    let w := t.run s
    if t.answers && !answers then none else effects answers n (w.now ++ ts ++ w.later) w.state

variable {answers : Bool}

@[simp] theorem effects_nil (n : Nat) (s : State) : effects answers n [] s = some s := by cases n <;> rfl

theorem effects_cons {n : Nat} {t : Task} {ts : List Task} {s : State} {w : Work} (h : t.run s = w)
    (ht : t.answers = false) :
    effects answers (n + 1) (t :: ts) s = effects answers n (w.now ++ ts ++ w.later) w.state := by
  subst h
  simp only [effects, ht, Bool.false_and, Bool.false_eq_true, if_false]

theorem effects_mono {n m : Nat} (hnm : n ≤ m) {ts : List Task} {s u : State} (h : effects answers n ts s = some u) :
    effects answers m ts s = some u := by
  induction n generalizing m ts s with
  | zero =>
    cases ts with
    | nil => simpa using h
    | cons t ts => cases h
  | succ n ih =>
    cases ts with
    | nil => simpa using h
    | cons t ts =>
      obtain ⟨m, rfl⟩ : ∃ k, m = k + 1 := ⟨m - 1, by omega⟩
      simp only [effects] at h ⊢
      split at h
      · cases h
      · rename_i ht
        rw [if_neg ht]
        exact ih (Nat.le_of_succ_le_succ hnm) h

/-- A run of tasks ends as its effects do, but for lamps, requests issued, turns of arbiters and notices. -/
theorem runTasks_of_effects {o : Frame} {s t u : State} {n : Nat} {ts : List Task} (h : o.Alike s t)
    (he : effects o.answers n ts s = some u) : ∃ v, runTasks n ts t = some v ∧ o.Alike u v := by
  induction n generalizing ts s t with
  | zero =>
    cases ts with
    | nil => exact ⟨t, rfl, by simpa using Option.some.inj he ▸ h⟩
    | cons t ts => cases he
  | succ n ih =>
    cases ts with
    | nil => exact ⟨t, rfl, by simpa using Option.some.inj he ▸ h⟩
    | cons a ts =>
      simp only [effects] at he
      split at he
      · cases he
      · rename_i ha
        have w := h.serveLinks.run a (by simpa using ha)
        obtain ⟨v, hv, hu⟩ := ih w.state.refreshLamps (w.now ▸ w.later ▸ he)
        exact ⟨v, by rw [runTasks_cons]; exact hv, hu⟩

end Sys2Proof.Machine

/-! What an event leaves, read off its effects. -/

namespace Sys2Proof.Machine

/-- The state an event ends in, as its effects tell it: all but lamps, requests issued, arbiters' turns and notices. -/
structure State.Ends (u t : State) : Prop where
  card : ∀ p, (u.port p).SameCard (t.port p)
  drive : ∀ d, (u.dest d).SameDrive (t.dest d)
  jobs : t.jobs = u.jobs
  clips : t.clips = u.clips
  ring : t.ring = u.ring
  manifest : t.manifest = u.manifest
  faults : t.faults = u.faults
  busy : ∀ d, (u.dest d).Blocked → t.dest d = u.dest d
  read : ∀ p, (u.port p).outstanding.isSome → (t.port p).dark = (u.port p).dark

namespace State.Ends

variable {u t : State}

theorem job (h : u.Ends t) (j : JobNo) : t.job j = u.job j := State.job_congr h.jobs j
theorem clip (h : u.Ends t) (c : Nat) : t.clip? c = u.clip? c := by simp only [State.clip?, h.clips]
theorem clipState (h : u.Ends t) (c : Nat) : t.clipState? c = u.clipState? c := by simp only [State.clipState?, h.clip]
theorem copy (h : u.Ends t) (c : Nat) (d : DestNo) : t.copy? c d = u.copy? c d := by simp only [State.copy?, h.clip]
theorem slot (h : u.Ends t) (n : Nat) : t.slot? n = u.slot? n := by simp only [State.slot?, h.ring]
theorem lane (h : u.Ends t) (d : DestNo) : (t.dest d).lane = (u.dest d).lane := by
  obtain ⟨-, -, -, -, -, -, -, h, -⟩ := h.drive d
  exact h
theorem destState (h : u.Ends t) (d : DestNo) : (t.dest d).state = (u.dest d).state := by
  obtain ⟨-, -, -, h, -⟩ := h.drive d
  exact h
theorem binding (h : u.Ends t) (d : DestNo) : (t.dest d).binding = (u.dest d).binding := by
  obtain ⟨-, -, -, -, h, -⟩ := h.drive d
  exact h
theorem queue (h : u.Ends t) (d : DestNo) (w : Writer) : (t.dest d).queue w = (u.dest d).queue w := by
  obtain ⟨-, -, -, -, -, hwq, hcq, -⟩ := h.drive d
  cases w <;> simp only [DestPort.queue, hwq, hcq]
theorem lock (h : u.Ends t) (d : DestNo) : (t.dest d).arb.lock = (u.dest d).arb.lock := by
  obtain ⟨-, -, -, -, -, -, -, -, -, -, h⟩ := h.drive d
  exact h
theorem readJobs (h : u.Ends t) (d : DestNo) : (t.dest d).rl.jobs = (u.dest d).rl.jobs := by
  obtain ⟨-, -, -, -, -, -, -, -, h, -⟩ := h.drive d
  exact h

end State.Ends

theorem Frame.Alike.ends {o : Frame} {u t : State} (h : o.Alike u t) : u.Ends t :=
  ⟨fun p => CardPort.sameCard_of_bare_eq (h.ports p), fun d => DestPort.sameDrive_of_bare_eq (h.dests d), h.jobs.symm,
    h.clips.symm, h.ring.symm, h.manifest.symm, h.faults.symm, h.busy, h.read⟩

/-- The reply of the request that set the effects in motion comes after them. -/
theorem Frame.Alike.replied {s u t : State} (h : Frame.Alike ⟨s, false⟩ u t) (e : EntryNo) (st : Status) (b : List Byte) :
    Frame.Alike ⟨s, true⟩ (u.reply e st b) (t.reply e st b).serveLinks :=
  (Frame.Alike.reply (o := ⟨s, true⟩) { h with noReply := nofun } rfl e st b).serveLinks

theorem Frame.Alike.onlyNotices {s u t : State} (h : Frame.Alike ⟨s, false⟩ u t) : s.link.OnlyNotices t.link :=
  Link.onlyNotices_of_bare (h.link.symm.trans (h.noReply rfl)) h.outq.2

/-- An event whose effects end within a million tasks. -/
theorem event_of_effects {w : Work} {u : State} {n : Nat} {answers : Bool} (hn : n ≤ 1000000)
    (h : effects answers n (w.now ++ w.later) w.state = some u) :
    ∃ t, event w = .next t ∧ Frame.Alike ⟨w.state, answers⟩ u t ∧ t.LampsFormed := by
  obtain ⟨v, hv, hu⟩ := runTasks_of_effects (o := ⟨w.state, answers⟩) (Frame.Alike.refl w.state answers).refreshLamps h
  exact ⟨v.serveLinks, event_of_runTasks hn hv, hu.serveLinks,
    v.serveLinks_issueOnly.lampsFormed (runTasks_formed w.state.refreshLamps_formed hv)⟩

/-- A request taken whose effects end within a million tasks: the state left, and its reply behind notices only. -/
theorem State.take_effects_pending {s u : State} {tag : Byte} {code : Nat} {owner : EntryNo → State → Ruling} {e : EntryNo}
    {b : List Byte} {w : Work} {n : Nat} (he : s.link.freeEntry = some e)
    (ho : owner e (s.owing e tag code) = .take b w) (hl : (s.owing e tag code).link.OnlyNotices w.state.link)
    (hn : n ≤ 1000000) (h : effects false n (w.now ++ w.later) w.state = some u) :
    ∃ t, s.request tag code owner = .next t ∧ u.Ends t ∧ t.plan = w.state.plan
      ∧ s.link.AnswersTo t.link e tag code b ∧ t.pending = w.state.pending := by
  obtain ⟨v, hv, hu⟩ := runTasks_of_effects (o := ⟨w.state, false⟩) (Frame.Alike.refl w.state false).refreshLamps h
  have hserve := (v.reply e .ok b).serveLinks_issueOnly
  refine ⟨(v.reply e .ok b).serveLinks, ?_, ?_, ?_, ?_, ?_⟩
  · rw [State.request_of_free he]
    change (owner e (s.owing e tag code)).carry e (s.owing e tag code) = _
    rw [ho, carry_of_runTasks hn hv]
  · have hends := (hu.replied e .ok b).ends
    exact ⟨hends.card, hends.drive, hends.jobs, hends.clips, hends.ring, hends.manifest, hends.faults, hends.busy,
      hends.read⟩
  · exact hserve.1.2.2.2.1.trans hu.plan.2
  · rw [hserve.2.1]
    exact (hl.trans hu.onlyNotices).answersTo b
  · exact hserve.1.2.2.2.2.2.2.trans hu.pending.2

theorem State.take_effects {s u : State} {tag : Byte} {code : Nat} {owner : EntryNo → State → Ruling} {e : EntryNo}
    {b : List Byte} {w : Work} {n : Nat} (he : s.link.freeEntry = some e)
    (ho : owner e (s.owing e tag code) = .take b w) (hl : (s.owing e tag code).link.OnlyNotices w.state.link)
    (hn : n ≤ 1000000) (h : effects false n (w.now ++ w.later) w.state = some u) :
    ∃ t, s.request tag code owner = .next t ∧ u.Ends t ∧ t.plan = w.state.plan
      ∧ s.link.AnswersTo t.link e tag code b := by
  obtain ⟨t, ht, hends, hplan, hans, -⟩ := State.take_effects_pending he ho hl hn h
  exact ⟨t, ht, hends, hplan, hans⟩

end Sys2Proof.Machine

/-! The settling check with the release check behind it (R131, R149), said once. -/

namespace Sys2Proof.Machine

/-- Every clip of the job is SECURED or EXCLUDED. -/
def State.AllSettled (s : State) (j : JobNo) : Prop :=
  ∀ c ∈ (s.job j).clips, s.clipState? c = some .secured ∨ s.clipState? c = some .excluded

/-- A live copy of one of the job's clips is in motion. -/
def State.Moving (s : State) (j : JobNo) : Prop :=
  ∃ c ∈ (s.job j).clips, ∃ (d : DestNo) (k : Copy), s.copy? c d = some k ∧ k.state.live = true ∧ k.suspended = false

/-- A clip of the job is still to be TAKEN. -/
def State.Untaken (s : State) (j : JobNo) : Prop :=
  ∃ c ∈ (s.job j).clips, ∃ x, s.clip? c = some x ∧ x.mstatus ≠ .taken

theorem ClipState.settled_iff (x : ClipState) : x.settled = true ↔ x = .secured ∨ x = .excluded := by
  cases x <;> simp [ClipState.settled]

theorem State.allSettled_iff (s : State) (j : JobNo) :
    ((s.job j).clips.all fun c => (s.clipState? c).any ClipState.settled) = true ↔ s.AllSettled j := by
  simp only [List.all_eq_true, Option.any_eq_true, State.AllSettled, ClipState.settled_iff]
  refine forall₂_congr fun c _ => ⟨?_, ?_⟩
  · rintro ⟨x, hx, h | h⟩ <;> simp [hx, h]
  · rintro (h | h)
    · exact ⟨_, h, .inl rfl⟩
    · exact ⟨_, h, .inr rfl⟩

theorem State.hasMovingCopy_iff (s : State) (j : JobNo) : s.hasMovingCopy j = true ↔ s.Moving j := by
  simp only [State.hasMovingCopy, List.any_eq_true, Option.any_eq_true, State.Moving, State.copy_some_iff]
  refine exists_congr fun c => and_congr_right fun _ => ⟨?_, ?_⟩
  · rintro ⟨x, hx, h⟩
    obtain ⟨d, hd⟩ := List.exists_mem_of_ne_nil _ (by simpa using h : (x.destsWith _) ≠ [])
    obtain ⟨k, hk, hlive⟩ := Clip.mem_destsWith.1 hd
    simp only [Bool.and_eq_true, Bool.not_eq_true'] at hlive
    exact ⟨d, k, ⟨x, hx, hk⟩, hlive⟩
  · rintro ⟨d, k, ⟨x, hx, hk⟩, hlive, hsus⟩
    refine ⟨x, hx, ?_⟩
    have : d ∈ x.destsWith fun k => k.state.live && !k.suspended := Clip.mem_destsWith.2 ⟨k, hk, by simp [hlive, hsus]⟩
    simpa using List.ne_nil_of_mem this

theorem State.untaken_iff (s : State) (j : JobNo) :
    ((s.job j).clips.any fun c => (s.clip? c).any fun x => decide (x.mstatus ≠ .taken)) = true ↔ s.Untaken j := by
  simp [State.Untaken, Option.any_eq_true]

/-! ### The settling check -/

section

variable {s : State} {j : JobNo}

theorem runSettle_settled (hst : (s.job j).state = .draining ∨ (s.job j).state = .held) (h : s.AllSettled j) :
    runSettle j s = (s.moveJob j fun x => { x with state := .reporting }).andNow [.release j] := by
  simp only [runSettle, if_pos hst, if_pos ((s.allSettled_iff j).2 h)]

theorem runSettle_stands (hst : (s.job j).state = .draining) (h : ¬s.AllSettled j) (hm : ¬s.Moving j) :
    runSettle j s = (s.moveJob j fun x => { x with state := .held }).still := by
  simp only [runSettle, if_neg (mt (s.allSettled_iff j).1 h), hst,
    true_and, Bool.not_eq_eq_eq_not, Bool.not_true, (by simpa using mt (s.hasMovingCopy_iff j).1 hm : s.hasMovingCopy j = false),
    true_or, if_true]

theorem runSettle_moves (hst : (s.job j).state = .held) (h : ¬s.AllSettled j) (hm : s.Moving j) :
    runSettle j s = (s.moveJob j fun x => { x with state := .draining }).still := by
  simp only [runSettle, if_neg (mt (s.allSettled_iff j).1 h), hst,
    (s.hasMovingCopy_iff j).2 hm, reduceCtorEq, false_and, if_false, and_self, or_true, if_true]

theorem runSettle_still (h : ((s.job j).state = .draining ∧ ¬s.AllSettled j ∧ s.Moving j)
      ∨ ((s.job j).state = .held ∧ ¬s.AllSettled j ∧ ¬s.Moving j)
      ∨ ((s.job j).state ≠ .draining ∧ (s.job j).state ≠ .held)) : runSettle j s = s.still := by
  rcases h with ⟨hst, h, hm⟩ | ⟨hst, h, hm⟩ | ⟨h1, h2⟩
  · simp only [runSettle, hst, if_neg (mt (s.allSettled_iff j).1 h), (s.hasMovingCopy_iff j).2 hm, reduceCtorEq,
      Bool.not_true, Bool.false_eq_true, and_false, false_and, if_false, or_false, if_true]
  · simp only [runSettle, hst, if_neg (mt (s.allSettled_iff j).1 h), mt (s.hasMovingCopy_iff j).1 hm, reduceCtorEq,
      and_false, false_and, if_false, or_true, if_true]
  · simp only [runSettle, h1, h2, or_self, if_false]

theorem runRelease_waits (h : s.Untaken j) : runRelease j s = s.still := by
  simp only [runRelease, (s.untaken_iff j).2 h, Bool.not_true, Bool.false_eq_true, and_false, if_false]

theorem runRelease_releases (hst : (s.job j).state = .reporting) (h : ¬s.Untaken j) :
    runRelease j s = (((s.job j).boundPort.elim (s.moveJob j fun x => { x with state := .released }) fun p =>
      (s.moveJob j fun x => { x with state := .released }).modPort p fun x => { x with released := (s.job j).identity })).still := by
  simp only [runRelease, hst, (by simpa using mt (s.untaken_iff j).1 h :
    ((s.job j).clips.any fun c => (s.clip? c).any fun x => decide (x.mstatus ≠ .taken)) = false), Bool.not_false, and_self,
    if_true]

end

/-- From `s` to `t` the job may have changed its state, and its port's memory its identity; notices may have been
queued. -/
structure State.SettlesTo (s : State) (j : JobNo) (st : JobState) (t : State) : Prop where
  job : ∀ i, t.job i = if i = j then { s.job j with state := st } else s.job i
  port : ∀ p, t.port p = if st = .released ∧ (s.job j).boundPort = some p ∧ (s.job j).state ≠ .released
    then { s.port p with released := (s.job j).identity } else s.port p
  dests : t.dests = s.dests
  clips : t.clips = s.clips
  ring : t.ring = s.ring
  manifest : t.manifest = s.manifest
  faults : t.faults = s.faults

theorem State.moveJob_settlesTo (s : State) (j : JobNo) {st : JobState} (h : st ≠ .released) :
    s.SettlesTo j st (s.moveJob j fun x => { x with state := st }) :=
  ⟨fun i => by rw [State.job_moveJob], fun p => by rw [if_neg fun g => h g.1]; rfl, rfl, rfl, rfl, rfl, rfl⟩

theorem State.settlesTo_self (s : State) (j : JobNo) : s.SettlesTo j (s.job j).state s :=
  ⟨fun i => by split_ifs with h <;> [rw [h]; rfl], fun p => by rw [if_neg fun g => g.2.2 g.1], rfl, rfl, rfl, rfl, rfl⟩

/-- The state the settling check leaves a job in. -/
def State.Settled (s : State) (j : JobNo) (st : JobState) : Prop :=
  if (s.job j).state = .draining ∨ (s.job j).state = .held then
    (¬s.AllSettled j → s.Moving j → st = .draining) ∧ (¬s.AllSettled j → ¬s.Moving j → st = .held)
      ∧ (s.AllSettled j → s.Untaken j → st = .reporting) ∧ (s.AllSettled j → ¬s.Untaken j → st = .released)
  else st = (s.job j).state

/-- The settling check with the release check behind it. -/
theorem effects_settle (s : State) (j : JobNo) :
    ∃ st t, s.Settled j st ∧ s.SettlesTo j st t ∧ ∀ {answers n ts u}, effects answers n ts t = some u →
      effects answers (n + 2) (.settle j :: ts) s = some u := by
  have one {t : State} (hrun : runSettle j s = t.still) {answers : Bool} {n : Nat} {ts : List Task} {u : State}
      (h : effects answers n ts t = some u) : effects answers (n + 2) (.settle j :: ts) s = some u := by
    rw [effects_cons (t := .settle j) hrun rfl]
    simpa [State.still] using effects_mono (by omega) h
  by_cases hst : (s.job j).state = .draining ∨ (s.job j).state = .held
  swap
  · exact ⟨_, s, by rw [State.Settled, if_neg hst], s.settlesTo_self j, one (runSettle_still (by tauto))⟩
  simp only [State.Settled, if_pos hst]
  by_cases hall : s.AllSettled j
  · have hrun := runSettle_settled hst hall
    let t := s.moveJob j fun x => { x with state := .reporting }
    have hjob : t.job j = { s.job j with state := .reporting } := by simp [t, State.job_moveJob]
    have huntaken : t.Untaken j ↔ s.Untaken j := by simp [State.Untaken, hjob, t]
    have two {t' : State} (hrel : runRelease j t = t'.still) {answers : Bool} {n : Nat} {ts : List Task} {u : State}
        (h : effects answers n ts t' = some u) : effects answers (n + 2) (.settle j :: ts) s = some u := by
      rw [effects_cons (t := .settle j) hrun rfl]
      change effects answers (n + 1) (.release j :: ts ++ []) t = some u
      rw [List.append_nil, effects_cons (t := .release j) hrel rfl]
      simpa [State.still] using h
    by_cases hun : s.Untaken j
    · exact ⟨.reporting, t, by tauto, s.moveJob_settlesTo j (by simp), two (runRelease_waits (huntaken.2 hun))⟩
    · refine ⟨.released, _, by tauto, ?_, two (runRelease_releases (by rw [hjob]) (mt huntaken.1 hun))⟩
      rw [hjob]
      have hnot : (s.job j).state ≠ .released := by rcases hst with h | h <;> simp [h]
      have hjobs (i : JobNo) : (t.moveJob j fun x => { x with state := .released }).job i
          = if i = j then { s.job j with state := .released } else s.job i := by
        rw [State.job_moveJob]
        split_ifs with h
        · rw [hjob]
        · simp [t, State.job_moveJob, h]
      cases hp : (s.job j).boundPort with
      | none => exact ⟨hjobs, fun p => by simp [t, hp], rfl, rfl, rfl, rfl, rfl⟩
      | some p =>
        refine ⟨hjobs, fun q => ?_, rfl, rfl, rfl, rfl, rfl⟩
        by_cases hq : p = q
        · subst hq; simp [t, hp, hnot]
        · simp [t, hp, hq]
  · by_cases hm : s.Moving j
    · rcases hst with hst | hst
      · exact ⟨.draining, s, by tauto, hst ▸ s.settlesTo_self j, one (runSettle_still (.inl ⟨hst, hall, hm⟩))⟩
      · exact ⟨.draining, _, by tauto, s.moveJob_settlesTo j (by simp), one (runSettle_moves hst hall hm)⟩
    · rcases hst with hst | hst
      · exact ⟨.held, _, by tauto, s.moveJob_settlesTo j (by simp), one (runSettle_stands hst hall hm)⟩
      · exact ⟨.held, s, by tauto, hst ▸ s.settlesTo_self j, one (runSettle_still (.inr (.inl ⟨hst, hall, hm⟩)))⟩

end Sys2Proof.Machine

/-! COPY_ADD behind a busy lane (O55). -/

namespace Sys2Proof.Machine

theorem effects_still {answers : Bool} {n : Nat} {a : Task} {ts : List Task} {s t : State} (h : a.run s = t.still)
    (ha : a.answers = false) : effects answers (n + 1) (a :: ts) s = effects answers n ts t := by
  rw [effects_cons h ha]
  simp only [State.still, List.nil_append, List.append_nil]

theorem effects_andNow {answers : Bool} {n : Nat} {a : Task} {now ts : List Task} {s t : State}
    (h : a.run s = t.andNow now) (ha : a.answers = false) :
    effects answers (n + 1) (a :: ts) s = effects answers n (now ++ ts) t := by
  rw [effects_cons h ha]
  simp only [State.andNow, List.append_nil]

/-- A lane whose request stands waits for its slot. -/
theorem runLaneGo_standing {s : State} {d : DestNo} {c : Nat} (hc : (s.dest d).lane.current = some c)
    (hs : (s.dest d).lane.standing.isSome) : runLaneGo d s = s.still := by
  simp only [runLaneGo, hc, hs, if_true]
  split
  · split <;> rfl
  · rfl

/-- A lane that holds no copy stands still. -/
theorem runLaneGo_idle {s : State} {d : DestNo} (hcopies : (s.dest d).lane.copies = [])
    (hc : (s.dest d).lane.current = none) : runLaneGo d s = s.still := by
  simp only [runLaneGo, hc, hcopies, List.find?_nil]
  split <;> rfl

theorem State.dest_modLane (s : State) (d : DestNo) (f : Lane → Lane) (e : DestNo) :
    (s.modLane d f).dest e = if e = d then { s.dest d with lane := f (s.dest d).lane } else s.dest e := by
  rw [State.modLane, State.dest_modDest]

/-- A request for a copy at an ACTIVE destination, of a clip that may be supplied and has none there (R129). -/
theorem ruleCopyAdd_taken {s : State} {c : Nat} {x : Clip} {d : DestNo} (hc : c < 4096) (hx : s.clip? c = some x)
    (hstate : x.state = .read ∨ x.state = .secured ∨ x.state = .unstable)
    (hno : ∀ k, x.copies[d] = some k → k.state.live = false ∧ k.state ≠ .verified) (hact : (s.dest d).state = .active) :
    ruleCopyAdd c d.val s = .take [] (addCopy c d x s) := by
  have hsupplied : x.state.supplied = true := by rcases hstate with h | h | h <;> rw [h] <;> rfl
  have hfree : (x.copies[d]).any (fun k => k.state.live || decide (k.state = .verified)) = false := by
    cases hk : x.copies[d] with
    | none => rfl
    | some k => simpa using hno k hk
  rw [ruleCopyAdd_used hc hx, hsupplied, hfree]
  simp [State.isActive, hact]

/-- Settles O55: the copy joins the busy lane, and the settling check follows. -/
theorem copyAddQueues : Obligations.CopyAddQueues := by
  intro tag c d x other s e he hc hx hstate hno hact hcur hother hstand hnot hmine
  let s0 := s.quiet.owing e tag 0x2B
  let s1 := (s0.setCopy c d (Copy.fresh .queued .host 1)).joinLane c d
  have hrule : ruleCopyAdd c d.val s0 = .take [] ⟨s1, [.settle x.job], [.laneGo d]⟩ :=
    ruleCopyAdd_taken hc hx hstate hno hact
  have hjob1 (j : JobNo) : s1.job j = s.job j := by simp [s1, s0]
  have hclip1 (b : Nat) : s1.clip? b = if b = c then
      some { x with copies := x.copies.set d (some (Copy.fresh .queued .host 1)) } else s.clip? b := by
    have hx0 : s0.clip? c = some x := hx
    change (s0.setCopy c d _).clip? b = _
    rw [State.clip_setCopy, hx0]
    rfl
  have hdest1 (f : DestNo) : s1.dest f = if f = d then
      { s.dest d with lane := { (s.dest d).lane with copies := (s.dest d).lane.copies ++ [c] } } else s.dest f := by
    simp only [s1, State.joinLane]
    rw [State.dest_modLane]
    simp [s0, hnot]
  obtain ⟨st, s2, hst, hto, heff⟩ := effects_settle s1 x.job
  have hdest2 (f : DestNo) := (State.dest_congr hto.dests f).trans (hdest1 f)
  have hgo : effects false 2 [.laneGo d] s2 = some s2 := by
    rw [effects_still (a := .laneGo d) (runLaneGo_standing ?_ ?_) rfl, effects_nil]
    · exact other
    · rw [hdest2 d, if_pos rfl]; exact hcur
    · rw [hdest2 d, if_pos rfl]; exact hstand
  obtain ⟨t, hrun, hends, hplan, hlink⟩ := State.take_effects (s := s.quiet) (owner := fun _ s => ruleCopyAdd c d.val s) he
    hrule (by simp [s1, s0, Link.OnlyNotices.refl]) (by omega) (heff hgo)
  have hclip (b : Nat) : t.clip? b = s1.clip? b := (hends.clip b).trans (by simp only [State.clip?, hto.clips])
  have hjob (j : JobNo) : t.job j = if j = x.job then { s.job x.job with state := st } else s.job j := by
    rw [hends.job, hto.job, hjob1, hjob1]
  refine ⟨t, (exec_copyAdd tag c d.val s).trans hrun, ?_, fun b hb => ?_, ?_, fun f hf => ?_, fun hheld hnsec => ?_,
    fun h1 h2 => ?_, fun l hl => ?_, ?_, ?_, ?_, ?_, hlink⟩
  · rw [hclip, hclip1, if_pos rfl]; rfl
  · rw [hclip, hclip1, if_neg hb]
  · rw [hends.lane, hdest2, if_pos rfl]
  · have := hends.drive f
    rwa [hdest2, if_neg hf] at this
  · have hc1 : s1.clip? c = some _ := (hclip1 c).trans (if_pos rfl)
    have hunsettled : ¬s1.AllSettled x.job := fun hall => by
      have := hall c (by rw [hjob1]; exact hmine)
      rcases hstate with h | h | h <;> simp [State.clipState?, hc1, h] at this
      exact hnsec h
    have hmoving : s1.Moving x.job := ⟨c, by rw [hjob1]; exact hmine, d, Copy.fresh .queued .host 1,
      by simp [State.copy?, hc1], rfl, rfl⟩
    rw [State.Settled, hjob1, if_pos (.inr hheld)] at hst
    rw [hjob, if_pos rfl]
    exact hst.1 hunsettled hmoving
  · rw [State.Settled, hjob1, if_neg (by tauto)] at hst
    rw [hjob, if_pos rfl, hst]
  · rw [hjob, if_neg hl]
  · rw [hends.ring, hto.ring]; simp [s1, s0]
  · rw [hplan]; simp [s1, s0]
  · rw [hends.manifest, hto.manifest]; simp [s1, s0]
  · rw [hends.faults, hto.faults]; simp [s1, s0]

end Sys2Proof.Machine

/-! A job's asking for its next unit, the end of its reading, and JOB_PAUSE and JOB_RESUME (R8, R9, R36, R40; O48). -/

namespace Sys2Proof.Machine

/-! ### A job asks for its next unit -/

/-- From `s` to `t` job `j` may have been given a slot for a unit, or wait for one. -/
structure State.Asks (s : State) (j : JobNo) (t : State) : Prop where
  job : ∀ i, t.job i = if i = j then { s.job j with held := (t.job j).held } else s.job i
  port : ∀ p, (s.job j).boundPort ≠ some p → t.port p = s.port p
  clips : t.clips = s.clips
  dests : t.dests = s.dests
  manifest : t.manifest = s.manifest
  faults : t.faults = s.faults
  slot : s.ring.Sound → ∀ m y, s.slot? m = some y → t.slot? m = some y

theorem State.asks_self (s : State) (j : JobNo) : s.Asks j s :=
  ⟨fun i => by split_ifs with h <;> [rw [h]; rfl], fun _ _ => rfl, rfl, rfl, rfl, rfl, fun _ _ _ => id⟩

theorem State.joinWait_asks (s : State) (r : Requester) (j : JobNo) : s.Asks j (s.joinWait r) :=
  ⟨fun i => by simp only [State.job_joinWait]; split_ifs with h <;> [rw [h]; rfl], fun _ _ => by simp, by simp, by simp,
    by simp, by simp, fun _ m y h => by
    unfold State.joinWait
    split
    · exact h
    · exact h⟩

/-- The state with a slot at the head of the free list given to a requester (R59). -/
def State.given (s : State) (r : Requester) (n : Nat) (rest : List Nat) (x : Slot) : State :=
  { s with ring := { s.ring with freeList := rest, held := Table.insert n x s.ring.held } }.modHeld r (· + 1)

theorem State.giveSlot_given {s : State} {r : Requester} {c k n : Nat} {rest : List Nat} {x : Clip}
    (hfree : s.ring.freeList = n :: rest) (hx : s.clip? c = some x) :
    s.giveSlot r c k = some (n, s.given r n rest (freshSlot r c x k)) := by
  simp only [State.giveSlot, hfree, hx]
  rw [show freshSlot r c x k = ⟨.filling, r, c, k, unitByteCount x.length k, [], []⟩ from by
    simp [freshSlot, unitByteCount, unitBytes]]
  rfl

theorem State.giveSlot_none {s : State} {r : Requester} {c k : Nat} (hfree : s.ring.freeList = []) :
    s.giveSlot r c k = none := by simp only [State.giveSlot, hfree]

theorem State.job_given (s : State) (r : Requester) (n : Nat) (rest : List Nat) (x : Slot) (i : JobNo) :
    (s.given r n rest x).job i = if r = .job i then { s.job i with held := (s.job i).held + 1 } else s.job i := by
  rw [State.given, State.job_modHeld]; rfl

theorem State.given_blocks (s : State) (j : JobNo) (n : Nat) (rest : List Nat) (x : Slot) :
    (s.given (.job j) n rest x).ports = s.ports ∧ (s.given (.job j) n rest x).clips = s.clips
      ∧ (s.given (.job j) n rest x).dests = s.dests ∧ (s.given (.job j) n rest x).manifest = s.manifest
      ∧ (s.given (.job j) n rest x).faults = s.faults
      ∧ (s.given (.job j) n rest x).ring =
        { s.ring with freeList := rest, held := Table.insert n x s.ring.held } := ⟨rfl, rfl, rfl, rfl, rfl, rfl⟩

section

variable {s : State} {j : JobNo}

/-- A job that may read and stands below its quota is given the slot at the head of the free list, and its unit's pieces
join its port's FIFO (R36). -/
theorem State.askForJob_given {n c : Nat} {rest : List Nat} {x : Clip} {p : PortNo} (hmay : s.mayRead j = true)
    (hquota : (s.job j).held < (s.job j).quota) (hfree : s.ring.freeList = n :: rest) (hc : s.clipAtRead j = some c)
    (hx : s.clip? c = some x) (hp : (s.job j).boundPort = some p) :
    s.askForJob j = (s.given (.job j) n rest (freshSlot (.job j) c x (s.job j).readPos.unit)).queuePieces p
      (.job j c (s.job j).readPos.unit) (unitPieces x (s.job j).readPos.unit) := by
  simp only [State.askForJob, hmay, Bool.not_true, Bool.false_eq_true, if_false, if_neg (not_le.2 hquota), State.startUnit,
    hc, State.giveSlot_given hfree hx, hp, hx]

/-- With no slot free it waits for one. -/
theorem State.askForJob_waits (hmay : s.mayRead j = true) (hquota : (s.job j).held < (s.job j).quota)
    (hfree : s.ring.freeList = []) : s.askForJob j = s.joinWait (.job j) := by
  have hunit : s.startUnit j = none := by
    simp only [State.startUnit]
    split
    · rfl
    · simp only [State.giveSlot_none hfree]
  simp only [State.askForJob, hmay, Bool.not_true, Bool.false_eq_true, if_false, if_neg (not_le.2 hquota), hunit]

/-- At its quota it asks for nothing yet. -/
theorem State.askForJob_quota (hquota : (s.job j).quota ≤ (s.job j).held) : s.askForJob j = s := by
  simp only [State.askForJob, if_pos hquota, ite_self]

theorem State.startUnit_asks {t : State} (h : s.startUnit j = some t) : s.Asks j t := by
  simp only [State.startUnit] at h
  split at h
  · cases h
  · split at h
    · cases h
    · rename_i n s' hgive
      obtain ⟨rest, x, hfree, -, rfl⟩ := State.giveSlot_eq hgive
      have hjob (i : JobNo) (y : Slot) :
          (s.given (.job j) n rest y).job i = if i = j then { s.job j with held := ((s.given (.job j) n rest y).job j).held }
            else s.job i := by
        simp only [State.job_given, Requester.job.injEq, if_true]
        by_cases hi : i = j
        · subst hi; simp
        · simp [hi, Ne.symm hi]
      have hslot (y : Slot) (hs : s.ring.Sound) (m : Nat) (z : Slot) (hm : s.slot? m = some z) :
          (s.given (.job j) n rest y).slot? m = some z := by
        have hne : m ≠ n := by
          rintro rfl
          have hnodup := hs.2.nodup_iff.2 List.nodup_range
          rw [List.nodup_append] at hnodup
          exact hnodup.2.2 m (by simp [hfree]) m (List.mem_map_of_mem (Table.mem_of_find hm)) rfl
        exact (Table.find_insert_of_ne hne _ _).trans hm
      split at h <;> obtain rfl := Option.some.inj h
      · rename_i p _ hp _
        refine ⟨fun i => hjob i _, fun q hq => ?_, rfl, rfl, rfl, rfl, hslot _⟩
        have hpq : p ≠ q := by rintro rfl; exact hq hp
        exact (State.port_modPort_of_ne _ hpq _).trans rfl
      · exact ⟨fun i => hjob i _, fun _ _ => rfl, rfl, rfl, rfl, rfl, hslot _⟩

theorem State.askForJob_asks (s : State) (j : JobNo) : s.Asks j (s.askForJob j) := by
  unfold State.askForJob
  split
  · exact s.asks_self j
  · split
    · exact s.asks_self j
    · split
      · rename_i h
        exact State.startUnit_asks h
      · exact s.joinWait_asks _ j

/-- A RUNNING job at a READING clip asks for a unit at most, when no pause is pending (R36, R38). -/
theorem runProceed_reading {c : Nat} (hc : s.clipAtRead j = some c) (hread : s.clipState? c = some .reading)
    (hpause : (s.job j).pausePending = false) : ∃ t, runProceed j s = t.still ∧ s.Asks j t := by
  simp only [runProceed, hc, hpause, Bool.false_eq_true, if_false, Option.bind_some, hread, if_true]
  split
  · exact ⟨_, rfl, s.askForJob_asks j⟩
  · exact ⟨_, rfl, s.asks_self j⟩

/-! ### What is left to read -/

theorem State.anyListed_iff : s.anyListed j = true ↔ ∃ c ∈ (s.job j).clips, s.clipState? c = some .listed := by
  simp [State.anyListed, State.clipsIn, Option.any_eq_true]

theorem State.anyToRead_iff : s.anyToRead j = true ↔
    ∃ c ∈ (s.job j).clips, s.clipState? c = some .listed ∨ s.clipState? c = some .reading := by
  simp only [State.anyToRead, State.clipsIn, Option.any_eq_true, Bool.not_eq_true', List.isEmpty_eq_false_iff,
    ne_eq, List.filter_eq_nil_iff, decide_eq_true_eq, not_forall, not_not]
  constructor
  · rintro ⟨c, hc, x, hx, rfl | rfl⟩
    · exact ⟨c, hc, .inl hx⟩
    · exact ⟨c, hc, .inr hx⟩
  · rintro ⟨c, hc, h | h⟩
    · exact ⟨c, hc, _, h, .inl rfl⟩
    · exact ⟨c, hc, _, h, .inr rfl⟩

/-! ### The end of a job's reading -/

/-- The record of a job whose reading is over, the settling check passed (R40). -/
def Job.doneReading (y : Job) (st : JobState) : Job :=
  { y with
    state := st, readPos := ⟨y.clips.length, 0⟩, checkpoint := ⟨⟨y.clips.length, 0⟩, ⟨1, 0⟩⟩, live := ⟨1, 0⟩, summed := 0
    pausePending := false, pauseCause := none, resumeTarget := none }

/-- From `s` to `t` the reading of job `j` is over. -/
structure State.Drains (s : State) (j : JobNo) (t : State) : Prop where
  job : ∃ st, ∀ i, t.job i = if i = j then (s.job j).doneReading st else s.job i
  ended : ReadingIsOver s t j
  port : ∀ p, (s.job j).boundPort ≠ some p → t.port p = s.port p
  bound : ∀ p, ∃ r, t.port p = { s.port p with released := r }
  dests : t.dests = s.dests
  clips : t.clips = s.clips
  ring : t.ring = s.ring
  manifest : t.manifest = s.manifest
  faults : t.faults = s.faults

/-- DRAINING, and the settling check (R40). -/
theorem effects_toDraining (s : State) (j : JobNo) :
    ∃ t, s.Drains j t ∧ ∀ {answers n ts u}, effects answers n ts t = some u →
      effects answers (n + 3) (.toDraining j :: ts) s = some u := by
  let s1 := (s.standAt j (s.job j).clips.length).moveJob j fun x =>
    { x with state := .draining, pausePending := false, pauseCause := none, resumeTarget := none }
  have hrun : runToDraining j s = s1.andNow [.settle j] := rfl
  have hjob1 (i : JobNo) : s1.job i = if i = j then (s.job j).doneReading .draining else s.job i := by
    simp only [s1, State.job_moveJob, State.standAt, State.job_modJob]
    split_ifs <;> rfl
  obtain ⟨st, t, hst, hto, heff⟩ := effects_settle s1 j
  have hj : s1.job j = (s.job j).doneReading .draining := (hjob1 j).trans (if_pos rfl)
  have hjob (i : JobNo) : t.job i = if i = j then (s.job j).doneReading st else s.job i := by
    rw [hto.job, hj, hjob1]
    split_ifs <;> rfl
  refine ⟨t, ⟨⟨st, hjob⟩, ?_, fun p hp => ?_, fun p => ?_, hto.dests.trans (by simp [s1]), hto.clips.trans (by simp [s1]),
    hto.ring.trans (by simp [s1]), hto.manifest.trans (by simp [s1]), hto.faults.trans (by simp [s1])⟩, fun h => ?_⟩
  · have hclip1 : s1.clip? = s.clip? := funext fun c => by simp [s1]
    have hunsettled : s1.AllSettled j ↔
        ¬∃ b ∈ (s.job j).clips, s.clipState? b ≠ some .secured ∧ s.clipState? b ≠ some .excluded := by
      simp only [State.AllSettled, State.clipState?, hclip1, hj, Job.doneReading]
      push Not
      exact forall₂_congr fun b _ => by tauto
    have hmoving : s1.Moving j ↔ s.Moving j := by simp only [State.Moving, State.copy?, hclip1, hj, Job.doneReading]
    have huntaken : s1.Untaken j ↔ s.Untaken j := by simp only [State.Untaken, hclip1, hj, Job.doneReading]
    rw [State.Settled, hj, if_pos (.inl rfl), hunsettled, hmoving, huntaken] at hst
    obtain ⟨h1, h2, h3, h4⟩ := hst
    simp only [ReadingIsOver, hjob, if_true]
    exact ⟨rfl, rfl, rfl, rfl, rfl, rfl, fun hu hm => h1 (not_not.2 hu) hm, fun hu hm => h2 (not_not.2 hu) hm,
      fun hu hm => h3 hu hm, fun hu hm => h4 hu hm⟩
  · rw [hto.port, hj, if_neg (fun h => hp h.2.1)]
    simp [s1, State.standAt]
  · rw [hto.port]
    have : s1.port p = s.port p := by simp [s1, State.standAt]
    split_ifs
    · exact ⟨_, by rw [this]⟩
    · exact ⟨(s.port p).released, this⟩
  · rw [effects_andNow (a := .toDraining j) hrun rfl]
    exact heff h

end

end Sys2Proof.Machine

/-! JOB_PAUSE and JOB_RESUME (R8, R9; O48). -/

namespace Sys2Proof.Machine

/-- A request that changes one job's record, with notices, and is answered OK. -/
theorem State.request_onlyJob {s s' : State} {e : EntryNo} {tag : Byte} {code : Nat} {owner : EntryNo → State → Ruling}
    {b : List Byte} {j : JobNo} {y : Job} (he : s.link.freeEntry = some e)
    (ho : owner e (s.quiet.owing e tag code) = .tell b s') (h : (s.quiet.owing e tag code).OnlyJobs s')
    (hj : s'.job j = y) (hother : ∀ l, l ≠ j → s'.job l = s.job l) :
    ∃ t, s.quiet.request tag code owner = .next t ∧ OnlyJob s t j y ∧ s.link.AnswersTo t.link e tag code b := by
  obtain ⟨hrun, hlink⟩ := State.request_tell_notices (s := s.quiet) (owner := owner) he ho h.link
  exact ⟨_, hrun, ⟨hj, hother, h.ports, h.clips, h.dests, h.held, h.freeList, h.plan, h.manifest, h.faults, h.pending,
    h.lines⟩, hlink⟩

/-- A pause asked for: it takes effect at a boundary with something left to read, and is pending otherwise (R8). -/
theorem State.askPause_eq (s : State) (cause : PauseCause) (j : JobNo) :
    s.askPause cause j =
      let s' := s.modJob j fun x => { x with pausePending := true, pauseCause := some cause }
      if s.atBoundary j && s.readsOn j then s'.pauseNow j else s' := by
  have hreads : (s.modJob j fun x => { x with pausePending := true, pauseCause := some cause }).readsOn j = s.readsOn j := by
    simp only [State.readsOn, State.clipAtRead, State.job_modJob_self]
    rfl
  simp only [State.askPause, hreads]
  rfl

theorem jobPauseRules : JobPauseRules := by
  intro tag j s e he x run leaves filling
  have hrun : run = s.quiet.request tag 0x23 fun _ s => ruleJobPause j.val s := exec_jobPause tag j.val s
  let s0 := s.quiet.owing e tag 0x23
  have hused (hst : x.state ≠ .free) : ruleJobPause j.val s0 =
      match x.state with
      | .running => .tell [] (s0.askPause .host j)
      | .paused => .tell [] (s0.modJob j fun x => { x with pauseCause := some .host })
      | .pulled => .tell [] (s0.modJob j fun x => { x with resumeTarget := some .paused, pauseCause := some .host })
      | .free => .refuse .noSuch
      | .loading => .refuse .wrongState
      | .draining => .refuse .wrongState
      | .held => .refuse .wrongState
      | .reporting => .refuse .wrongState
      | .released => .refuse .wrongState := onJob_used hst _
  have told {s' : State} {y : Job} (h : ruleJobPause j.val s0 = .tell [] s') (honly : s0.OnlyJobs s') (hj : s'.job j = y)
      (hother : ∀ l, l ≠ j → s'.job l = s.job l) : leaves y := by
    obtain ⟨t, ht, hrest⟩ := State.request_onlyJob (owner := fun _ s => ruleJobPause j.val s) he h honly hj hother
    exact ⟨t, hrun.trans ht, hrest⟩
  have hne (f : Job → Job) (l : JobNo) (hl : l ≠ j) : (s0.modJob j f).job l = s.job l :=
    State.job_modJob_of_ne _ (Ne.symm hl) _
  refine ⟨fun hst => ?_, fun hst => ?_, fun hst => ?_, fun hst => ?_⟩
  · have hask : ruleJobPause j.val s0 = .tell [] (s0.askPause .host j) := by rw [hused (by simp [hst]), hst]
    rw [State.askPause_eq] at hask
    have hboundary : s0.atBoundary j = true ↔ ¬filling := s0.atBoundary_iff j
    have hreads : s0.readsOn j = true ↔ ReadsOn s j := s0.readsOn_iff j
    refine ⟨fun hno => ?_, fun hfill hon => ?_⟩
    · rw [show (s0.atBoundary j && s0.readsOn j) = false from by
        rw [Bool.and_eq_false_iff]
        exact hno.imp (fun h => by simpa using mt hboundary.1 (not_not.2 h)) fun h => by simpa using mt hreads.1 h] at hask
      simp only [Bool.false_eq_true, if_false] at hask
      exact told hask (s0.modJob_onlyJobs j _) (State.job_modJob_self _ _ _) (hne _)
    · rw [hboundary.2 hfill, hreads.2 hon] at hask
      simp only [Bool.and_self, if_true] at hask
      refine told hask ((s0.modJob_onlyJobs j _).trans (State.pauseNow_onlyJobs _ _)) ?_ fun l hl => ?_
      · simp only [State.pauseNow, State.job_moveJob]
        simp only [State.job_leaveWait, State.job_modJob_self]
        rfl
      · simp only [State.pauseNow, State.job_moveJob, if_neg hl, State.job_leaveWait]
        exact hne _ l hl
  · exact told (by rw [hused (by simp [hst]), hst]) (s0.modJob_onlyJobs j _) (State.job_modJob_self _ _ _) (hne _)
  · exact told (by rw [hused (by simp [hst]), hst]) (s0.modJob_onlyJobs j _) (State.job_modJob_self _ _ _) (hne _)
  · refine hrun.trans (State.request_refuse (s := s.quiet) (owner := fun _ s => ruleJobPause j.val s) he ?_)
    refine (hused ?_).trans ?_
    · rintro h; rw [h] at hst; simp at hst
    · rcases hst with h | h | h | h | h <;> rw [h]

/-- JOB_RESUME at a job in use, by the job's state (R9). -/
theorem ruleJobResume_used {s : State} {j : JobNo} (hst : (s.job j).state ≠ .free) : ruleJobResume j.val s =
      match (s.job j).state with
      | .paused => .take [] (resumePaused j s)
      | .running =>
        if (s.job j).pausePending then
          .tell [] (s.modJob j fun x => { x with pausePending := false, pauseCause := none })
        else .tell [] s
      | .pulled =>
        if (s.job j).resumeTarget = some .paused then
          .tell [] (s.modJob j fun x => { x with resumeTarget := some .running, pauseCause := none })
        else .tell [] s
      | .free => .refuse .noSuch
      | .loading => .refuse .wrongState
      | .draining => .refuse .wrongState
      | .held => .refuse .wrongState
      | .reporting => .refuse .wrongState
      | .released => .refuse .wrongState := onJob_used hst _

theorem jobResumeRules : JobResumeRules := by
  intro tag j s e he x run leaves
  have hrun : run = s.quiet.request tag 0x24 fun _ s => ruleJobResume j.val s := exec_jobResume tag j.val s
  let s0 := s.quiet.owing e tag 0x24
  have hused (hst : x.state ≠ .free) := ruleJobResume_used (s := s0) (j := j) hst
  have told {s' : State} {y : Job} (h : ruleJobResume j.val s0 = .tell [] s') (honly : s0.OnlyJobs s') (hj : s'.job j = y)
      (hother : ∀ l, l ≠ j → s'.job l = s.job l) : leaves y := by
    obtain ⟨t, ht, hrest⟩ := State.request_onlyJob (owner := fun _ s => ruleJobResume j.val s) he h honly hj hother
    exact ⟨t, hrun.trans ht, hrest⟩
  have hne (f : Job → Job) (l : JobNo) (hl : l ≠ j) : (s0.modJob j f).job l = s.job l :=
    State.job_modJob_of_ne _ (Ne.symm hl) _
  refine ⟨fun hst => ?_, fun hst => ?_, fun hst => ?_, fun c hst hc hread hpause => ?_⟩
  · have h := hused (by simp [hst])
    rw [show (s0.job j).state = .running from hst] at h
    split_ifs with hp
    · exact told (h.trans (if_pos hp)) (s0.modJob_onlyJobs j _) (State.job_modJob_self _ _ _) (hne _)
    · exact told (h.trans (if_neg hp)) (.refl _) rfl fun _ _ => rfl
  · have h := hused (by simp [hst])
    rw [show (s0.job j).state = .pulled from hst] at h
    split_ifs with hp
    · exact told (h.trans (if_pos hp)) (s0.modJob_onlyJobs j _) (State.job_modJob_self _ _ _) (hne _)
    · exact told (h.trans (if_neg hp)) (.refl _) rfl fun _ _ => rfl
  · refine hrun.trans (State.request_refuse (s := s.quiet) (owner := fun _ s => ruleJobResume j.val s) he ?_)
    refine (hused ?_).trans ?_
    · rintro h; rw [h] at hst; simp at hst
    · rcases hst with h | h | h | h | h <;> rw [show (s0.job j).state = _ from h]
  · have hany : s0.anyToRead j = true := State.anyToRead_iff.2 ⟨c, List.mem_of_getElem? hc, .inr hread⟩
    let s1 := s0.moveJob j fun x => { x with state := .running, pauseCause := none }
    have hjob1 (i : JobNo) : s1.job i = if i = j then { x with state := .running, pauseCause := none } else s.job i :=
      State.job_moveJob _ _ _ _
    have hrule : ruleJobResume j.val s0 = .take [] (s1.andNow [.proceed j]) := by
      rw [hused (by simp [hst]), show (s0.job j).state = .paused from hst]
      simp only [resumePaused, hany, if_true]
      rfl
    obtain ⟨u, hgo, hasks⟩ := runProceed_reading (s := s1) (j := j) (c := c)
      (by rw [State.clipAtRead, hjob1, if_pos rfl]; exact hc) hread (by rw [hjob1, if_pos rfl]; exact hpause)
    obtain ⟨t, ht, hends, hplan, hlink⟩ := State.take_effects (s := s.quiet) (owner := fun _ s => ruleJobResume j.val s) he
      hrule (State.moveJob_onlyNotices _ _ _) (n := 1) (by omega)
      ((effects_still (a := .proceed j) hgo rfl).trans (effects_nil _ _))
    have hjob (i : JobNo) := (hends.job i).trans (hasks.job i)
    refine ⟨t, hrun.trans ht, ?_, ?_, ?_, ?_, ?_, fun l hl => ?_, hends.clips.trans hasks.clips, hplan,
      hends.manifest.trans hasks.manifest, hends.faults.trans hasks.faults, fun d => ?_, fun p hp => ?_, hlink⟩
    · rw [hjob, if_pos rfl, hjob1, if_pos rfl]
    · rw [hjob, if_pos rfl, hjob1, if_pos rfl]
    · rw [hjob, if_pos rfl, hjob1, if_pos rfl]
    · rw [hjob, if_pos rfl, hjob1, if_pos rfl]
    · rw [hjob, if_pos rfl, hjob1, if_pos rfl]
    · rw [hjob, if_neg hl, hjob1, if_neg hl]
    · have := hends.drive d
      rwa [State.dest_congr hasks.dests] at this
    · have := hends.card p
      rwa [hasks.port p (by rw [hjob1, if_pos rfl]; exact hp)] at this

theorem jobResumeEndsReading : JobResumeEndsReading := by
  intro tag j s e he hst hnone
  let s0 := s.quiet.owing e tag 0x24
  have hany : s0.anyToRead j = false := by
    rw [Bool.eq_false_iff]
    intro h
    obtain ⟨c, hc, hl | hl⟩ := State.anyToRead_iff.1 h
    · exact (hnone c hc).1 hl
    · exact (hnone c hc).2 hl
  have hrule : ruleJobResume j.val s0 = .take [] (s0.andNow [.toDraining j]) := by
    rw [ruleJobResume_used (by simp [s0, hst]), show (s0.job j).state = .paused from hst]
    simp only [resumePaused, hany, Bool.false_eq_true, if_false]
  obtain ⟨u, hdrains, heff⟩ := effects_toDraining s0 j
  obtain ⟨t, ht, hends, hplan, hlink⟩ := State.take_effects (s := s.quiet) (owner := fun _ s => ruleJobResume j.val s) he
    hrule (.refl _) (n := 3) (by omega) (heff (effects_nil 0 u))
  obtain ⟨st, hjob⟩ := hdrains.job
  have hjob (i : JobNo) := (hends.job i).trans (hjob i)
  have hj := (hjob j).trans (if_pos rfl)
  refine ⟨t, (exec_jobResume tag j.val s).trans ht, ?_, ?_, ?_, ?_, ?_, fun l hl => (hjob l).trans (if_neg hl),
    hends.clips.trans hdrains.clips, hends.ring.trans hdrains.ring, hplan, hends.manifest.trans hdrains.manifest,
    hends.faults.trans hdrains.faults, fun d => ?_, fun p hp => ?_, hlink⟩
  · have h := hdrains.ended
    simp only [ReadingIsOver] at h ⊢
    rwa [← hends.job] at h
  · rw [hj]; rfl
  · rw [hj]; rfl
  · rw [hj]; rfl
  · rw [hj]; rfl
  · have := hends.drive d
    rwa [State.dest_congr hdrains.dests] at this
  · have := hends.card p
    rwa [hdrains.port p hp] at this

/-- Settles O48: each request by the job's state; a PAUSED job asks for its next unit or ends its reading. -/
theorem pauseAndResumeRules : Obligations.PauseAndResumeRules := ⟨jobPauseRules, jobResumeRules, jobResumeEndsReading⟩

end Sys2Proof.Machine

/-! A clip starts: its plan copies, spare enlistment, and its first unit (R34, R36, R128). -/

namespace Sys2Proof.Machine

theorem State.raise_of_not_hold {s : State} {o : Occurrence} (h : s.faults.route o.cls ≠ .hold) :
    (s.raise o).jobs = s.jobs ∧ (s.raise o).ring = s.ring := by
  have hroute : (s.faults.take o).route o.cls ≠ .hold := h
  unfold State.raise State.carryRoute
  simp only
  split
  · exact ⟨rfl, rfl⟩
  · exact ⟨rfl, rfl⟩
  · exact ⟨rfl, rfl⟩
  · exact absurd ‹_› hroute

/-- From `s` to `t` copies of clip `c` were created or changed, places given for them and lanes joined by them. -/
structure State.Plants (s : State) (c : Nat) (t : State) : Prop where
  jobs : t.jobs = s.jobs
  ports : t.ports = s.ports
  ring : t.ring = s.ring
  manifest : t.manifest = s.manifest
  routes : t.faults.routes = s.faults.routes
  queue : ∀ d w, (t.dest d).queue w = (s.dest d).queue w
  lane : ∀ d, (t.dest d).lane.current = (s.dest d).lane.current
    ∧ ∀ b ∈ (t.dest d).lane.copies, b ∈ (s.dest d).lane.copies ∨ b = c
  others : ∀ b, b ≠ c → t.clip? b = s.clip? b
  own : ∀ x, s.clip? c = some x → ∃ copies, t.clip? c = some { x with copies := copies }
    ∧ ∀ d : DestNo, (x.copies[d]).isSome → (copies[d]).isSome

namespace State.Plants

variable {s t u : State} {c : Nat}

theorem refl (s : State) (c : Nat) : s.Plants c s :=
  ⟨rfl, rfl, rfl, rfl, rfl, fun _ _ => rfl, fun _ => ⟨rfl, fun _ => .inl⟩, fun _ _ => rfl, fun _ hx => ⟨_, hx, fun _ => id⟩⟩

theorem trans (h : s.Plants c t) (g : t.Plants c u) : s.Plants c u where
  jobs := g.jobs.trans h.jobs
  ports := g.ports.trans h.ports
  ring := g.ring.trans h.ring
  manifest := g.manifest.trans h.manifest
  routes := g.routes.trans h.routes
  queue d w := (g.queue d w).trans (h.queue d w)
  lane d := ⟨(g.lane d).1.trans (h.lane d).1, fun b hb => ((g.lane d).2 b hb).elim ((h.lane d).2 b) .inr⟩
  others b hb := (g.others b hb).trans (h.others b hb)
  own x hx := by
    obtain ⟨copies, ht, hc⟩ := h.own x hx
    obtain ⟨copies', hu, hc'⟩ := g.own _ ht
    exact ⟨copies', hu, fun d hd => hc' d (hc d hd)⟩

theorem foldl {β : Type} (f : State → β → State) (hf : ∀ s x, State.Plants s c (f s x)) (l : List β) (s : State) :
    s.Plants c (l.foldl f s) :=
  foldl_invariant (s.Plants c ·) f (fun t x h => h.trans (hf t x)) l (refl s c)

/-- Only the copies of the clip changed, none of them lost. -/
theorem of_clips (hj : t.jobs = s.jobs) (hp : t.ports = s.ports) (hr : t.ring = s.ring) (hm : t.manifest = s.manifest)
    (hf : t.faults = s.faults) (hd : t.dests = s.dests) (hothers : ∀ b, b ≠ c → t.clip? b = s.clip? b)
    (hown : ∀ x, s.clip? c = some x → ∃ copies, t.clip? c = some { x with copies := copies }
      ∧ ∀ d : DestNo, (x.copies[d]).isSome → (copies[d]).isSome) : s.Plants c t :=
  ⟨hj, hp, hr, hm, by rw [hf], fun d _ => by rw [State.dest_congr hd],
    fun d => by rw [State.dest_congr hd]; exact ⟨rfl, fun _ => .inl⟩, hothers, hown⟩

/-- Only a destination changed, its queues and its lane kept. -/
theorem of_dests (hj : t.jobs = s.jobs) (hp : t.ports = s.ports) (hr : t.ring = s.ring) (hm : t.manifest = s.manifest)
    (hf : t.faults.routes = s.faults.routes) (hc : t.clips = s.clips) (hq : ∀ d w, (t.dest d).queue w = (s.dest d).queue w)
    (hl : ∀ d, (t.dest d).lane.current = (s.dest d).lane.current
      ∧ ∀ b ∈ (t.dest d).lane.copies, b ∈ (s.dest d).lane.copies ∨ b = c) : s.Plants c t :=
  ⟨hj, hp, hr, hm, hf, hq, hl, fun _ _ => by simp only [State.clip?, hc],
    fun x hx => ⟨x.copies, by simpa only [State.clip?, hc] using hx, fun _ => id⟩⟩

end State.Plants

section

variable {s : State} {c : Nat} {d : DestNo}

theorem State.setCopy_plants (s : State) (c : Nat) (d : DestNo) (k : Copy) : s.Plants c (s.setCopy c d k) := by
  refine .of_clips (by simp) (by simp) (by simp) (by simp) (by simp) (by simp) (fun b hb => ?_) fun x hx => ?_
  · rw [State.clip_setCopy, if_neg hb]
  · refine ⟨x.copies.set d (some k), by rw [State.clip_setCopy, if_pos rfl, hx]; rfl, fun e he => ?_⟩
    rw [Vector.getElem_set_fin]
    split_ifs
    · rfl
    · exact he

theorem State.modCopy_plants (s : State) (c : Nat) (d : DestNo) (f : Copy → Copy) : s.Plants c (s.modCopy c d f) := by
  unfold State.modCopy
  split
  · exact .refl s c
  · exact s.setCopy_plants c d _

theorem State.modDest_plants {f : DestPort → DestPort} (hq : ∀ x w, (f x).queue w = x.queue w)
    (hl : ∀ x, (f x).lane = x.lane) : s.Plants c (s.modDest d f) := by
  have hdest (e : DestNo) : (s.modDest d f).dest e = f (s.dest e) ∨ (s.modDest d f).dest e = s.dest e := by
    rw [State.dest_modDest]
    split_ifs with h
    · exact .inl (by rw [h])
    · exact .inr rfl
  refine .of_dests rfl rfl rfl rfl rfl rfl (fun e w => ?_) fun e => ?_
  · rcases hdest e with h | h <;> rw [h]
    exact hq _ w
  · rcases hdest e with h | h <;> rw [h]
    · rw [hl]; exact ⟨rfl, fun _ => .inl⟩
    · exact ⟨rfl, fun _ => .inl⟩

theorem State.joinLane_plants (s : State) (c : Nat) (d : DestNo) : s.Plants c (s.joinLane c d) := by
  have hlane : (s.joinLane c d).dest d = { s.dest d with lane := ((s.joinLane c d).dest d).lane }
      ∧ ((s.joinLane c d).dest d).lane.current = (s.dest d).lane.current
      ∧ ∀ b ∈ ((s.joinLane c d).dest d).lane.copies, b ∈ (s.dest d).lane.copies ∨ b = c := by
    simp only [State.joinLane, State.dest_modLane, if_true]
    split
    · exact ⟨trivial, rfl, fun _ => .inl⟩
    · exact ⟨trivial, rfl, fun b hb => by simpa using hb⟩
  obtain ⟨hsame, hcurrent, hcopies⟩ := hlane
  refine .of_dests rfl rfl rfl rfl rfl rfl (fun e w => ?_) fun e => ?_
  · by_cases h : e = d
    · rw [h, hsame]; cases w <;> rfl
    · rw [State.joinLane, State.dest_modLane, if_neg h]
  · by_cases h : e = d
    · rw [h]; exact ⟨hcurrent, hcopies⟩
    · rw [State.joinLane, State.dest_modLane, if_neg h]; exact ⟨rfl, fun _ => .inl⟩

theorem State.place_plants (s : State) (c : Nat) (d : DestNo) (w : Window) (n : Nat) : s.Plants c (s.place d c w n) :=
  (State.modDest_plants (f := fun x => { x with
    binding := x.binding.map fun b => { b with nextUnit := b.nextUnit + w.count, nextTrailer := b.nextTrailer + 1 } })
    (fun _ w => by cases w <;> rfl) fun _ => rfl).trans (State.modCopy_plants _ c d _)

theorem State.fillDest_plants (h : s.faults.route .destFull ≠ .hold) : s.Plants c (s.fillDest d c) := by
  have hmove : s.Plants c (s.moveDest d fun x => { x with state := .full }) :=
    (State.modDest_plants (d := d) (f := fun x => { x with state := .full })
      (fun _ w => by cases w <;> rfl) fun _ => rfl).trans (.of_dests rfl rfl rfl rfl rfl rfl (fun _ _ => rfl)
        fun _ => ⟨rfl, fun _ => .inl⟩)
  refine hmove.trans ?_
  obtain ⟨hj, hr⟩ := State.raise_of_not_hold (s := s.moveDest d fun x => { x with state := .full })
    (o := ⟨.destFull, (s.clip? c).map (·.job), some c, some d, none, .noRoom⟩) h
  refine .of_dests hj (State.raise_ports _ _) hr (State.raise_manifest _ _) ?_ (State.raise_clips _ _) (fun e w => ?_)
    fun e => ?_
  · simp only [State.fillDest, State.raise_faults, FaultUnit.take_routes]
  · rw [State.fillDest, State.dest_raise]
  · rw [State.fillDest, State.dest_raise]
    exact ⟨rfl, fun _ => .inl⟩

/-- A plan copy stands after its creation, whatever room it finds (R34). -/
theorem State.planCopy_plants (h : s.faults.route .destFull ≠ .hold) :
    s.Plants c (s.planCopy c d) ∧ ∀ x, s.clip? c = some x → ((s.planCopy c d).copy? c d).isSome := by
  have hset := s.setCopy_plants c d (Copy.fresh .noSpace .plan 1)
  have hcopy {t : State} (ht : (s.setCopy c d (Copy.fresh .noSpace .plan 1)).Plants c t) (x : Clip) (hx : s.clip? c = some x) :
      (t.copy? c d).isSome := by
    obtain ⟨copies, hc, hsome⟩ := ht.own _ ((s.clip_setCopy c d _ c).trans (by rw [if_pos rfl, hx]; rfl))
    simp only [State.copy?, hc, Option.bind_some]
    exact hsome d (by simp)
  unfold State.planCopy
  simp only
  split
  · exact ⟨hset.trans (State.place_plants _ c d _ _), hcopy (State.place_plants _ c d _ _)⟩
  · have hfill : (s.setCopy c d (Copy.fresh .noSpace .plan 1)).Plants c
        ((s.setCopy c d (Copy.fresh .noSpace .plan 1)).fillDest d c) := State.fillDest_plants (by simpa using h)
    exact ⟨hset.trans hfill, hcopy hfill⟩
  · exact ⟨hset, hcopy (.refl _ c)⟩

theorem State.Plants.route {t : State} (h : s.Plants c t) (cls : FaultClass) : t.faults.route cls = s.faults.route cls := by
  simp only [FaultUnit.route, h.routes]

theorem State.Plants.copy_isSome {t : State} (h : s.Plants c t) (hs : (s.copy? c d).isSome) : (t.copy? c d).isSome := by
  obtain ⟨k, hk⟩ := Option.isSome_iff_exists.1 hs
  obtain ⟨x, hx, hd⟩ := State.copy_some_iff.1 hk
  obtain ⟨copies, hc, hsome⟩ := h.own x hx
  simp only [State.copy?, hc, Option.bind_some]
  exact hsome d (by rw [hd]; rfl)

/-- The plan copies of a clip at a list of destinations. -/
theorem State.planCopies_plants (l : List DestNo) (h : s.faults.route .destFull ≠ .hold) {x : Clip}
    (hx : s.clip? c = some x) :
    s.Plants c (l.foldl (State.planCopy c) s) ∧ ∀ d ∈ l, ((l.foldl (State.planCopy c) s).copy? c d).isSome := by
  induction l generalizing s x with
  | nil => exact ⟨.refl s c, by simp⟩
  | cons e l ih =>
    obtain ⟨hone, hsome⟩ := State.planCopy_plants (c := c) (d := e) h
    obtain ⟨copies, hc, -⟩ := hone.own x hx
    obtain ⟨hrest, hall⟩ := ih (s := s.planCopy c e) (by rw [hone.route]; exact h) hc
    refine ⟨hone.trans hrest, fun d hd => ?_⟩
    rcases List.mem_cons.1 hd with rfl | hd
    · exact hrest.copy_isSome (hsome x hx)
    · exact hall d hd

theorem enlistAt_plants (s : State) (c r : Nat) (d : DestNo) : s.Plants c (enlistAt c r s d) := by
  unfold enlistAt
  split
  · exact .refl s c
  · split
    · exact (s.setCopy_plants c d _).trans (State.joinLane_plants _ c d)
    · exact .refl s c

theorem enlist_plants (s : State) (c r : Nat) (l : List DestNo) : s.Plants c (l.foldl (enlistAt c r) s) :=
  .foldl _ (fun s d => enlistAt_plants s c r d) l s

end

/-! ### The start of a clip -/

/-- A lane whose copies wait for the end of their clip's read stands still. -/
theorem runLaneGo_waiting {s : State} {d : DestNo} (hc : (s.dest d).lane.current = none)
    (hcopies : ∀ c ∈ (s.dest d).lane.copies, (s.clipState? c).any ClipState.supplied = false) :
    runLaneGo d s = s.still := by
  have hnone : ((s.dest d).lane.copies.find? fun c => (s.clipState? c).any ClipState.supplied) = none :=
    List.find?_eq_none.2 fun c hm => by simp [hcopies c hm]
  simp only [runLaneGo, hc, hnone]
  split <;> rfl

theorem effects_lanes_still {answers : Bool} {s : State} (l : List DestNo) (h : ∀ d ∈ l, runLaneGo d s = s.still) :
    effects answers l.length (l.map Task.laneGo) s = some s := by
  induction l with
  | nil => rfl
  | cons d l ih =>
    rw [List.map_cons, List.length_cons, effects_still (a := .laneGo d) (h d (by simp)) rfl]
    exact ih fun e he => h e (by simp [he])

/-- From `s` to `t` job `j` started to read clip `c`. -/
structure State.Starts (s : State) (j : JobNo) (c : Nat) (t : State) : Prop where
  job : ∀ i, t.job i = if i = j then { s.job j with live := ⟨1, 0⟩, summed := 0, held := (t.job j).held } else s.job i
  port : ∀ p, (s.job j).boundPort ≠ some p → t.port p = s.port p
  manifest : t.manifest = s.manifest
  queue : ∀ d w, (t.dest d).queue w = (s.dest d).queue w
  slot : s.ring.Sound → ∀ m y, s.slot? m = some y → t.slot? m = some y
  others : ∀ b, b ≠ c → t.clip? b = s.clip? b
  own : t.clipState? c = some .reading
  mirrors : ∀ snap, (s.job j).snapshot = some snap → ∀ d ∈ snap.mirrors, (s.dest d).state = .active → (t.copy? c d).isSome

/-- A RUNNING job at rest before a LISTED clip starts it (R36). -/
theorem runProceed_listed {s : State} {j : JobNo} {c : Nat} (hrun : (s.job j).state = .running) (hrest : AtRest s j)
    (hpause : (s.job j).pausePending = false) (hc : s.clipAtRead j = some c) (hlisted : s.clipState? c = some .listed) :
    runProceed j s = startClip j c s := by
  have hboundary : s.atBoundary j = true := (s.atBoundary_iff _).2 fun ⟨n, y, hm, hy⟩ => hrest.1 n y hm hy
  have hnot : s.ring.waitList.contains (.job j) = false := by simpa using hrest.2
  simp only [runProceed, hrun, hboundary, hnot, decide_true, Bool.and_self, Bool.not_false, if_true, hpause,
    Bool.false_eq_true, if_false, hc, Option.bind_some, hlisted, Option.some.injEq, reduceCtorEq]

/-- Spare enlistment for a READING clip of a RUNNING job, the settling check behind it (R128). -/
theorem effects_enlist_running {s : State} {c : Nat} {x : Clip} (hx : s.clip? c = some x) (hread : x.state = .reading)
    (hrun : (s.job x.job).state = .running) (hfit : SparesFit (s.job x.job)) :
    ∃ (t : State) (lanes : List DestNo), s.Plants c t ∧ lanes.length ≤ 4 ∧ ∀ {answers n ts u},
      effects answers n (ts ++ lanes.map .laneGo) t = some u → effects answers (n + 2) (.enlist c :: ts) s = some u := by
  cases hsnap : (s.job x.job).snapshot with
  | none =>
    refine ⟨s, [], .refl s c, by simp, fun {answers n ts u} h => ?_⟩
    have henlist : runEnlist c s = s.still := by simp only [runEnlist, hx, hsnap]
    rw [effects_still (a := .enlist c) henlist rfl]
    exact effects_mono (Nat.le_succ n) (by simpa using h)
  | some snap =>
    have hplants := enlist_plants s c snap.r snap.spares
    refine ⟨_, snap.spares, hplants, hfit snap hsnap, fun {answers n ts u} h => ?_⟩
    have henlist : runEnlist c s = ⟨snap.spares.foldl (enlistAt c snap.r) s, [.settle x.job], snap.spares.map .laneGo⟩ := by
      simp only [runEnlist, hx, hsnap, hread, true_or, if_true]
    have hsettle : runSettle x.job (snap.spares.foldl (enlistAt c snap.r) s)
        = (snap.spares.foldl (enlistAt c snap.r) s).still :=
      runSettle_still (.inr (.inr (by rw [State.job_congr hplants.jobs]; simp [hrun])))
    rw [effects_cons (t := .enlist c) henlist rfl]
    change effects answers (n + 1) (.settle x.job :: (ts ++ snap.spares.map .laneGo)) _ = some u
    rwa [effects_still (a := .settle x.job) hsettle rfl]

/-- A RUNNING job at rest before a LISTED clip with units starts it: READING, its plan copies made, spares enlisted, the
first unit asked for (R34, R36). -/
theorem effects_start {s : State} {j : JobNo} {c : Nat} {x : Clip} (hrun : (s.job j).state = .running)
    (hrest : AtRest s j) (hpause : (s.job j).pausePending = false) (hc : s.clipAtRead j = some c)
    (hx : s.clip? c = some x) (hlisted : x.state = .listed) (hj : x.job = j) (hlen : 0 < x.length)
    (hfit : SparesFit (s.job j)) (hidle : s.LanesIdle) (hroute : s.faults.route .destFull ≠ .hold) :
    ∃ t, s.Starts j c t ∧ ∀ answers, effects answers 10 [.proceed j] s = some t := by
  subst hj
  let mirrors := ((s.job x.job).snapshot.elim [] (·.mirrors)).filter s.isActive
  let s1 := (s.modClip c fun x => { x with state := .reading }).modJob x.job fun y => { y with live := Sums.start, summed := 0 }
  let s2 := mirrors.foldl (State.planCopy c) s1
  have hproceed : runProceed x.job s = s2.andNow [.enlist c, .clipStarted x.job c] :=
    runProceed_listed hrun hrest hpause hc (by rw [State.clipState?, hx, Option.map_some, hlisted])
  have hx1 : s1.clip? c = some { x with state := .reading } :=
    (s.clip_modClip c _ c).trans (by rw [if_pos rfl, hx]; rfl)
  obtain ⟨hplants2, hmirrors⟩ : s1.Plants c s2 ∧ ∀ d ∈ mirrors, (s2.copy? c d).isSome :=
    State.planCopies_plants mirrors (by simpa [s1] using hroute) hx1
  obtain ⟨copies2, hx2, -⟩ := hplants2.own _ hx1
  have hjob2 (i : JobNo) : s2.job i = if i = x.job then { s.job x.job with live := ⟨1, 0⟩, summed := 0 } else s.job i := by
    rw [State.job_congr hplants2.jobs, State.job_modJob]
    simp only [State.job_modClip]
    rfl
  obtain ⟨s3, lanes, henlisted, hlanes, heff⟩ := effects_enlist_running hx2 rfl
    (by change (s2.job x.job).state = _; rw [hjob2, if_pos rfl]; exact hrun)
    (by change SparesFit (s2.job x.job); rw [hjob2, if_pos rfl]; exact hfit)
  have hplants3 : s1.Plants c s3 := hplants2.trans henlisted
  obtain ⟨copies3, hx3, -⟩ := hplants3.own _ hx1
  have hjob3 (i : JobNo) : s3.job i = if i = x.job then { s.job x.job with live := ⟨1, 0⟩, summed := 0 } else s.job i :=
    (State.job_congr henlisted.jobs i).trans (hjob2 i)
  have hstarted : runClipStarted x.job c s3 = s3.andNow [.proceed x.job] := by
    simp only [runClipStarted, hx3, if_neg hlen.ne']
  obtain ⟨t, hgo, hasks⟩ := runProceed_reading (s := s3) (j := x.job) (c := c)
    (by rw [State.clipAtRead, hjob3, if_pos rfl]; exact hc) (by rw [State.clipState?, hx3]; rfl)
    (by rw [hjob3, if_pos rfl]; exact hpause)
  have hclip (b : Nat) : t.clip? b = s3.clip? b := by simp only [State.clip?, hasks.clips]
  have hstate : t.clipState? c = some .reading := by rw [State.clipState?, hclip, hx3]; rfl
  have hstill : ∀ d ∈ lanes, runLaneGo d t = t.still := fun d _ => by
    have hlane := hplants3.lane d
    have hd : t.dest d = s3.dest d := State.dest_congr hasks.dests d
    have hidle1 : (s1.dest d).lane = (s.dest d).lane := by simp [s1]
    rw [hidle1, (hidle d).1, (hidle d).2] at hlane
    refine runLaneGo_waiting (by rw [hd]; exact hlane.1) fun b hb => ?_
    obtain rfl : b = c := by simpa using hlane.2 b (hd ▸ hb)
    rw [hstate]; rfl
  refine ⟨t, ⟨fun i => ?_, fun p hp => ?_, ?_, fun d w => ?_, fun hs m y hm => ?_, fun b hb => ?_, hstate,
    fun snap hsnap d hd hact => ?_⟩, fun answers => ?_⟩
  · rw [hasks.job, hjob3 x.job, if_pos rfl, hjob3 i]
    split_ifs <;> rfl
  · rw [hasks.port p (by rw [hjob3, if_pos rfl]; exact hp), State.port_congr hplants3.ports]
    simp [s1]
  · rw [hasks.manifest, hplants3.manifest]; simp [s1]
  · rw [State.dest_congr hasks.dests, hplants3.queue]; simp [s1]
  · have hring : s3.ring = s.ring := hplants3.ring.trans (by simp [s1])
    exact hasks.slot (by rw [hring]; exact hs) m y (by rw [State.slot?, hring]; exact hm)
  · rw [hclip, hplants3.others b hb]
    exact (s.clip_modClip c _ b).trans (if_neg hb)
  · have hmem : d ∈ mirrors := List.mem_filter.2 ⟨by rw [hsnap]; exact hd, by simp [State.isActive, hact]⟩
    have hsome := henlisted.copy_isSome (hmirrors d hmem)
    rwa [← State.copy_congr hasks.clips] at hsome
  · rw [effects_andNow (a := .proceed x.job) hproceed rfl, List.append_nil]
    refine heff ?_
    rw [List.singleton_append, effects_andNow (a := .clipStarted x.job c) hstarted rfl, List.singleton_append,
      effects_still (a := .proceed x.job) hgo rfl]
    exact effects_mono (by omega) (effects_lanes_still lanes hstill)

end Sys2Proof.Machine

/-! JOB_START and CLIP_RETRY (R7, R17; O47, O54). -/

namespace Sys2Proof.Machine

/-! ### JOB_START (R7) -/

/-- The record of a job as JOB_START takes it (R7, R139). -/
def Job.taken (x : Job) (p : Plan) (q u : Nat) : Job :=
  { x with
    snapshot := some
      { r := p.r
        mirrors := allDests.filter fun d => decide (p.roles[d] = .mirror)
        spares := allDests.filter fun d => decide (p.roles[d] = .spare) }
    quota := if q = 0 then 256 else min 1024 (max 16 q)
    urgent := decide (u ≠ 0) }

theorem ruleJobStart_taken {s : State} {j : JobNo} {q u : Nat} (hst : (s.job j).state = .loading)
    (hclips : (s.job j).clips ≠ []) (hport : (s.job j).boundPort.isSome) (hr : s.plan.r ≤ activePlanned s) :
    ruleJobStart j.val q u s =
      .take [BitVec.ofNat 8 (if q = 0 then 256 else min 1024 (max 16 q)),
          BitVec.ofNat 8 ((if q = 0 then 256 else min 1024 (max 16 q)) / 256)]
        (startJob j (if q = 0 then 256 else min 1024 (max 16 q)) (decide (u ≠ 0)) s) := by
  have hnone : (s.job j).boundPort.isNone = false := by
    cases h : (s.job j).boundPort <;> simp_all
  rw [ruleJobStart, onJob_used (by simp [hst]), if_neg (by simp [hst, hclips]), hnone, if_neg (by simp), if_neg]
  · rfl
  · rw [activePlanned_eq]; omega

/-- The first LISTED clip is found. -/
theorem State.firstListed_eq {s : State} {j : JobNo} {k c : Nat} (h : FirstListed s j k c) : s.firstListed j = k := by
  obtain ⟨hk, hc, hbefore⟩ := h
  obtain ⟨hlt, hget⟩ := List.getElem?_eq_some_iff.1 hk
  refine (List.findIdx_eq hlt).2 ⟨by rw [hget]; simpa using hc, fun i hi => ?_⟩
  have := hbefore i _ hi (List.getElem?_eq_getElem (hi.trans hlt))
  simpa using this

theorem jobStartEndsAtOnce : JobStartEndsAtOnce := by
  intro tag j q u s e he hst hclips hport hr hnone quota
  let s0 := s.quiet.owing e tag 0x22
  let s1 := s0.modJob j fun x => x.taken s.plan q u
  have hjob1 : s1.job j = (s.job j).taken s.plan q u := State.job_modJob_self _ _ _
  have hany : s1.anyListed j = false := by
    rw [Bool.eq_false_iff]
    intro h
    obtain ⟨c, hc, hl⟩ := State.anyListed_iff.1 h
    rw [hjob1] at hc
    exact hnone c hc hl
  have hrule : ruleJobStart j.val q u s0 = .take [BitVec.ofNat 8 quota, BitVec.ofNat 8 (quota / 256)]
      (s1.andNow [.toDraining j]) := by
    refine (ruleJobStart_taken (s := s0) hst hclips hport hr).trans (congrArg _ ?_)
    exact if_neg (c := s1.anyListed j = true) (by simp [hany])
  obtain ⟨v, hdrains, heff⟩ := effects_toDraining s1 j
  obtain ⟨t, ht, hends, hplan, hlink⟩ := State.take_effects (s := s.quiet) (owner := fun _ s => ruleJobStart j.val q u s) he
    hrule (.refl _) (n := 3) (by omega) (heff (effects_nil 0 v))
  obtain ⟨st, hjob⟩ := hdrains.job
  have hjob (i : JobNo) := (hends.job i).trans (hjob i)
  have hj := (hjob j).trans (if_pos rfl)
  rw [hjob1] at hj
  refine ⟨t, (exec_jobStart tag j.val q u s).trans ht, ?_, ?_, ?_, ?_, ?_, ?_, ?_, fun l hl => ?_,
    hends.clips.trans hdrains.clips, hends.ring.trans hdrains.ring, hplan, hends.manifest.trans hdrains.manifest,
    hends.faults.trans hdrains.faults, fun d => ?_, fun p hp => ?_, hlink⟩
  · have h := hdrains.ended
    simp only [ReadingIsOver, hjob1] at h ⊢
    rwa [← hends.job] at h
  · rw [hj]; rfl
  · rw [hj]; rfl
  · rw [hj]; rfl
  · rw [hj]; rfl
  · rw [hj]; rfl
  · rw [hj]; rfl
  · rw [hjob, if_neg hl]; exact State.job_modJob_of_ne _ (Ne.symm hl) _
  · have := hends.drive d
    rwa [State.dest_congr hdrains.dests] at this
  · have := hends.card p
    rwa [hdrains.port p (by rw [hjob1]; exact hp)] at this

theorem jobStartReadsTheFirstClip : JobStartReadsTheFirstClip := by
  intro tag j q u k c x s e he hst hport hr hfirst hx hxj hlen hrest hpause hidle hroute quota
  let s0 := s.quiet.owing e tag 0x22
  let s1 := s0.modJob j fun x => x.taken s.plan q u
  let s2 := (s1.standAt j k).moveJob j fun x => { x with state := .running }
  have hclips : (s.job j).clips ≠ [] := fun h => by have := hfirst.1; rw [h] at this; simp at this
  have hjob1 : s1.job j = (s.job j).taken s.plan q u := State.job_modJob_self _ _ _
  have hjob2 (i : JobNo) : s2.job i = if i = j then
      { (s.job j).taken s.plan q u with
        readPos := ⟨k, 0⟩, live := ⟨1, 0⟩, summed := 0, checkpoint := ⟨⟨k, 0⟩, ⟨1, 0⟩⟩, state := .running }
      else s.job i := by
    simp only [s2, State.job_moveJob, State.standAt, State.job_modJob, if_true, hjob1]
    split_ifs with hi
    · rfl
    · exact (State.job_modJob_of_ne _ (Ne.symm hi) _).trans rfl
  have hfirst1 : FirstListed s1 j k c := by
    refine ⟨by rw [hjob1]; exact hfirst.1, hfirst.2.1, fun i b hi hb => hfirst.2.2 i b hi ?_⟩
    rw [hjob1] at hb; exact hb
  have hany : s1.anyListed j = true := State.anyListed_iff.2 ⟨c, List.mem_of_getElem? hfirst1.1, hfirst.2.1⟩
  have hrule : ruleJobStart j.val q u s0 = .take [BitVec.ofNat 8 quota, BitVec.ofNat 8 (quota / 256)]
      (s2.andNow [.proceed j]) := by
    refine (ruleJobStart_taken (s := s0) hst hclips hport hr).trans (congrArg _ ?_)
    refine (if_pos (c := s1.anyListed j = true) hany).trans ?_
    change (((s1.standAtFirst j).moveJob j _).andNow _) = _
    rw [State.standAtFirst, State.firstListed_eq hfirst1]
  have hlisted : x.state = .listed := by simpa [State.clipState?, hx] using hfirst.2.1
  obtain ⟨v, hstarts, heff⟩ := effects_start (s := s2) (j := j) (c := c) (x := x) (by rw [hjob2, if_pos rfl]) hrest
    (by rw [hjob2, if_pos rfl]; exact hpause) (by rw [State.clipAtRead, hjob2, if_pos rfl]; exact hfirst.1) hx hlisted hxj
    hlen (by
      rw [hjob2, if_pos rfl]
      rintro snap hsnap
      obtain rfl := Option.some.inj hsnap
      exact (List.length_filter_le _ _)) hidle hroute
  obtain ⟨t, ht, hends, hplan, hlink⟩ := State.take_effects (s := s.quiet) (owner := fun _ s => ruleJobStart j.val q u s) he
    hrule (State.moveJob_onlyNotices _ _ _) (n := 10) (by omega) (heff false)
  have hjob (i : JobNo) := (hends.job i).trans (hstarts.job i)
  have hj := (hjob j).trans (if_pos rfl)
  rw [hjob2, if_pos rfl] at hj
  refine ⟨t, (exec_jobStart tag j.val q u s).trans ht, ?_, ?_, ?_, ?_, ?_, ?_, ?_, ?_,
    (hends.clipState c).trans hstarts.own, fun l hl => ?_, fun b hb => (hends.clip b).trans (hstarts.others b hb),
    fun d hd hact => ?_, fun p hp => ?_, hplan, hends.manifest.trans hstarts.manifest, hlink⟩
  · rw [hj]
  · rw [hj]; rfl
  · rw [hj]; rfl
  · rw [hj]; rfl
  · rw [hj]
  · rw [hj]
  · rw [hj]
  · rw [hj]; rfl
  · rw [hjob, if_neg hl, hjob2, if_neg hl]
  · have hmem : d ∈ allDests.filter fun d => decide (s.plan.roles[d] = .mirror) :=
      List.mem_filter.2 ⟨mem_allDests d, decide_eq_true hd⟩
    rw [hends.copy]
    exact hstarts.mirrors _ (by rw [hjob2, if_pos rfl]; rfl) d hmem hact
  · have := hends.card p
    rwa [hstarts.port p (by rw [hjob2, if_pos rfl]; exact hp)] at this

/-- Settles O47: the reading starts at the first LISTED clip, or is over at once. -/
theorem jobStartReads : Obligations.JobStartReads := ⟨jobStartReadsTheFirstClip, jobStartEndsAtOnce⟩

end Sys2Proof.Machine

/-! CLIP_RETRY (R17; O54). -/

namespace Sys2Proof.Machine

/-- A clip LISTED again, without its copies (R17). -/
def Clip.relisted (x : Clip) : Clip := { x with state := .listed, copies := #v[none, none, none, none] }

/-- The state after a clip is LISTED again, its lamp formed (R17, R164). -/
def State.relist (s : State) (c : Nat) (x : Clip) : State := (s.setClip c x.relisted).refreshLamps

theorem State.relist_clip (s : State) (c : Nat) (x : Clip) (b : Nat) :
    (s.relist c x).clip? b = if b = c then some x.relisted else s.clip? b := by
  have h := (s.setClip c x.relisted).refreshLamps_lampsOnly
  rw [State.relist, State.clip_congr h.1.2.1, State.clip_setClip]

/-- Relisting a clip leaves every block but the clip table and the lamps. -/
theorem State.relist_blocks (s : State) (c : Nat) (x : Clip) :
    (s.relist c x).jobs = s.jobs ∧ (s.relist c x).ring = s.ring ∧ (s.relist c x).plan = s.plan
      ∧ (s.relist c x).manifest = s.manifest ∧ (s.relist c x).faults = s.faults ∧ (s.relist c x).dests = s.dests
      ∧ (∀ p, (s.port p).SameCard ((s.relist c x).port p)) ∧ s.link.OnlyNotices (s.relist c x).link := by
  obtain ⟨⟨hj, -, hr, hp, hm, hf, -⟩, hd, -, hl, hport⟩ := (s.setClip c x.relisted).refreshLamps_lampsOnly
  exact ⟨hj, hr, hp, hm, hf, hd, fun p => (hport p).1, hl⟩

theorem retryClip_eq (c : Nat) (x : Clip) (s : State) : retryClip c x s =
    match (s.job x.job).state with
    | .draining => readAgain x.job (s.relist c x)
    | .held => readAgain x.job (s.relist c x)
    | .running => (s.relist c x).still
    | .paused => (s.relist c x).still
    | .pulled => (s.relist c x).still
    | .free => (s.relist c x).still
    | .loading => (s.relist c x).still
    | .reporting => (s.relist c x).still
    | .released => (s.relist c x).still := rfl

/-- A clip LISTED again is the first LISTED one of its job's list when none before it is LISTED. -/
theorem State.relist_firstListed {s : State} {c k : Nat} {x : Clip} {j : JobNo} (hk : (s.job j).clips[k]? = some c)
    (hbefore : ∀ i b, i < k → (s.job j).clips[i]? = some b → s.clipState? b ≠ some .listed ∧ b ≠ c) :
    FirstListed (s.relist c x) j k c := by
  have hjob := State.job_congr (s.relist_blocks c x).1 j
  refine ⟨by rw [hjob]; exact hk, by rw [State.clipState?, s.relist_clip, if_pos rfl]; rfl, fun i b hi hb => ?_⟩
  rw [hjob] at hb
  obtain ⟨hnot, hne⟩ := hbefore i b hi hb
  rwa [State.clipState?, s.relist_clip, if_neg hne]

theorem ruleClipRetry_taken {s : State} {c : Nat} {x : Clip} (hc : c < 4096) (hx : s.clip? c = some x)
    (hst : x.state = .sourceFault) : ruleClipRetry c s = .take [] (retryClip c x s) := by
  rw [ruleClipRetry, onClip_used hc hx, if_pos hst]

theorem clipRetryLists : ClipRetryLists := by
  intro tag c x s e he hc hx hst y listed leaves
  let s0 := s.quiet.owing e tag 0x2A
  have hrule : ruleClipRetry c s0 = .take [] (retryClip c x s0) := ruleClipRetry_taken hc hx hst
  rw [retryClip_eq] at hrule
  obtain ⟨hjobs, hring, hplan, hmanifest, hfaults, hdests, hports, hlink⟩ := s0.relist_blocks c x
  have stays {w : State} {z : Job} (h : ruleClipRetry c s0 = .take [] w.still) (hclips : w.clips = (s0.relist c x).clips)
      (hj : w.job x.job = z) (hother : ∀ l, l ≠ x.job → w.job l = s.job l) (hr : w.ring = s.ring) (hp : w.plan = s.plan)
      (hm : w.manifest = s.manifest) (hf : w.faults = s.faults) (hd : w.dests = s.dests)
      (hports : w.ports = (s0.relist c x).ports) (hl : (s0.relist c x).link.OnlyNotices w.link) : leaves z := by
    obtain ⟨t, ht, hends, htplan, htlink⟩ := State.take_effects (s := s.quiet) (owner := fun _ s => ruleClipRetry c s) he
      h (hlink.trans hl) (n := 0) (by omega) (effects_nil 0 w)
    have hclip (b : Nat) : t.clip? b = if b = c then some listed else s.clip? b := by
      rw [hends.clip, State.clip_congr hclips]
      exact s0.relist_clip c x b
    refine ⟨t, (exec_clipRetry_eq tag c s).trans ht, (hclip c).trans (if_pos rfl), fun b hb => (hclip b).trans (if_neg hb),
      (hends.job _).trans hj, fun l hl => (hends.job l).trans (hother l hl), hends.ring.trans hr, htplan.trans hp,
      hends.manifest.trans hm, hends.faults.trans hf, fun d => ?_, fun p => ?_, htlink⟩
    · have := hends.drive d
      rwa [State.dest_congr hd] at this
    · refine CardPort.SameCard.trans ?_ (hends.card p)
      rw [State.port_congr hports]
      exact (s0.relist_blocks c x).2.2.2.2.2.2.1 p
  refine ⟨fun h => ?_, fun k hdr hport hk hbefore => ?_⟩
  · refine stays (w := s0.relist c x) ?_ rfl (State.job_congr hjobs _) (fun l _ => State.job_congr hjobs l) hring hplan
      hmanifest hfaults hdests rfl (.refl _)
    rcases h with h | h | h <;> rw [show (s0.job x.job).state = _ from h] at hrule <;> exact hrule
  · have hfirst : (s0.relist c x).firstListed x.job = k :=
      State.firstListed_eq (State.relist_firstListed (s := s0) hk hbefore)
    let w := ((s0.relist c x).standAt x.job k).moveJob x.job fun x =>
      { x with state := .pulled, resumeTarget := some .running }
    have hagain : readAgain x.job (s0.relist c x) = w.still := by
      simp only [readAgain, State.job_congr hjobs, State.standAtFirst, hfirst]
      exact if_neg (by rw [show (s0.job x.job).boundPort = none from hport]; simp)
    have hrule' : ruleClipRetry c s0 = .take [] w.still := by
      rw [← hagain]
      rcases hdr with h | h <;> rw [show (s0.job x.job).state = _ from h] at hrule <;> exact hrule
    refine stays hrule' rfl ?_ (fun l hl => ?_) hring hplan hmanifest hfaults hdests rfl (State.moveJob_onlyNotices _ _ _)
    · simp only [w, State.job_moveJob, if_true, State.standAt, State.job_modJob_self, State.job_congr hjobs]
      rfl
    · simp only [w, State.job_moveJob, if_neg hl, State.standAt]
      exact (State.job_modJob_of_ne _ (Ne.symm hl) _).trans (State.job_congr hjobs l)

theorem clipRetryReadsAgain : ClipRetryReadsAgain := by
  intro tag c k x s e he hc hx hst hlen y hdr hport hk hbefore hrest hpause hfit hidle hroute
  let s0 := s.quiet.owing e tag 0x2A
  have hrule : ruleClipRetry c s0 = .take [] (retryClip c x s0) := ruleClipRetry_taken hc hx hst
  rw [retryClip_eq] at hrule
  obtain ⟨hjobs, hring, hplan, hmanifest, hfaults, hdests, hports, hlink⟩ := s0.relist_blocks c x
  have hfirst : FirstListed (s0.relist c x) x.job k c := State.relist_firstListed (s := s0) hk hbefore
  let w := ((s0.relist c x).standAt x.job k).moveJob x.job fun x => { x with state := .running }
  have hjobw (i : JobNo) : w.job i = if i = x.job then
      { s.job x.job with
        state := .running, readPos := ⟨k, 0⟩, live := ⟨1, 0⟩, summed := 0, checkpoint := ⟨⟨k, 0⟩, ⟨1, 0⟩⟩ }
      else s.job i := by
    simp only [w, State.job_moveJob, State.standAt, State.job_modJob, if_true, State.job_congr hjobs]
    split_ifs with h
    · rfl
    · rfl
  have hagain : readAgain x.job (s0.relist c x) = w.andNow [.proceed x.job] := by
    simp only [readAgain, State.job_congr hjobs, State.standAtFirst, State.firstListed_eq hfirst]
    exact if_pos hport
  have hrule' : ruleClipRetry c s0 = .take [] (w.andNow [.proceed x.job]) := by
    rw [← hagain]
    rcases hdr with h | h <;> rw [show (s0.job x.job).state = _ from h] at hrule <;> exact hrule
  have hclipw (b : Nat) : w.clip? b = if b = c then some x.relisted else s.clip? b := s0.relist_clip c x b
  obtain ⟨v, hstarts, heff⟩ := effects_start (s := w) (j := x.job) (c := c) (x := x.relisted) (by rw [hjobw, if_pos rfl])
    (by
      have hw : w.ring = s.ring := hring
      simp only [AtRest, hw]
      exact hrest)
    (by rw [hjobw, if_pos rfl]; exact hpause) (by rw [State.clipAtRead, hjobw, if_pos rfl]; exact hk)
    ((hclipw c).trans (if_pos rfl)) rfl rfl hlen (by rw [hjobw, if_pos rfl]; exact hfit)
    (fun d => by rw [show w.dest d = s.dest d from State.dest_congr hdests d]; exact hidle d)
    (by rw [show w.faults = s.faults from hfaults]; exact hroute)
  obtain ⟨t, ht, hends, htplan, htlink⟩ := State.take_effects (s := s.quiet) (owner := fun _ s => ruleClipRetry c s) he
    hrule' (hlink.trans (State.moveJob_onlyNotices _ _ _)) (n := 10) (by omega) (heff false)
  have hjob (i : JobNo) := (hends.job i).trans (hstarts.job i)
  have hj := (hjob x.job).trans (if_pos rfl)
  rw [hjobw, if_pos rfl] at hj
  refine ⟨t, (exec_clipRetry_eq tag c s).trans ht, by rw [hj], by rw [hj], (hends.clipState c).trans hstarts.own,
    fun l hl => ?_, fun b hb => ?_, htplan.trans hplan, (hends.manifest.trans hstarts.manifest).trans hmanifest, htlink⟩
  · rw [hjob, if_neg hl, hjobw, if_neg hl]
  · rw [hends.clip, hstarts.others b hb, hclipw, if_neg hb]

/-- Settles O54: the clip is LISTED again, and its job reads it when it has its card. -/
theorem clipRetryRules : Obligations.ClipRetryRules := ⟨clipRetryLists, clipRetryReadsAgain⟩

end Sys2Proof.Machine

/-! A card's way into a port, and responses that only clear a request (R23–R28, R78; O31, O34). -/

namespace Sys2Proof.Machine

theorem exec_readerSlotSeated (p : PortNo) (s : State) : exec (.readerSlotSeated p) s = execReaderSlotSeated p s := rfl
theorem exec_identityTimerExpiry (p : PortNo) (s : State) :
    exec (.identityTimerExpiry p) s = execIdentityTimerExpiry p s := rfl
theorem exec_cardIn (p : PortNo) (media capacity : Nat) (s : State) :
    exec (.cardIn p media capacity) s = execCardIn p media capacity s := rfl
theorem exec_readerData (p : PortNo) (bytes : List Byte) (s : State) :
    exec (.readerData p bytes) s = execReaderData p bytes s := rfl
theorem exec_readerError (p : PortNo) (s : State) : exec (.readerError p) s = execReaderError p s := rfl
theorem exec_readerTimerExpiry (p : PortNo) (s : State) :
    exec (.readerTimerExpiry p) s = execReaderTimerExpiry p s := rfl

/-! ### Ends of events -/

theorem Frame.Alike.sameBooks {s u t : State} {answers : Bool} (h : Frame.Alike ⟨s, answers⟩ u t) : u.SameBooks t :=
  ⟨h.jobs.symm, h.clips.symm, h.ring.symm, h.plan.2.trans h.plan.1.symm, h.manifest.symm, h.faults.symm,
    h.pending.2.trans h.pending.1.symm⟩

/-! ### Insertion and identity timer -/

/-- A port moved alone: its record with the lamp formed, and one CARD_CHANGE. -/
theorem State.movePort_onlyPort (s : State) (p : PortNo) (f : CardPort → CardPort) :
    OnlyPort s (s.quiet.movePort p f) p (f (s.port p)) := by
  refine ⟨?_, fun q hq => ?_, ⟨rfl, rfl, rfl, rfl, rfl, rfl, rfl⟩, rfl, rfl, rfl⟩
  · rw [State.port_movePort_formed, if_pos rfl]; rfl
  · rw [State.port_movePort_formed, if_neg hq]; rfl

theorem insertionAndIdentityTimer : InsertionAndIdentityTimer := by
  intro s p
  refine ⟨fun hen hst => ⟨_, ?_, s.movePort_onlyPort p fun x => { x with state := .mounting, identity := none, identityTimer := true }⟩,
    fun h => ?_,
    fun hen hst ht => ⟨_, ?_, s.movePort_onlyPort p fun x => { x with state := .unreadable, identityTimer := false }⟩,
    fun h => ?_⟩
  · rw [exec_readerSlotSeated, execReaderSlotSeated, if_pos ⟨hen, hst⟩]
  · rw [exec_readerSlotSeated, execReaderSlotSeated, if_neg]
    rintro ⟨hen, hst⟩
    rcases h with h | h
    · exact absurd (hen.symm.trans h) (by simp)
    · exact h hst
  · rw [exec_identityTimerExpiry, execIdentityTimerExpiry, if_pos ⟨hen, hst, ht⟩]
  · rw [exec_identityTimerExpiry, execIdentityTimerExpiry, if_neg]
    rintro ⟨hen, hst, ht⟩
    rcases h with h | h | h
    · exact absurd (hen.symm.trans h) (by simp)
    · exact h hst
    · exact absurd (ht.symm.trans h) (by simp)

/-! ### Identification -/

theorem State.jobHolding_eq_of_unique {s : State} {card : Identity} {j : JobNo} (h : Holds s j card)
    (hu : ∀ i, Holds s i card → i = j) : s.jobHolding card = some j := by
  cases hj : s.jobHolding card with
  | none =>
    have := List.find?_eq_none.1 hj j (List.mem_finRange j)
    exact absurd h (by simpa [Holds] using this)
  | some i => rw [hu i (State.jobHolding_spec hj)]

/-- A card that no job waits for leaves its port PRESENT. -/
def CardPort.identified (card : Identity) (x : CardPort) : CardPort :=
  { x with state := .present, identity := some card, identityTimer := false, boundJob := none }

theorem identifyCard_present {s : State} {p : PortNo} {card : Identity}
    (h : ∀ j, Holds s j card → (s.job j).boundPort.isSome) :
    identifyCard p card s = (s.movePort p (CardPort.identified card)).still := by
  unfold identifyCard
  cases hj : s.jobHolding card with
  | none => rfl
  | some j => simp only [if_pos (h j (State.jobHolding_spec hj))]; rfl

theorem runArrive_present {s : State} {p : PortNo} {card : Identity}
    (h : ∀ j, Holds s j card → (s.job j).boundPort.isSome) :
    runArrive p card s = ((s.movePort p fun x => { x with state := .mounting, identity := none }).movePort p
      (CardPort.identified card)).still :=
  identifyCard_present h

theorem cardInUnbound : CardInUnbound := by
  intro s p media capacity
  refine ⟨fun h => ?_, fun hen hst hid => ?_, fun hen hst hheld => ?_⟩
  · rw [exec_cardIn, execCardIn]
    by_cases hen : (s.port p).enabled = false
    · rw [hen]; rfl
    · rw [Bool.not_eq_false _ |>.mp hen, h.resolve_left hen]; rfl
  · rw [exec_cardIn, execCardIn, hen]
    rcases hst with hst | hst <;> rw [hst] <;> exact if_pos hid
  · obtain ⟨w, u, hrun, heff, hu⟩ : ∃ w u, exec (.cardIn p media capacity) s = event w
        ∧ effects false 1 (w.now ++ w.later) w.state = some u
        ∧ (u.port p = { CardPort.identified ⟨media, capacity⟩ (s.port p) with lamp := (u.port p).lamp })
          ∧ (∀ q, q ≠ p → u.port q = s.port q) ∧ u.dests = s.dests ∧ s.SameBooks u
          ∧ s.link.OnlyNotices w.state.link := by
      rw [exec_cardIn, execCardIn, hen]
      rcases hst with hst | hst <;> rw [hst]
      · refine ⟨_, _, rfl, (effects_still (a := .arrive p ⟨media, capacity⟩) (runArrive_present (s := s.quiet) hheld) rfl).trans
          (effects_nil _ _), ?_, fun q hq => ?_, rfl, ⟨rfl, rfl, rfl, rfl, rfl, rfl, rfl⟩, .refl s.link⟩
        · simp only [State.port_movePort_formed, if_true]; rfl
        · simp only [State.port_movePort_formed, if_neg hq]; rfl
      · refine ⟨_, s.quiet.movePort p (CardPort.identified ⟨media, capacity⟩), rfl, ?_⟩
        rw [identifyCard_present (s := s.quiet) hheld]
        refine ⟨effects_nil _ _, ?_, fun q hq => ?_, rfl, ⟨rfl, rfl, rfl, rfl, rfl, rfl, rfl⟩,
          State.movePort_onlyNotices s.quiet p _⟩
        · simp only [State.port_movePort_formed, if_true]; rfl
        · simp only [State.port_movePort_formed, if_neg hq]; rfl
    obtain ⟨hp, hq, hdests, hbooks, hlink⟩ := hu
    obtain ⟨t, ht, halike, hlamps⟩ := event_of_effects (by decide) heff
    have hends := halike.ends
    obtain ⟨h1, h2, h3, h4, h5, h6, h7⟩ := hends.card p
    rw [hp] at h2 h3 h4 h5 h6 h7
    refine ⟨t, hrun.trans ht, h2, h3, h4, h6, h7, h5, fun q hqp => hq q hqp ▸ hends.card q,
      fun d => State.dest_congr hdests d ▸ hends.drive d, hbooks.trans halike.sameBooks,
      hlink.trans halike.onlyNotices, hlamps⟩

/-- Settles O31: insertion and the identity timer change one port; CARD_IN without a waiting job identifies it. -/
theorem cardsArriveUnbound : Obligations.CardsArriveUnbound := ⟨insertionAndIdentityTimer, cardInUnbound⟩

/-! ### Responses without effect -/

/-- A reader's response when its request stands, unabandoned. -/
theorem onReader_of_outstanding {s : State} {p : PortNo} {r : ReaderRequest}
    {f : ReaderRequest → Host.Outcome State Fault Refusal} (hen : (s.port p).enabled = true)
    (hr : (s.port p).outstanding = some r) (ha : (s.port p).abandoned = false) : onReader p s f = f r := by
  simp only [onReader, hen, hr, ha, Bool.not_true, Bool.false_eq_true, if_false]

theorem onReader_of_none {s : State} {p : PortNo} {f : ReaderRequest → Host.Outcome State Fault Refusal}
    (h : (s.port p).enabled = false ∨ (s.port p).outstanding = none) : onReader p s f = .next s := by
  unfold onReader
  split
  · rfl
  · rename_i hen
    rw [h.resolve_left (by simpa using hen)]

theorem onReader_of_abandoned {s : State} {p : PortNo} {f : ReaderRequest → Host.Outcome State Fault Refusal}
    (hen : (s.port p).enabled = true) (hr : (s.port p).outstanding.isSome) (ha : (s.port p).abandoned = true) :
    onReader p s f = .next (s.clearReader p).closeEvent := by
  obtain ⟨r, hr⟩ := Option.isSome_iff_exists.1 hr
  simp only [onReader, hen, hr, ha, Bool.not_true, Bool.false_eq_true, if_false, if_true]
  exact event_still_eq _

theorem failedAttemptIsReissued : FailedAttemptIsReissued := by
  intro s p r hen hr ha hlt
  refine ⟨?_, fun bytes hne => ?_, fun htimer => ?_⟩
  · rw [exec_readerError, execReaderError, onReader_of_outstanding (s := s.quiet) hen hr ha, attemptFailed,
      if_pos (show r.attempt < attemptLimit from hlt)]
    rfl
  · rw [exec_readerData, execReaderData, onReader_of_outstanding (s := s.quiet) hen hr ha,
      if_neg (show ¬bytes.length = r.item.count * sectorBytes from hne), attemptFailed,
      if_pos (show r.attempt < attemptLimit from hlt)]
    rfl
  · rw [exec_readerTimerExpiry, execReaderTimerExpiry, if_pos ⟨hen, htimer⟩]
    exact (onReader_of_outstanding (s := s.quiet.restartReader p) hen hr ha).trans
      (if_pos (show r.attempt < attemptLimit from hlt))

theorem onResponse_of_none {s : State} {d : DestNo} {f : DriveRequest → State → Work}
    (h : (s.dest d).outstanding = none) : onResponse d s f = .next s := by
  simp only [onResponse, h]

theorem onResponse_of_abandoned {s : State} {d : DestNo} {f : DriveRequest → State → Work}
    (h : (s.dest d).outstanding.isSome) (ha : (s.dest d).abandoned = true) :
    onResponse d s f = .next (s.clearDrive d).closeEvent := by
  obtain ⟨r, hr⟩ := Option.isSome_iff_exists.1 h
  simp only [onResponse, hr, ha, if_true]
  exact event_still_eq _

theorem lateResponsesOnlyClear : LateResponsesOnlyClear := by
  intro s d i hi
  obtain ⟨f, hf⟩ : ∃ f, exec i s = onResponse d s.quiet f := by
    rcases hi with ⟨bytes, rfl⟩ | rfl | rfl <;> exact ⟨_, rfl⟩
  refine ⟨fun h => hf.trans (onResponse_of_none (s := s.quiet) h), fun h ha => hf.trans ?_⟩
  rw [onResponse_of_abandoned (s := s.quiet) h ha, State.clearDrive_eq]
  rfl

theorem lateReaderResponses : LateReaderResponses := by
  intro s p i hi
  obtain ⟨f, hf⟩ : ∃ f, exec i s = onReader p s.quiet f := by
    rcases hi with ⟨bytes, rfl⟩ | rfl <;> exact ⟨_, rfl⟩
  refine ⟨fun h => hf.trans (onReader_of_none (s := s.quiet) h), fun hen h ha => ⟨hf.trans ?_, fun htimer => ?_⟩,
    fun htimer => ?_⟩
  · rw [onReader_of_abandoned (s := s.quiet) hen h ha]; rfl
  · rw [exec_readerTimerExpiry, execReaderTimerExpiry, if_pos ⟨hen, htimer⟩]
    exact onReader_of_abandoned (s := s.quiet.restartReader p) hen h ha
  · rw [exec_readerTimerExpiry, execReaderTimerExpiry, if_neg]
    rintro ⟨-, h⟩
    exact absurd (h.symm.trans htimer) (by simp)

/-- Settles O34: an attempt before the fourth is issued again; a response to no request, or to an abandoned one, has
no further effect. -/
theorem responsesWithoutEffect : Obligations.ResponsesWithoutEffect :=
  ⟨failedAttemptIsReissued, lateResponsesOnlyClear, lateReaderResponses⟩

end Sys2Proof.Machine

/-! A card comes back to the job that waits for it (R27, R28, R117, R124; O32, O41). -/

namespace Sys2Proof.Machine

/-! ### Binding -/

/-- From `s` to `t` port `p` was BOUND to job `j` with the card it identified. -/
structure State.Binds (s : State) (p : PortNo) (j : JobNo) (card : Identity) (t : State) : Prop where
  port : t.port p = { s.port p with
    state := .bound, identity := some card, identityTimer := false, boundJob := some j
    released := if (s.job j).state = .released then some card else (s.port p).released, lamp := (t.port p).lamp }
  others : ∀ q, q ≠ p → t.port q = s.port q
  job : ∀ i, t.job i = if i = j then { s.job j with boundPort := some p } else s.job i
  dests : t.dests = s.dests
  clips : t.clips = s.clips
  ring : t.ring = s.ring
  plan : t.plan = s.plan
  manifest : t.manifest = s.manifest
  faults : t.faults = s.faults
  link : s.link.OnlyNotices t.link

theorem State.Binds.clip {s t : State} {p : PortNo} {j : JobNo} {card : Identity} (h : s.Binds p j card t) (c : Nat) :
    t.clip? c = s.clip? c := State.clip_congr h.clips c

/-- The tasks behind a binding. -/
def State.bindTasks (s : State) (j : JobNo) : List Task := (s.clipsOfJob j).map .rejoin ++ [.boundTo j]

theorem identifyCard_binds {s : State} {p : PortNo} {j : JobNo} {card : Identity} (h : Holds s j card)
    (hu : ∀ i, Holds s i card → i = j) (hb : (s.job j).boundPort = none) :
    ∃ t, identifyCard p card s = t.andNow (s.bindTasks j) ∧ s.Binds p j card t := by
  let s1 := s.modJob j fun x => { x with boundPort := some p }
  let f : CardPort → CardPort := fun x =>
    { x with
      state := .bound, identity := some card, identityTimer := false, boundJob := some j
      released := if (s.job j).state = .released then some card else x.released }
  refine ⟨s1.movePort p f, ?_, ?_⟩
  · unfold identifyCard State.bindTasks
    rw [State.jobHolding_eq_of_unique h hu]
    simp only [hb, Option.isSome_none, Bool.false_eq_true, if_false]
    rfl
  · have hport (q : PortNo) := State.port_movePort_formed s1 p f q
    refine ⟨?_, fun q hq => (hport q).trans (if_neg hq), fun i => ?_, rfl, rfl, rfl, rfl, rfl, rfl,
      State.movePort_onlyNotices s1 p f⟩
    · rw [hport, if_pos rfl]; rfl
    · rw [State.job_movePort, State.job_modJob]

theorem runArrive_binds {s : State} {p : PortNo} {j : JobNo} {card : Identity} (h : Holds s j card)
    (hu : ∀ i, Holds s i card → i = j) (hb : (s.job j).boundPort = none) :
    ∃ t, runArrive p card s = t.andNow (s.bindTasks j) ∧ s.Binds p j card t := by
  let f : CardPort → CardPort := fun x => { x with state := .mounting, identity := none }
  obtain ⟨t, ht, hbinds⟩ := identifyCard_binds (s := s.movePort p f) (p := p) h hu hb
  have hport (q : PortNo) := State.port_movePort_formed s p f q
  refine ⟨t, ht, ?_, fun q hq => (hbinds.others q hq).trans ((hport q).trans (if_neg hq)), hbinds.job, hbinds.dests,
    hbinds.clips, hbinds.ring, hbinds.plan, hbinds.manifest, hbinds.faults,
    (State.movePort_onlyNotices s p f).trans hbinds.link⟩
  have hp := hbinds.port
  rwa [hport, if_pos rfl] at hp

/-- CARD_IN of the card of a job that waits for it, at a port free to take it: the port is BOUND, and what follows runs. -/
theorem cardIn_binds {s : State} {p : PortNo} {media capacity : Nat} {j : JobNo} (h : ReturnsTo s p j ⟨media, capacity⟩) :
    ∃ w s1, exec (.cardIn p media capacity) s = event w ∧ s.Binds p j ⟨media, capacity⟩ s1
      ∧ s.link.OnlyNotices w.state.link ∧ w.state.plan = s.plan
      ∧ ∀ {n u}, effects false n (s.bindTasks j) s1 = some u → effects false (n + 1) (w.now ++ w.later) w.state = some u := by
  obtain ⟨hen, hst, hholds, hu, hb, -⟩ := h
  rw [exec_cardIn, execCardIn, hen]
  rcases hst with hst | hst <;> rw [hst]
  · obtain ⟨t, ht, hbinds⟩ := runArrive_binds (s := s.quiet) (p := p) hholds hu hb
    refine ⟨_, t, rfl, { hbinds with }, .refl s.link, rfl, fun {n u} heff => ?_⟩
    refine (effects_andNow (a := .arrive p ⟨media, capacity⟩) ht rfl).trans ?_
    simpa [State.andNow] using (show effects false n (s.quiet.bindTasks j) t = some u from heff)
  · obtain ⟨t, ht, hbinds⟩ := identifyCard_binds (s := s.quiet) (p := p) hholds hu hb
    refine ⟨t.andNow (s.bindTasks j), t, congrArg event ht, { hbinds with }, hbinds.link, hbinds.plan, fun {n u} heff => ?_⟩
    refine effects_mono (Nat.le_succ n) ?_
    simpa [State.andNow] using heff

/-! ### Copies that rejoin their lanes -/

/-- The suspended copies of these clips in their lanes again. -/
def State.rejoined (s : State) (cs : List Nat) : State := cs.foldl (fun s c => allDests.foldl (rejoinAt c) s) s

theorem effects_rejoins {answers : Bool} {n : Nat} {cs : List Nat} {ts : List Task} {s u : State}
    (h : effects answers n (ts ++ (cs.flatMap fun _ => allDests).map .laneGo) (s.rejoined cs) = some u) :
    effects answers (cs.length + n) (cs.map .rejoin ++ ts) s = some u := by
  induction cs generalizing s ts with
  | nil => simpa [State.rejoined] using h
  | cons c cs ih =>
    have hrun : (Task.rejoin c).run s = ⟨allDests.foldl (rejoinAt c) s, [], allDests.map .laneGo⟩ := rfl
    rw [List.map_cons, List.cons_append, List.length_cons, Nat.add_right_comm, effects_cons hrun rfl]
    have hlater : effects answers n ((ts ++ allDests.map .laneGo) ++ (cs.flatMap fun _ => allDests).map .laneGo)
        ((allDests.foldl (rejoinAt c) s).rejoined cs) = some u := by
      rw [List.append_assoc, ← List.map_append, ← List.flatMap_cons (f := fun _ => allDests)]
      exact h
    simpa [List.append_assoc] using ih hlater

theorem rejoinAt_of_none {s : State} {c : Nat} {d : DestNo}
    (h : ∀ k, s.copy? c d = some k → k.suspended = false ∨ k.state.live = false) : rejoinAt c s d = s := by
  unfold rejoinAt
  split
  · rfl
  · rename_i k hk
    rw [if_neg]
    rcases h k hk with g | g <;> simp [g]

theorem State.rejoined_of_none {s : State} {cs : List Nat}
    (h : ∀ c ∈ cs, ∀ (d : DestNo) (k : Copy), s.copy? c d = some k → k.suspended = false) : s.rejoined cs = s := by
  have one {c : Nat} (hc : c ∈ cs) : allDests.foldl (rejoinAt c) s = s :=
    List.foldl_fixed' (fun d => rejoinAt_of_none fun k hk => .inl (h c hc d k hk)) allDests
  unfold State.rejoined
  induction cs with
  | nil => rfl
  | cons c cs ih =>
    rw [List.foldl_cons, one (by simp)]
    exact ih (fun b hb => h b (by simp [hb])) fun hb => one (by simp [hb])

theorem State.mem_clipsOfJob {s : State} {j : JobNo} {c : Nat} :
    c ∈ s.clipsOfJob j ↔ (s.clip? c).isSome ∧ c ∈ (s.job j).clips := by
  have hkeys : c ∈ s.clips.map Prod.fst ↔ (s.clip? c).isSome := by
    rw [← not_iff_not, Option.not_isSome_iff_eq_none, State.clip?, Table.find_eq_none_iff]
    rfl
  simp only [State.clipsOfJob, List.mem_filter, hkeys, List.contains_iff_mem]

theorem State.length_clipsOfJob (s : State) (j : JobNo) : (s.clipsOfJob j).length ≤ s.clips.length := by
  simpa [State.clipsOfJob] using List.length_filter_le (fun c => (s.job j).clips.contains c) (s.clips.map Prod.fst)

/-- CARD_IN of the card of a job that waits for it, with no lane at work and no copy suspended: what follows is the
job's own effect alone. -/
theorem cardIn_effects {s : State} {p : PortNo} {media capacity : Nat} {j : JobNo} {P : State → Prop}
    (h : ReturnsTo s p j ⟨media, capacity⟩) (hnone : NoneSuspended s j)
    (hgo : ∀ s1, s.Binds p j ⟨media, capacity⟩ s1 → ∃ v, P v ∧ v.LanesIdle ∧ ∀ {n ts u}, effects false n ts v = some u →
      effects false (n + 9) (.boundTo j :: ts) s1 = some u) :
    ∃ v t, exec (.cardIn p media capacity) s = .next t ∧ P v ∧ v.Ends t ∧ t.plan = s.plan ∧ s.link.OnlyNotices t.link
      ∧ t.LampsFormed := by
  obtain ⟨w, s1, hexec, hbinds, hlink, hplan, heff⟩ := cardIn_binds h
  obtain ⟨v, hv, hidle, hrun⟩ := hgo s1 hbinds
  let lanes := (s.clipsOfJob j).flatMap fun _ => allDests
  have hlanes : effects false lanes.length (lanes.map .laneGo) v = some v :=
    effects_lanes_still lanes fun d _ => runLaneGo_idle (hidle d).1 (hidle d).2
  have hrejoined : s1.rejoined (s.clipsOfJob j) = s1 := State.rejoined_of_none fun c hc d k hk =>
    hnone c (State.mem_clipsOfJob.1 hc).2 d k (by rwa [State.copy?, hbinds.clip] at hk)
  have hall := heff (effects_rejoins (ts := [.boundTo j]) (by rw [hrejoined]; exact hrun hlanes))
  have hle : (s.clipsOfJob j).length ≤ 4096 := (s.length_clipsOfJob j).trans h.2.2.2.2.2
  have hlen : lanes.length = 4 * (s.clipsOfJob j).length := by
    simp [lanes, List.length_flatMap, allDests, Nat.mul_comm]
  obtain ⟨t, ht, halike, hlamps⟩ := event_of_effects (by omega) hall
  exact ⟨v, t, hexec.trans ht, hv, halike.ends, halike.plan.2.trans hplan, hlink.trans halike.onlyNotices, hlamps⟩

/-- Settles O32: the binding, and of a job at rest the state its card brings back. -/
theorem cardInBinds : Obligations.CardInBinds := by
  intro s p media capacity j x y card hen hst hholds hu hb hlen hidle hnone hcase
  obtain ⟨v, t, hexec, ⟨s1, hbinds, hjob, hports, hdests, hclips, hring, hman, hfaults⟩, hends, hplan, hlink, hlamps⟩ :=
    cardIn_effects (P := fun v => ∃ s1, s.Binds p j ⟨media, capacity⟩ s1 ∧ (∀ i, v.job i = if i = j then
        (if y.state = .pulled then { y with boundPort := some p, state := .paused, resumeTarget := none }
          else { y with boundPort := some p }) else s.job i) ∧ v.ports = s1.ports ∧ v.dests = s.dests
        ∧ v.clips = s.clips ∧ v.ring = s.ring ∧ v.manifest = s.manifest ∧ v.faults = s.faults)
      ⟨hen, hst, hholds, hu, hb, hlen⟩ hnone fun s1 hbinds => by
    have hj : s1.job j = { y with boundPort := some p } := (hbinds.job j).trans (if_pos rfl)
    have hidle1 {v : State} (hd : v.dests = s.dests) : v.LanesIdle := fun d => by rw [State.dest_congr hd]; exact hidle d
    by_cases hpulled : y.state = .pulled
    · have hrun : runBoundTo j s1 = (s1.moveJob j fun x => { x with state := .paused, resumeTarget := none }).still := by
        have htarget : y.resumeTarget = some .paused := by simpa [hpulled] using hcase
        simp only [runBoundTo, hj, hpulled, htarget, if_true]
      let v := s1.moveJob j fun x => { x with state := .paused, resumeTarget := none }
      refine ⟨v, ⟨s1, hbinds, fun i => ?_, rfl, hbinds.dests, hbinds.clips, hbinds.ring, hbinds.manifest, hbinds.faults⟩,
        hidle1 hbinds.dests, fun {n ts u} h => effects_mono (n := n + 1) (by omega) ((effects_still (a := .boundTo j) hrun rfl).trans h)⟩
      rw [State.job_moveJob, hj, hbinds.job, if_pos hpulled]
      split_ifs <;> rfl
    · have hrun : runBoundTo j s1 = s1.still := by
        simp only [runBoundTo, hj]
        rcases hcase with h | h | h | h <;> simp only [h]
        exact absurd h.1 hpulled
      refine ⟨s1, ⟨s1, hbinds, fun i => ?_, rfl, hbinds.dests, hbinds.clips, hbinds.ring, hbinds.manifest, hbinds.faults⟩,
        hidle1 hbinds.dests, fun {n ts u} h => effects_mono (n := n + 1) (by omega) ((effects_still (a := .boundTo j) hrun rfl).trans h)⟩
      rw [hbinds.job, if_neg hpulled]
  have hport (q : PortNo) : v.port q = s1.port q := State.port_congr hports q
  obtain ⟨-, h2, h3, h4, h5, h6, h7⟩ := hport p ▸ hends.card p
  rw [hbinds.port] at h2 h3 h4 h5 h6 h7
  refine ⟨t, hexec, h2, h3, h4, h6, h7, ?_, fun i hi => ?_, fun q hq => ?_, fun d => ?_, hends.clips.trans hclips,
    hends.ring.trans hring, hplan, hends.manifest.trans hman, hends.faults.trans hfaults, hlink, hlamps⟩
  · rw [hends.job, hjob, if_pos rfl]
  · rw [hends.job, hjob, if_neg hi]
  · rw [← hbinds.others q hq, ← hport q]; exact hends.card q
  · rw [← State.dest_congr hdests d]; exact hends.drive d

/-! ### The card of a PULLED job -/

/-- A RUNNING job at a READING clip that stands at a unit boundary asks for its unit (R36). -/
theorem runProceed_asks {s : State} {j : JobNo} {c : Nat} (hrun : (s.job j).state = .running) (hb : s.atBoundary j = true)
    (hw : Requester.job j ∉ s.ring.waitList) (hp : (s.job j).pausePending = false) (hc : s.clipAtRead j = some c)
    (hread : s.clipState? c = some .reading) : runProceed j s = (s.askForJob j).still := by
  have hcon : s.ring.waitList.contains (.job j) = false := by simpa using hw
  simp only [runProceed, hrun, hb, hcon, hp, hc, hread, Option.bind_some, decide_true, Bool.not_false, Bool.and_self,
    Bool.false_eq_true, if_false, if_true]

theorem State.joinWait_of_not_mem {s : State} {r : Requester} (h : r ∉ s.ring.waitList) :
    s.joinWait r = { s with ring := { s.ring with waitList := s.ring.waitList ++ [r] } } := by
  rw [State.joinWait, if_neg (by simpa using h)]

theorem boundAgain_of_ends {s s1 v t : State} {p : PortNo} {j : JobNo} {card : Identity} (hb : s.Binds p j card s1)
    (hstate : (v.port p).state = (s1.port p).state) (hid : (v.port p).identity = (s1.port p).identity)
    (hjob : (v.port p).boundJob = (s1.port p).boundJob) (hothers : ∀ q, q ≠ p → v.port q = s1.port q)
    (hj : (v.job j).boundPort = some p) (hi : ∀ i, i ≠ j → v.job i = s1.job i) (hman : v.manifest = s.manifest)
    (hfaults : v.faults = s.faults) (h : v.Ends t) (hplan : t.plan = s.plan) : BoundAgain s t p j card := by
  obtain ⟨-, h2, h3, h4, -⟩ := h.card p
  refine ⟨h2.trans (hstate.trans (by rw [hb.port])), h3.trans (hid.trans (by rw [hb.port])),
    h4.trans (hjob.trans (by rw [hb.port])), by rw [h.job, hj], fun i hne => ?_, hplan, h.manifest.trans hman,
    h.faults.trans hfaults, fun q hq => ?_⟩
  · rw [h.job, hi i hne, hb.job, if_neg hne]
  · rw [← hb.others q hq, ← hothers q hq]; exact h.card q

theorem cardInResumesReading : CardInResumesReading := by
  intro s p media capacity j c x y u z hret hpulled htarget hpause hrest hidle hnone hc hx hread
  let running (s1 : State) : State := s1.moveJob j fun x => { x with state := .running, resumeTarget := none, pauseCause := none }
  obtain ⟨v, t, hexec, ⟨s1, hbinds, rfl⟩, hends, hplan, hlink, hlamps⟩ :=
    cardIn_effects (P := fun v => ∃ s1, s.Binds p j ⟨media, capacity⟩ s1 ∧ v = (running s1).askForJob j) hret hnone
      fun s1 hbinds => by
    have hj : s1.job j = { y with boundPort := some p } := (hbinds.job j).trans (if_pos rfl)
    have hj2 : (running s1).job j = z := (State.job_moveJob _ _ _ _).trans ((if_pos rfl).trans (by rw [hj]))
    have hany : s1.anyToRead j = true := State.anyToRead_iff.2
      ⟨c, by rw [hj]; exact List.mem_of_getElem? hc, .inr (by rw [State.clipState?, hbinds.clip, hx, ← hread]; rfl)⟩
    have hbound : runBoundTo j s1 = (running s1).andNow [.proceed j] := by
      simp only [runBoundTo, hj, hpulled, htarget, hany, reduceCtorEq, Option.some.injEq, if_false, if_true]
      rfl
    have hgo : runProceed j (running s1) = ((running s1).askForJob j).still := by
      refine runProceed_asks (c := c) (by rw [hj2]) ?_ ?_ (by rw [hj2]; exact hpause) ?_ ?_
      · rw [State.atBoundary_iff]
        rw [show (running s1).ring = s.ring from hbinds.ring]
        rintro ⟨n, y, hy, hfill⟩
        exact hrest.1 n y hy hfill
      · rw [show (running s1).ring = s.ring from hbinds.ring]; exact hrest.2
      · rw [State.clipAtRead, hj2]; exact hc
      · change s1.clipState? c = _
        rw [State.clipState?, hbinds.clip, hx, ← hread]; rfl
    refine ⟨_, ⟨s1, hbinds, rfl⟩, fun d => ?_, fun {n ts w} h => effects_mono (n := n + 1 + 1) (by omega) ?_⟩
    · rw [State.dest_congr (((running s1).askForJob_asks j).dests.trans hbinds.dests)]; exact hidle d
    · rw [effects_andNow (a := .boundTo j) hbound rfl]
      exact (effects_still (a := .proceed j) hgo rfl).trans h
  have hj2 : (running s1).job j = z := by
    rw [State.job_moveJob, if_pos rfl, hbinds.job, if_pos rfl]
  have hring : (running s1).ring = s.ring := hbinds.ring
  have hboundary : (running s1).atBoundary j = true := by
    rw [State.atBoundary_iff, hring]
    rintro ⟨n, y, hy, hfill⟩
    exact hrest.1 n y hy hfill
  have hmay : (running s1).mayRead j = true := by
    rw [State.mayRead, hj2, hboundary]; rfl
  have hasks := (running s1).askForJob_asks j
  have hothers (i : JobNo) (hi : i ≠ j) : ((running s1).askForJob j).job i = s1.job i := by
    rw [hasks.job, if_neg hi, State.job_moveJob, if_neg hi]
  have hfifo : (s1.port p).fifo = (s.port p).fifo := by rw [hbinds.port]
  /- What the asking leaves at the port is the port with `f` in its FIFO. -/
  have leaves (f : List ReaderItem) (hf : ∀ q, ((running s1).askForJob j).port q
      = if q = p then { s1.port p with fifo := f } else s1.port q) :
      BoundAgain s t p j ⟨media, capacity⟩ ∧ t.clips = s.clips ∧ (∀ d, (s.dest d).SameDrive (t.dest d))
        ∧ (t.port p).fifo = f := by
    refine ⟨boundAgain_of_ends hbinds (by rw [hf, if_pos rfl]) (by rw [hf, if_pos rfl]) (by rw [hf, if_pos rfl])
      (fun q hq => by rw [hf, if_neg hq]) ?_ hothers (hasks.manifest.trans hbinds.manifest)
      (hasks.faults.trans hbinds.faults) hends hplan, hends.clips.trans (hasks.clips.trans hbinds.clips), fun d => ?_, ?_⟩
    · rw [hasks.job, if_pos rfl, hj2]
    · rw [← State.dest_congr (hasks.dests.trans hbinds.dests)]; exact hends.drive d
    · obtain ⟨-, -, -, -, h5, -⟩ := hends.card p
      rw [h5, hf, if_pos rfl]
  by_cases hq : y.quota ≤ y.held
  · have hask : (running s1).askForJob j = running s1 := State.askForJob_quota (by rw [hj2]; exact hq)
    obtain ⟨h1, h2, h3, h4⟩ := leaves (s.port p).fifo fun q => by
      rw [hask, ← hfifo]; split_ifs with h
      · rw [h]; rfl
      · rfl
    refine ⟨t, hexec, h1, h2, h3, fun _ _ _ hlt => absurd hlt (not_lt.2 hq), fun _ hlt => absurd hlt (not_lt.2 hq),
      fun _ => ⟨?_, ?_, h4⟩⟩
    · rw [hends.job, hask, hj2]
    · rw [hends.ring, hask, hring]
  · have hlt : ((running s1).job j).held < ((running s1).job j).quota := by rw [hj2]; exact not_le.1 hq
    cases hfree : s.ring.freeList with
    | nil =>
      have hask := (State.askForJob_waits hmay hlt (by rw [hring]; exact hfree)).trans
        (State.joinWait_of_not_mem (by rw [hring]; exact hrest.2))
      obtain ⟨h1, h2, h3, h4⟩ := leaves (s.port p).fifo fun q => by
        rw [hask, ← hfifo]; split_ifs with h
        · rw [h]; rfl
        · rfl
      refine ⟨t, hexec, h1, h2, h3, fun _ _ h => absurd h (by simp), fun _ _ => ⟨?_, ?_, h4⟩, fun h => absurd h hq⟩
      · rw [hends.job, hask]; exact hj2
      · rw [hends.ring, hask]; rw [hring]
    | cons n more =>
      have hx2 : (running s1).clip? c = some x := (hbinds.clip c).trans hx
      have hask := State.askForJob_given hmay hlt (by rw [hring]; exact hfree)
        (by rw [State.clipAtRead, hj2]; exact hc) hx2 (p := p) (by rw [hj2])
      rw [hj2] at hask
      obtain ⟨h1, h2, h3, h4⟩ := leaves
        ((s.port p).fifo ++ (unitPieces x u).map fun r => ⟨.job j c u, r.1, r.2⟩) fun q => by
          rw [hask, ← hfifo]
          by_cases h : q = p
          · subst h; rw [if_pos rfl, State.queuePieces, State.port_modPort_self]; rfl
          · rw [if_neg h, State.queuePieces, State.port_modPort_of_ne _ (Ne.symm h)]; rfl
      have hheld : t.ring = { s.ring with
          freeList := more, held := Table.insert n (freshSlot (.job j) c x u) s.ring.held } := by
        rw [hends.ring, hask, ← hring]; rfl
      refine ⟨t, hexec, h1, h2, h3, fun n' more' h _ => ?_, fun h => absurd h (by simp), fun h => absurd h hq⟩
      obtain ⟨rfl, rfl⟩ := List.cons.inj h
      refine ⟨?_, ?_, by rw [hheld], fun m hm => ?_, h4⟩
      · rw [hends.job, hask, State.job_queuePieces, State.job_given, if_pos rfl, hj2]
      · rw [State.slot?, hheld]; exact Table.find_insert_self _ _ _
      · rw [State.slot?, hheld]; exact Table.find_insert_of_ne hm _ _

theorem cardInEndsReading : CardInEndsReading := by
  intro s p media capacity j y hret hpulled htarget hidle hnone hover
  obtain ⟨v, t, hexec, ⟨s1, hbinds, hdrains⟩, hends, hplan, hlink, hlamps⟩ :=
    cardIn_effects (P := fun v => ∃ s1, s.Binds p j ⟨media, capacity⟩ s1 ∧ s1.Drains j v) hret hnone fun s1 hbinds => by
    have hj : s1.job j = { y with boundPort := some p } := (hbinds.job j).trans (if_pos rfl)
    have hany : s1.anyToRead j = false := by
      rw [Bool.eq_false_iff]
      intro h
      obtain ⟨b, hb, hl⟩ := State.anyToRead_iff.1 h
      rw [hj] at hb
      rw [State.clipState?, hbinds.clip] at hl
      exact hl.elim (hover b hb).1 (hover b hb).2
    have hbound : runBoundTo j s1 = s1.andNow [.toDraining j] := by
      simp only [runBoundTo, hj, hpulled, htarget, hany, reduceCtorEq, Option.some.injEq, if_false, Bool.false_eq_true]
    obtain ⟨v, hdrains, heff⟩ := effects_toDraining s1 j
    refine ⟨v, ⟨s1, hbinds, hdrains⟩, fun d => ?_, fun {n ts w} h => effects_mono (n := n + 3 + 1) (by omega) ?_⟩
    · rw [State.dest_congr (hdrains.dests.trans hbinds.dests)]; exact hidle d
    · rw [effects_andNow (a := .boundTo j) hbound rfl]
      exact heff h
  have hj : s1.job j = { y with boundPort := some p } := (hbinds.job j).trans (if_pos rfl)
  obtain ⟨st, hjob⟩ := hdrains.job
  obtain ⟨r, hr⟩ := hdrains.bound p
  refine ⟨t, hexec, boundAgain_of_ends hbinds (by rw [hr]) (by rw [hr]) (by rw [hr]) (fun q hq => ?_) ?_ (fun i hi => ?_)
    (hdrains.manifest.trans hbinds.manifest) (hdrains.faults.trans hbinds.faults) hends hplan,
    hends.clips.trans (hdrains.clips.trans hbinds.clips), hends.ring.trans (hdrains.ring.trans hbinds.ring), fun d => ?_, ?_⟩
  · exact hdrains.port q (by rw [hj]; simpa using Ne.symm hq)
  · rw [hjob, if_pos rfl, hj]; rfl
  · rw [hjob, if_neg hi]
  · rw [← State.dest_congr (hdrains.dests.trans hbinds.dests)]; exact hends.drive d
  · have h := hdrains.ended
    unfold ReadingIsOver State.clipState? State.copy? at h ⊢
    simpa only [hends.job, hj, hbinds.clip] using h

/-! ### Suspended copies back in their lanes -/

/-- A live copy of clip `c` on `d` is suspended. -/
def State.waits (s : State) (c : Nat) (d : DestNo) : Bool := (s.copy? c d).any fun k => k.suspended && k.state.live

/-- From `s` to `t` the suspended copies that are `mine` rejoined their lanes, each lane's in the order of `back`. -/
structure State.Rejoins (s : State) (mine : Nat → DestNo → Bool) (back : DestNo → List Nat) (t : State) : Prop where
  copy : ∀ c d, t.copy? c d
    = if mine c d && s.waits c d then (s.copy? c d).map fun k => { k with suspended := false } else s.copy? c d
  dest : ∀ d, t.dest d = { s.dest d with lane := { (s.dest d).lane with copies := (s.dest d).lane.copies ++ back d } }
  states : ∀ c, t.clipState? c = s.clipState? c
  ports : t.ports = s.ports
  jobs : t.jobs = s.jobs
  ring : t.ring = s.ring
  manifest : t.manifest = s.manifest
  faults : t.faults = s.faults

theorem State.rejoins_self {s : State} {mine : Nat → DestNo → Bool} {back : DestNo → List Nat}
    (h : ∀ c d, mine c d = true → s.waits c d = false) (hb : ∀ d, back d = []) : s.Rejoins mine back s := by
  refine ⟨fun c d => ?_, fun d => by rw [hb, List.append_nil], fun _ => rfl, rfl, rfl, rfl, rfl, rfl⟩
  cases hm : mine c d with
  | false => rfl
  | true => rw [h c d hm]; rfl

theorem State.Rejoins.waits {s t : State} {mine : Nat → DestNo → Bool} {back : DestNo → List Nat}
    (h : s.Rejoins mine back t) {c : Nat} {d : DestNo} (hm : mine c d = false) : t.waits c d = s.waits c d := by
  rw [State.waits, h.copy, hm]; rfl

theorem State.Rejoins.trans {s t u : State} {mine mine' : Nat → DestNo → Bool} {back back' : DestNo → List Nat}
    (h : s.Rejoins mine back t) (g : t.Rejoins mine' back' u) (hdisj : ∀ c d, mine c d = true → mine' c d = false) :
    s.Rejoins (fun c d => mine c d || mine' c d) (fun d => back d ++ back' d) u := by
  refine ⟨fun c d => ?_, fun d => ?_, fun c => (g.states c).trans (h.states c), g.ports.trans h.ports, g.jobs.trans h.jobs, g.ring.trans h.ring,
    g.manifest.trans h.manifest, g.faults.trans h.faults⟩
  · rw [g.copy]
    cases hm : mine c d with
    | true => rw [hdisj c d hm, h.copy, hm]; rfl
    | false => rw [h.waits hm, h.copy, hm]; rfl
  · rw [g.dest, h.dest, List.append_assoc]

theorem rejoinAt_rejoins {s : State} {c : Nat} {d : DestNo} (h : s.waits c d = true → c ∉ (s.dest d).lane.copies) :
    s.Rejoins (fun b e => b == c && e == d) (fun e => if e = d ∧ s.waits c d = true then [c] else []) (rejoinAt c s d) := by
  by_cases hw : s.waits c d = true
  · obtain ⟨k, hk, hflags⟩ := Option.any_eq_true _ _ |>.1 hw
    have hrun : rejoinAt c s d = (s.modCopy c d fun k => { k with suspended := false }).joinLane c d := by
      simp only [rejoinAt, hk, hflags, if_true]
    have hlane : c ∉ (s.dest d).lane.copies := h hw
    obtain ⟨x, hx, hkx⟩ := State.copy_some_iff.1 hk
    rw [hrun]
    refine ⟨fun b e => ?_, fun e => ?_, fun b => ?_, by simp, by simp, by simp, by simp, by simp⟩
    · rw [State.copy_congr (State.joinLane_clips _ _ _), State.copy_modCopy]
      by_cases hbe : b = c ∧ e = d
      · obtain ⟨rfl, rfl⟩ := hbe; simp [hw]
      · rw [if_neg hbe, if_neg]
        rintro hg
        simp only [Bool.and_eq_true, beq_iff_eq] at hg
        exact hbe hg.1
    · rw [State.joinLane, State.dest_modLane]
      by_cases he : e = d
      · subst he; simp [hw, hlane]
      · simp [he]
    · rw [State.clipState?, State.clip_congr (State.joinLane_clips _ _ _), State.modCopy, hk]
      simp only [State.clip_setCopy, hx, Option.map_some]
      split_ifs with hb
      · rw [hb, State.clipState?, hx]; rfl
      · rfl
  · have hrun : rejoinAt c s d = s := rejoinAt_of_none fun k hk => by
      have : ¬(k.suspended && k.state.live) = true := by simpa [State.waits, hk] using hw
      cases hs : k.suspended <;> simp_all
    rw [hrun]
    refine State.rejoins_self (fun b e hbe => ?_) fun e => if_neg fun g => hw g.2
    simp only [Bool.and_eq_true, beq_iff_eq] at hbe
    obtain ⟨rfl, rfl⟩ := hbe
    simpa using hw

theorem State.Rejoins.congr {s t : State} {mine mine' : Nat → DestNo → Bool} {back back' : DestNo → List Nat}
    (h : s.Rejoins mine back t) (hm : ∀ c d, mine c d = mine' c d) (hb : ∀ d, back d = back' d) :
    s.Rejoins mine' back' t := by
  rwa [show mine = mine' from funext fun c => funext fun d => hm c d, show back = back' from funext hb] at h

/-- The suspended copies of one clip rejoin their lanes. -/
theorem rejoin_rejoins {c : Nat} (l : List DestNo) (hl : l.Nodup) (s : State)
    (h : ∀ d ∈ l, s.waits c d = true → c ∉ (s.dest d).lane.copies) :
    s.Rejoins (fun b e => b == c && l.contains e) (fun e => if e ∈ l ∧ s.waits c e = true then [c] else [])
      (l.foldl (rejoinAt c) s) := by
  induction l generalizing s with
  | nil => exact State.rejoins_self (by simp) (by simp)
  | cons d l ih =>
    obtain ⟨hd, hl⟩ := List.nodup_cons.1 hl
    have hone := rejoinAt_rejoins (h d (by simp))
    have hw (e : DestNo) (he : e ∈ l) : (rejoinAt c s d).waits c e = s.waits c e :=
      hone.waits (by simp; rintro rfl; exact hd he)
    have hlane (e : DestNo) (he : e ∈ l) : ((rejoinAt c s d).dest e).lane.copies = (s.dest e).lane.copies := by
      rw [hone.dest, if_neg (by rintro ⟨rfl, -⟩; exact hd he), List.append_nil]
    have hrest := ih hl (rejoinAt c s d) fun e he hwe => by
      rw [hlane e he]; exact h e (by simp [he]) (by rwa [hw e he] at hwe)
    refine (hone.trans hrest fun b e hbe => ?_).congr (fun b e => ?_) fun e => ?_
    · simp only [Bool.and_eq_true, beq_iff_eq] at hbe
      obtain ⟨rfl, rfl⟩ := hbe
      simpa using hd
    · simp only [List.contains_cons, Bool.and_or_distrib_left]
    · by_cases he : e = d
      · subst he; simp [hd]
      · by_cases hel : e ∈ l
        · simp [he, hel, hw e hel]
        · simp [he, hel]

/-- The suspended copies of these clips rejoin their lanes, in the clips' order. -/
theorem State.rejoined_rejoins (cs : List Nat) (hcs : cs.Nodup) (s : State)
    (h : ∀ c ∈ cs, ∀ d, s.waits c d = true → c ∉ (s.dest d).lane.copies) :
    s.Rejoins (fun c _ => cs.contains c) (fun d => cs.filter fun c => s.waits c d) (s.rejoined cs) := by
  induction cs generalizing s with
  | nil => exact State.rejoins_self (by simp) (by simp)
  | cons c cs ih =>
    obtain ⟨hc, hcs⟩ := List.nodup_cons.1 hcs
    let s1 := allDests.foldl (rejoinAt c) s
    have hone : s.Rejoins _ _ s1 := rejoin_rejoins allDests (by decide) s fun d _ => h c (by simp) d
    have hw (b : Nat) (hb : b ∈ cs) (d : DestNo) : s1.waits b d = s.waits b d :=
      hone.waits (by simp; rintro rfl; exact absurd hb hc)
    have hrest := ih hcs s1 fun b hb d hwb => by
      rw [hone.dest]
      have hbs : b ∉ (s.dest d).lane.copies := h b (by simp [hb]) d (by rwa [hw b hb] at hwb)
      have hbc : b ≠ c := by rintro rfl; exact hc hb
      simp only [List.mem_append, not_or]
      refine ⟨hbs, ?_⟩
      split_ifs <;> simp [hbc]
    refine (hone.trans hrest fun b e hbe => ?_).congr (fun b e => ?_) fun e => ?_
    · simp only [Bool.and_eq_true, beq_iff_eq] at hbe
      obtain ⟨rfl, -⟩ := hbe
      simpa using hc
    · simp only [List.contains_cons, List.contains_iff_mem.2 (mem_allDests e), Bool.and_true]
    · rw [List.filter_cons, List.filter_congr fun b hb => hw b hb e]
      by_cases hwe : s.waits c e = true
      · simp [hwe, mem_allDests]
      · simp [hwe]

theorem State.mem_clipsOfJob_of_copy {s : State} {j : JobNo} {c : Nat} {d : DestNo} {k : Copy} (hc : c ∈ (s.job j).clips)
    (hk : s.copy? c d = some k) : c ∈ s.clipsOfJob j := by
  obtain ⟨x, hx, -⟩ := State.copy_some_iff.1 hk
  exact State.mem_clipsOfJob.2 ⟨by rw [hx]; rfl, hc⟩

theorem cardInRejoinsCopies : CardInRejoinsCopies := by
  intro s p media capacity j y rejoins hret hwf hst hlanes hnew ⟨b, hb, hsecured, hexcluded⟩ ⟨c0, d0, hc0⟩
  obtain ⟨w, s1, hexec, hbinds, hlink, hplan, heff⟩ := cardIn_binds hret
  have hcopy1 (c : Nat) (d : DestNo) : s1.copy? c d = s.copy? c d := State.copy_congr hbinds.clips c d
  have hwaits1 (c : Nat) (d : DestNo) : s1.waits c d = s.waits c d := by rw [State.waits, hcopy1]; rfl
  let cs := s.clipsOfJob j
  have hsorted : cs.Pairwise (· < ·) := ((Table.wf_iff _).1 hwf).sublist List.filter_sublist
  have hrejoins (c : Nat) (d : DestNo) : rejoins c d ↔ c ∈ cs ∧ s.waits c d = true := by
    simp only [State.waits, Option.any_eq_true, Bool.and_eq_true]
    constructor
    · rintro ⟨hc, k, hk, hlive, hsus⟩
      exact ⟨State.mem_clipsOfJob_of_copy hc hk, k, hk, hsus, hlive⟩
    · rintro ⟨hc, k, hk, hsus, hlive⟩
      exact ⟨(State.mem_clipsOfJob.1 hc).2, k, hk, hlive, hsus⟩
  have hback := State.rejoined_rejoins cs (hsorted.imp fun h => (Nat.ne_of_lt h)) s1 fun c hc d hwd => by
    rw [State.dest_congr hbinds.dests]
    exact hnew c d ((hrejoins c d).2 ⟨hc, by rwa [hwaits1] at hwd⟩)
  let s2 := s1.rejoined cs
  let back (d : DestNo) : List Nat := cs.filter fun c => s.waits c d
  have hdest2 (d : DestNo) : s2.dest d
      = { s.dest d with lane := { (s.dest d).lane with copies := (s.dest d).lane.copies ++ back d } } := by
    rw [hback.dest, State.dest_congr hbinds.dests]
    simp only [hwaits1]; rfl
  have hmem (c : Nat) (d : DestNo) : c ∈ back d ↔ rejoins c d := by rw [hrejoins, List.mem_filter]
  have hj1 : s1.job j = { y with boundPort := some p } := (hbinds.job j).trans (if_pos rfl)
  have hj2 : s2.job j = { y with boundPort := some p } := (State.job_congr hback.jobs j).trans hj1
  have hcopy2 (c : Nat) (d : DestNo) : (∀ k, rejoins c d → s.copy? c d = some k → s2.copy? c d = some { k with suspended := false })
      ∧ (¬rejoins c d → s2.copy? c d = s.copy? c d) := by
    have h := hback.copy c d
    rw [hwaits1, hcopy1] at h
    refine ⟨fun k hr hk => ?_, fun hr => ?_⟩ <;> rw [hrejoins] at hr
    · rw [h, if_pos (by simpa using hr), hk]; rfl
    · rw [h, if_neg (by simpa using hr)]
  /- What follows the binding settles the job, and the lanes the copies joined stay as they are. -/
  have hbound : runBoundTo j s2 = s2.andNow [.settle j] := by
    rcases hst with h | h <;> simp only [runBoundTo, hj2, h]
  obtain ⟨st, v, hsettled, hto, hsettle⟩ := effects_settle s2 j
  have hunsettled : ¬s2.AllSettled j := by
    intro h
    have hb2 := h b (by rw [hj2]; exact hb)
    rw [hback.states, State.clipState?, hbinds.clip] at hb2
    exact hb2.elim hsecured hexcluded
  have hmoving : s2.Moving j := by
    obtain ⟨hcj, k, hk, hlive, hsus⟩ := hc0
    exact ⟨c0, by rw [hj2]; exact hcj, d0, _, (hcopy2 c0 d0).1 k ⟨hcj, k, hk, hlive, hsus⟩ hk, hlive, rfl⟩
  obtain rfl : st = .draining := by
    rw [State.Settled, hj2, if_pos hst] at hsettled
    exact hsettled.1 hunsettled hmoving
  let lanes := cs.flatMap fun _ => allDests
  have hstill : effects false lanes.length (lanes.map .laneGo) v = some v := effects_lanes_still lanes fun d _ => by
    have hlane : (v.dest d).lane = { (s.dest d).lane with copies := (s.dest d).lane.copies ++ back d } := by
      rw [State.dest_congr hto.dests, hdest2]
    rcases hlanes d with ⟨b, hcur, -, hstand⟩ | ⟨hcur, hnil, hnone⟩
    · exact runLaneGo_standing (c := b) (by rw [hlane]; exact hcur) (by rw [hlane]; exact hstand)
    · have hbnil : back d = [] := List.eq_nil_iff_forall_not_mem.2 fun c hc => hnone c ((hmem c d).1 hc)
      exact runLaneGo_idle (by rw [hlane, hnil, hbnil]; rfl) (by rw [hlane]; exact hcur)
  have hall := heff (effects_rejoins (ts := [.boundTo j]) (n := lanes.length + 2 + 1) (by
    refine (effects_andNow (a := .boundTo j) hbound rfl).trans ?_
    exact hsettle hstill))
  have hle : (s.clipsOfJob j).length ≤ 4096 := (s.length_clipsOfJob j).trans hret.2.2.2.2.2
  have hlen : lanes.length = 4 * (s.clipsOfJob j).length := by
    simp [lanes, cs, List.length_flatMap, allDests, Nat.mul_comm]
  obtain ⟨t, ht, halike, hlamps⟩ := event_of_effects (by omega) hall
  have hends := halike.ends
  have hv (q : PortNo) : v.port q = s1.port q := by
    rw [hto.port, if_neg (by rintro ⟨h, -⟩; cases h), State.port_congr hback.ports]
  have hcopyv (c : Nat) (d : DestNo) : t.copy? c d = s2.copy? c d := (hends.copy c d).trans (State.copy_congr hto.clips c d)
  refine ⟨t, hexec.trans ht, boundAgain_of_ends hbinds (by rw [hv]) (by rw [hv]) (by rw [hv]) (fun q _ => hv q) ?_
    (fun i hi => ?_) (hto.manifest.trans (hback.manifest.trans hbinds.manifest))
    (hto.faults.trans (hback.faults.trans hbinds.faults)) hends (halike.plan.2.trans hplan), ?_,
    fun c d k hr hk => (hcopyv c d).trans ((hcopy2 c d).1 k hr hk), fun c d hr => (hcopyv c d).trans ((hcopy2 c d).2 hr),
    fun d => ⟨back d, ?_, hsorted.sublist List.filter_sublist, fun c => hmem c d⟩,
    hends.ring.trans (hto.ring.trans (hback.ring.trans hbinds.ring))⟩
  · rw [hto.job, if_pos rfl, hj2]
  · rw [hto.job, if_neg hi, State.job_congr hback.jobs]
  · rw [hends.job, hto.job, if_pos rfl, hj2]
  · rw [hends.lane, State.dest_congr hto.dests, hdest2]

/-- Settles O41: behind the binding the job's own effect runs, or its suspended copies rejoin their lanes. -/
theorem cardReturns : Obligations.CardReturns := ⟨cardInResumesReading, cardInEndsReading, cardInRejoinsCopies⟩

end Sys2Proof.Machine

/-! Slots freed in turn (R64, R65): of owners that ask for nothing then, and with no lane at work. -/

namespace Sys2Proof.Machine

/-! ### The state with slots freed -/

/-- These slots freed in turn. -/
def State.freeAll (s : State) (ns : List Nat) : State := ns.foldl (fun s n => s.freeSlot n) s

/-- The slots of `r` among these. -/
def State.ownedIn (s : State) (r : Requester) (ns : List Nat) : List Nat :=
  ns.filter fun n => (s.slot? n).any fun y => decide (y.owner = r)

theorem State.freeSlot_of_some {s : State} {n : Nat} {y : Slot} (h : s.slot? n = some y) :
    s.freeSlot n = { s with
      ring := { s.ring with freeList := s.ring.freeList ++ [n], held := Table.erase n s.ring.held } }.modHeld y.owner (· - 1) := by
  simp only [State.freeSlot, h]

theorem State.freeSlot_of_none {s : State} {n : Nat} (h : s.slot? n = none) : s.freeSlot n = s := by
  simp only [State.freeSlot, h]

/-- What freeing slots leaves: other blocks as they were, and of each requester all but its held-slot count. -/
structure State.Freed (s : State) (ns : List Nat) (t : State) : Prop where
  slot : ∀ m, t.slot? m = if m ∈ ns then none else s.slot? m
  freeList : t.ring.freeList = s.ring.freeList ++ ns.filter fun n => (s.slot? n).isSome
  waitList : t.ring.waitList = s.ring.waitList
  job : ∀ i, t.job i = { s.job i with held := (s.job i).held - (s.ownedIn (.job i) ns).length }
  dest : ∀ d, t.dest d = { s.dest d with
    lane := { (s.dest d).lane with held := (s.dest d).lane.held - (s.ownedIn (.lane d) ns).length } }
  sound : s.ring.Sound → t.ring.Sound
  ports : t.ports = s.ports
  clips : t.clips = s.clips
  plan : t.plan = s.plan
  manifest : t.manifest = s.manifest
  faults : t.faults = s.faults
  link : t.link = s.link
  lines : t.lines = s.lines

theorem State.freeAll_freed (ns : List Nat) (hns : ns.Nodup) (s : State) : s.Freed ns (s.freeAll ns) := by
  induction ns generalizing s with
  | nil => exact ⟨fun _ => rfl, (List.append_nil _).symm, rfl, fun _ => rfl, fun _ => rfl, id, rfl, rfl, rfl, rfl, rfl, rfl, rfl⟩
  | cons n ns ih =>
    obtain ⟨hn, hns⟩ := List.nodup_cons.1 hns
    have h := ih hns (s.freeSlot n)
    have hslot (m : Nat) (hm : m ∈ ns) : (s.freeSlot n).slot? m = s.slot? m := by
      rw [State.freeSlot_slot, if_neg (by rintro rfl; exact hn hm)]
    have hown (r : Requester) : (s.freeSlot n).ownedIn r ns = s.ownedIn r ns :=
      List.filter_congr fun m hm => by rw [hslot m hm]
    have hfree : ns.filter (fun m => ((s.freeSlot n).slot? m).isSome) = ns.filter fun m => (s.slot? m).isSome :=
      List.filter_congr fun m hm => by rw [hslot m hm]
    have hnext : s.freeAll (n :: ns) = (s.freeSlot n).freeAll ns := rfl
    cases hy : s.slot? n with
    | none =>
      rw [State.freeSlot_of_none hy] at h hnext
      rw [hnext]
      have hown (r : Requester) : s.ownedIn r (n :: ns) = s.ownedIn r ns := by simp [State.ownedIn, hy]
      refine { h with slot := fun m => ?_, freeList := ?_, job := fun i => ?_, dest := fun d => ?_ }
      · rw [h.slot]
        by_cases hm : m = n
        · subst hm; simp [hy]
        · simp [hm]
      · rw [h.freeList]; simp [hy]
      · rw [h.job, hown]
      · rw [h.dest, hown]
    | some y =>
      rw [hnext]
      have hone := State.freeSlot_of_some hy
      have hjob (i : JobNo) : (s.freeSlot n).job i = if y.owner = .job i then { s.job i with held := (s.job i).held - 1 } else s.job i := by
        rw [hone, State.job_modHeld]; rfl
      have hdest (d : DestNo) : (s.freeSlot n).dest d = if y.owner = .lane d then
          { s.dest d with lane := { (s.dest d).lane with held := (s.dest d).lane.held - 1 } } else s.dest d := by
        rw [hone, State.dest_modHeld]; rfl
      have hcount (r : Requester) : (s.ownedIn r (n :: ns)).length
          = (if y.owner = r then 1 else 0) + (s.ownedIn r ns).length := by
        simp only [State.ownedIn, List.filter_cons, hy, Option.any_some, decide_eq_true_eq]
        split_ifs <;> simp [Nat.add_comm]
      refine ⟨fun m => ?_, ?_, ?_, fun i => ?_, fun d => ?_, fun hs => h.sound (State.freeSlot_sound hs n), ?_, ?_, ?_, ?_, ?_, ?_, ?_⟩
      · rw [h.slot, State.freeSlot_slot]
        by_cases hm : m = n
        · subst hm; simp
        · simp [hm]
      · rw [h.freeList, hfree, hone]; simp [hy]
      · rw [h.waitList, hone]; simp
      · rw [h.job, hjob, hown, hcount]
        split_ifs with ho
        · simp only [Nat.sub_sub]
        · simp
      · rw [h.dest, hdest, hown, hcount]
        split_ifs with ho
        · simp only [Nat.sub_sub]
        · simp
      · rw [h.ports, hone]; simp
      · rw [h.clips, hone]; simp
      · rw [h.plan, hone]; simp
      · rw [h.manifest, hone]; simp
      · rw [h.faults, hone]; simp
      · rw [h.link, hone]; simp
      · rw [h.lines, hone]; simp

/-! ### Freeing for owners that ask for nothing -/

/-- A requester that, when one of its slots is freed, does not ask or asks in vain: it has no card and no copy at work, or it
does not stand at its limit with a request. -/
def State.Mute (s : State) : Requester → Prop
  | .job j => (s.job j).boundPort = none ∨ NotStalled s (.job j)
  | .lane d => (s.dest d).lane.current = none ∨ NotStalled s (.lane d)

theorem State.Mute.asks_in_vain {s t : State} {r : Requester} (h : s.Mute r) (hr : s.heldAtLimit r = true)
    (hjob : ∀ j, (t.job j).boundPort = (s.job j).boundPort)
    (hlane : ∀ d, (t.dest d).lane.current = (s.dest d).lane.current) : askFor r t = t.still := by
  cases r with
  | job j =>
    have hnone : (t.job j).boundPort = none := (hjob j).trans <| h.resolve_right fun hn => by
      simp only [State.heldAtLimit, Bool.and_eq_true, decide_eq_true_eq] at hr
      exact absurd (hn hr.1.1.1) (not_lt.2 hr.1.1.2)
    have hmay : t.mayRead j = false := by rw [State.mayRead, hnone]; simp
    simp only [askFor, State.askForJob, hmay, Bool.not_false, if_true]
  | lane d =>
    have hnone : (t.dest d).lane.current = none := (hlane d).trans <| h.resolve_right fun hn => by
      simp only [State.heldAtLimit, Bool.and_eq_true, laneLimit] at hr
      exact absurd (hn hr.1.2) (not_lt.2 (of_decide_eq_true hr.1.1))
    simp only [askFor, hnone]

theorem State.freeSlot_boundPort (s : State) (n : Nat) (j : JobNo) : ((s.freeSlot n).job j).boundPort = (s.job j).boundPort := by
  cases hy : s.slot? n with
  | none => rw [State.freeSlot_of_none hy]
  | some y => rw [State.freeSlot_of_some hy, State.job_modHeld]; split_ifs <;> rfl

theorem State.freeSlot_current (s : State) (n : Nat) (d : DestNo) :
    ((s.freeSlot n).dest d).lane.current = (s.dest d).lane.current := by
  cases hy : s.slot? n with
  | none => rw [State.freeSlot_of_none hy]
  | some y => rw [State.freeSlot_of_some hy, State.dest_modHeld]; split_ifs <;> rfl

theorem State.freeSlot_waitList (s : State) (n : Nat) : (s.freeSlot n).ring.waitList = s.ring.waitList := by
  cases hy : s.slot? n with
  | none => rw [State.freeSlot_of_none hy]
  | some y => rw [State.freeSlot_of_some hy, State.modHeld_ring]

/-- Freeing a slot leaves whoever was mute so. -/
theorem State.Mute.freeSlot {s : State} {r : Requester} (h : s.Mute r) (n : Nat) : (s.freeSlot n).Mute r := by
  have hcount (q : Requester) : (s.freeSlot n).heldCount q ≤ s.heldCount q := by
    cases hy : s.slot? n with
    | none => rw [State.freeSlot_of_none hy]
    | some y =>
      rw [State.freeSlot_of_some hy, State.heldCount_modHeld]
      split_ifs with hq
      · subst hq; exact Nat.sub_le _ _
      · exact le_rfl
  cases r with
  | job j =>
    refine h.imp (fun h => by rw [State.freeSlot_boundPort]; exact h) fun h hrun => ?_
    have hj : ((s.freeSlot n).job j).state = (s.job j).state ∧ ((s.freeSlot n).job j).quota = (s.job j).quota := by
      cases hy : s.slot? n with
      | none => rw [State.freeSlot_of_none hy]; exact ⟨rfl, rfl⟩
      | some y => rw [State.freeSlot_of_some hy, State.job_modHeld]; split_ifs <;> exact ⟨rfl, rfl⟩
    rw [hj.1] at hrun
    rw [hj.2]
    exact lt_of_le_of_lt (hcount (.job j)) (h hrun)
  | lane d =>
    refine h.imp (fun h => by rw [State.freeSlot_current]; exact h) fun h hstand => ?_
    have hd : ((s.freeSlot n).dest d).lane.standing = (s.dest d).lane.standing := by
      cases hy : s.slot? n with
      | none => rw [State.freeSlot_of_none hy]
      | some y => rw [State.freeSlot_of_some hy, State.dest_modHeld]; split_ifs <;> rfl
    rw [hd] at hstand
    exact lt_of_le_of_lt (hcount (.lane d)) (h hstand)

theorem runServeWaiting_nil {s : State} (h : s.ring.waitList = []) : runServeWaiting s = s.still := by
  simp only [runServeWaiting, h]

/-- One slot freed whose owner is mute, with no requester waiting. -/
theorem effects_freeSlot_mute {answers : Bool} {k n : Nat} {ns : List Nat} {ts : List Task} {s u : State}
    (hw : s.ring.waitList = []) (hm : ∀ y, s.slot? n = some y → s.Mute y.owner)
    (h : effects answers k (.freeSlots ns :: ts) (s.freeSlot n) = some u) :
    effects answers (k + 3) (.freeSlots (n :: ns) :: ts) s = some u := by
  cases hy : s.slot? n with
  | none =>
    have hrun : runFreeSlots (n :: ns) s = s.andNow [.freeSlots ns] := by simp only [runFreeSlots, hy]
    rw [effects_andNow (a := .freeSlots (n :: ns)) hrun rfl]
    rw [State.freeSlot_of_none hy] at h
    exact effects_mono (by omega) h
  | some y =>
    have hserve := runServeWaiting_nil ((s.freeSlot_waitList n).trans hw)
    cases hlim : s.heldAtLimit y.owner with
    | false =>
      have hrun : runFreeSlots (n :: ns) s = (s.freeSlot n).andNow [.serveWaiting, .freeSlots ns] := by
        simp only [runFreeSlots, hy, hlim, Bool.false_eq_true, if_false, List.nil_append, List.cons_append]
      rw [effects_andNow (a := .freeSlots (n :: ns)) hrun rfl]
      exact effects_mono (n := k + 1) (by omega) ((effects_still (a := .serveWaiting) hserve rfl).trans h)
    | true =>
      have hrun : runFreeSlots (n :: ns) s = (s.freeSlot n).andNow [.serveWaiting, .askAgain y.owner, .freeSlots ns] := by
        simp only [runFreeSlots, hy, hlim, if_true, List.nil_append, List.cons_append]
      have hask := (hm y hy).asks_in_vain (t := s.freeSlot n) hlim (s.freeSlot_boundPort n) (s.freeSlot_current n)
      rw [effects_andNow (a := .freeSlots (n :: ns)) hrun rfl]
      refine (effects_still (a := .serveWaiting) (n := k + 1) hserve rfl).trans ?_
      exact (effects_still (a := .askAgain y.owner) hask rfl).trans h

/-- Slots freed whose owners are mute, with no requester waiting: nothing else comes of it. -/
theorem effects_freeSlots_mute {answers : Bool} {k : Nat} {ts : List Task} {u : State} (ns : List Nat) {s : State}
    (hw : s.ring.waitList = []) (hm : ∀ n ∈ ns, ∀ y, s.slot? n = some y → s.Mute y.owner)
    (h : effects answers k ts (s.freeAll ns) = some u) :
    effects answers (k + 1 + 3 * ns.length) (.freeSlots ns :: ts) s = some u := by
  induction ns generalizing s with
  | nil => exact (effects_still (a := .freeSlots []) rfl rfl).trans h
  | cons n ns ih =>
    refine effects_freeSlot_mute hw (hm n (by simp)) (ih ((s.freeSlot_waitList n).trans hw) (fun m hm' y hy => ?_) h)
    rw [State.freeSlot_slot] at hy
    split_ifs at hy
    exact (hm m (by simp [hm']) y hy).freeSlot n

/-! ### Freeing with no lane at work -/

/-- From `s` to `t` slots were freed, and jobs that stood at their limit may have been given slots and wait for others. -/
structure State.Frees (s t : State) : Prop where
  job : ∀ i, ∃ h, t.job i = { s.job i with held := h }
  dest : ∀ d, ∃ h, t.dest d = { s.dest d with lane := { (s.dest d).lane with held := h } }
  port : ∀ p, ∃ f, t.port p = { s.port p with fifo := (s.port p).fifo ++ f }
  clips : t.clips = s.clips
  manifest : t.manifest = s.manifest
  faults : t.faults = s.faults
  sound : s.ring.Sound → t.ring.Sound

namespace State.Frees

variable {s t u : State}

theorem refl (s : State) : s.Frees s :=
  ⟨fun _ => ⟨_, rfl⟩, fun _ => ⟨_, rfl⟩, fun p => ⟨[], by rw [List.append_nil]⟩, rfl, rfl, rfl, id⟩

theorem trans (h : s.Frees t) (g : t.Frees u) : s.Frees u := by
  refine ⟨fun i => ?_, fun d => ?_, fun p => ?_, g.clips.trans h.clips, g.manifest.trans h.manifest,
    g.faults.trans h.faults, g.sound ∘ h.sound⟩
  · obtain ⟨a, ha⟩ := h.job i
    obtain ⟨b, hb⟩ := g.job i
    exact ⟨b, by rw [hb, ha]⟩
  · obtain ⟨a, ha⟩ := h.dest d
    obtain ⟨b, hb⟩ := g.dest d
    exact ⟨b, by rw [hb, ha]⟩
  · obtain ⟨a, ha⟩ := h.port p
    obtain ⟨b, hb⟩ := g.port p
    exact ⟨a ++ b, by rw [hb, ha, List.append_assoc]⟩

theorem lanesIdle (h : s.Frees t) (hs : s.LanesIdle) : t.LanesIdle := fun d => by
  obtain ⟨a, ha⟩ := h.dest d
  rw [ha]; exact hs d

end State.Frees

theorem State.freeSlot_frees (s : State) (n : Nat) : s.Frees (s.freeSlot n) := by
  have h := State.freeAll_freed [n] (by simp) s
  refine ⟨fun i => ⟨_, h.job i⟩, fun d => ⟨_, h.dest d⟩, fun p => ⟨[], ?_⟩,
    h.clips, h.manifest, h.faults, h.sound⟩
  rw [List.append_nil]
  exact State.port_congr h.ports p

theorem State.frees_of_waitList {s t : State} (h : ∃ w, t = { s with ring := { s.ring with waitList := w } }) : s.Frees t := by
  obtain ⟨w, rfl⟩ := h
  exact { State.Frees.refl s with sound := id }

theorem State.leaveWait_frees (s : State) (r : Requester) : s.Frees (s.leaveWait r) := State.frees_of_waitList ⟨_, rfl⟩

theorem State.joinWait_frees (s : State) (r : Requester) : s.Frees (s.joinWait r) := by
  unfold State.joinWait
  split
  · exact .refl s
  · exact State.frees_of_waitList ⟨_, rfl⟩

theorem State.giveSlot_frees {s t : State} {r : Requester} {c k n : Nat} (h : s.giveSlot r c k = some (n, t)) : s.Frees t := by
  have hsound := fun hs => State.giveSlot_sound (s := s) hs h
  obtain ⟨rest, x, -, -, rfl⟩ := State.giveSlot_eq h
  refine ⟨fun i => ?_, fun d => ?_, fun p => ⟨[], ?_⟩, by simp, by simp, by simp, hsound⟩
  · rw [State.job_modHeld]; split_ifs <;> exact ⟨_, rfl⟩
  · rw [State.dest_modHeld]; split_ifs <;> exact ⟨_, rfl⟩
  · rw [State.port_modHeld, List.append_nil]; rfl

theorem State.queuePieces_frees (s : State) (p : PortNo) (work : ReaderWork) (pieces : List (Nat × Nat)) :
    s.Frees (s.queuePieces p work pieces) := by
  refine ⟨fun _ => ⟨_, rfl⟩, fun _ => ⟨_, rfl⟩, fun q => ?_, rfl, rfl, rfl, id⟩
  by_cases hq : q = p
  · subst hq; exact ⟨_, State.port_modPort_self _ _ _⟩
  · exact ⟨[], by rw [List.append_nil]; exact State.port_modPort_of_ne _ (Ne.symm hq) _⟩

theorem State.startUnit_frees {s t : State} {j : JobNo} (h : s.startUnit j = some t) : s.Frees t := by
  simp only [State.startUnit] at h
  split at h
  · cases h
  · split at h
    · cases h
    · rename_i hgive
      split at h <;> obtain rfl := Option.some.inj h
      · exact (State.giveSlot_frees hgive).trans (State.queuePieces_frees _ _ _ _)
      · exact State.giveSlot_frees hgive

theorem State.askForJob_frees (s : State) (j : JobNo) : s.Frees (s.askForJob j) := by
  unfold State.askForJob
  split
  · exact .refl s
  · split
    · exact .refl s
    · split
      · exact State.startUnit_frees ‹_›
      · exact s.joinWait_frees _

/-- With no lane at work a requester that asks is a job. -/
theorem askFor_frees {s : State} (hs : s.LanesIdle) (r : Requester) : ∃ t, askFor r s = t.still ∧ s.Frees t := by
  cases r with
  | job j => exact ⟨_, rfl, s.askForJob_frees j⟩
  | lane d => exact ⟨s, by simp only [askFor, (hs d).2], .refl s⟩

theorem runServeWaiting_frees {s : State} (hs : s.LanesIdle) : ∃ t, runServeWaiting s = t.still ∧ s.Frees t := by
  unfold runServeWaiting
  split
  · exact ⟨s, rfl, .refl s⟩
  · rename_i r _ _
    obtain ⟨t, ht, h⟩ := askFor_frees ((s.leaveWait_frees r).lanesIdle hs) r
    exact ⟨t, ht, (s.leaveWait_frees r).trans h⟩

theorem effects_freeSlots_idle (ns : List Nat) {s : State} (hs : s.LanesIdle) :
    ∃ t, s.Frees t ∧ ∀ {answers k ts u}, effects answers k ts t = some u →
      effects answers (k + 1 + 3 * ns.length) (.freeSlots ns :: ts) s = some u := by
  induction ns generalizing s with
  | nil => exact ⟨s, .refl s, fun h => (effects_still (a := .freeSlots []) rfl rfl).trans h⟩
  | cons n ns ih =>
    cases hy : s.slot? n with
    | none =>
      have hrun : runFreeSlots (n :: ns) s = s.andNow [.freeSlots ns] := by simp only [runFreeSlots, hy]
      obtain ⟨t, ht, heff⟩ := ih hs
      refine ⟨t, ht, fun {answers k ts u} h => ?_⟩
      refine effects_mono (n := k + 1 + 3 * ns.length + 1) (by simp only [List.length_cons]; omega) ?_
      rw [effects_andNow (a := .freeSlots (n :: ns)) hrun rfl]
      exact heff h
    | some y =>
      have h1 := s.freeSlot_frees n
      obtain ⟨s2, hserve, h2⟩ := runServeWaiting_frees (h1.lanesIdle hs)
      have h12 := h1.trans h2
      cases hlim : s.heldAtLimit y.owner with
      | false =>
        have hrun : runFreeSlots (n :: ns) s = (s.freeSlot n).andNow [.serveWaiting, .freeSlots ns] := by
          simp only [runFreeSlots, hy, hlim, Bool.false_eq_true, if_false, List.nil_append, List.cons_append]
        obtain ⟨t, ht, heff⟩ := ih (h12.lanesIdle hs)
        refine ⟨t, h12.trans ht, fun {answers k ts u} h => ?_⟩
        refine effects_mono (n := k + 1 + 3 * ns.length + 1 + 1) (by simp only [List.length_cons]; omega) ?_
        rw [effects_andNow (a := .freeSlots (n :: ns)) hrun rfl]
        exact (effects_still (a := .serveWaiting) hserve rfl).trans (heff h)
      | true =>
        have hrun : runFreeSlots (n :: ns) s = (s.freeSlot n).andNow [.serveWaiting, .askAgain y.owner, .freeSlots ns] := by
          simp only [runFreeSlots, hy, hlim, if_true, List.nil_append, List.cons_append]
        obtain ⟨s3, hask, h3⟩ := askFor_frees (h12.lanesIdle hs) y.owner
        have h123 := h12.trans h3
        obtain ⟨t, ht, heff⟩ := ih (h123.lanesIdle hs)
        refine ⟨t, h123.trans ht, fun {answers k ts u} h => ?_⟩
        refine effects_mono (n := k + 1 + 3 * ns.length + 1 + 1 + 1) (by simp only [List.length_cons]; omega) ?_
        rw [effects_andNow (a := .freeSlots (n :: ns)) hrun rfl]
        refine (effects_still (a := .serveWaiting) hserve rfl).trans ?_
        exact (effects_still (a := .askAgain y.owner) hask rfl).trans (heff h)

end Sys2Proof.Machine

/-! O33 fails: a PRESENT port whose record still names a job sends that job's number with its changes. -/

namespace Sys2Proof.Machine

/-- A PRESENT port with nothing to answer whose record names job 0, though it is not BOUND to it. -/
def namesAJob : State :=
  State.reset.setPort 0
    { CardPort.idle true with state := .present, identity := some ⟨1, 1⟩, boundJob := some 0, lamp := .amber }

/-- The byte of a CARD_CHANGE that names the bound job, of the oldest frame in the queue. -/
def firstNamed (o : Host.Outcome State Fault Refusal) : Option Byte :=
  match o with
  | .next t => t.link.outq.head?.map fun f => f.payload.getD 17 0
  | .fault _ => none
  | .refused _ => none

/-- Refutes O33: nothing in the statement says that a PRESENT port's record names no job, and the departure announced
for such a port carries the job it names where the statement has 255. -/
theorem not_removalRules : ¬Obligations.RemovalRules := by
  intro h
  obtain ⟨-, -, h, -⟩ := h
  obtain ⟨hpresent, -⟩ := h namesAJob 0 2 2 ⟨1, 1⟩ (by decide +kernel) (by decide +kernel) (by decide +kernel)
    (by decide) (by decide +kernel)
  obtain ⟨t, ht, -, -, -, -, -, hnotices⟩ := hpresent (by unfold Holds; decide +kernel)
  have hqueue := hnotices (by decide +kernel) (by unfold State.LampsFormed; decide +kernel) (by decide +kernel)
  have hbyte : firstNamed (exec (.cardIn 0 2 2) namesAJob) = some 0 := by decide +kernel
  rw [ht, firstNamed, hqueue] at hbyte
  revert hbyte
  decide +kernel

end Sys2Proof.Machine

/-! SECTOR_READ from its request to its end (R25, R33; O35). -/

namespace Sys2Proof.Machine

theorem exec_sectorRead (tag : Byte) (n start count : Nat) (s : State) :
    exec (.sectorRead tag n start count) s = s.quiet.request tag 0x18 fun e s => ruleSectorRead e tag n start count s := rfl

theorem ruleSectorRead_val (e : EntryNo) (tag : Byte) (p : PortNo) (start count : Nat) (s : State) :
    ruleSectorRead e tag p.val start count s =
      if !(s.port p).enabled then .refuse .noSuch
      else if count = 0 ∨ 8 < count then .refuse .badParam
      else match (s.port p).state with
        | .empty => .refuse .noCard
        | .mounting => .refuse .wrongState
        | .unreadable => .refuse .wrongState
        | .present => ruleSectors p e tag start count s
        | .bound => ruleSectors p e tag start count s := by
  simp only [ruleSectorRead, portOf_val] <;> rfl

theorem sectorReadRules : SectorReadRules := by
  intro tag n start count s e he run answer
  have refused {st : Status} (h : ruleSectorRead e tag n start count (s.quiet.owing e tag 0x18) = .refuse st) : run = answer st :=
    State.request_refuse (s := s.quiet) (owner := fun e s => ruleSectorRead e tag n start count s) he h
  refine ⟨fun hn => refused (by simp only [ruleSectorRead, portOf_eq_none hn]), ?_⟩
  rintro p rfl
  have hrule := ruleSectorRead_val e tag p start count (s.quiet.owing e tag 0x18)
  refine ⟨fun hen => refused (hrule.trans (if_pos (by rw [State.port_owing]; simpa using hen))), fun hen => ?_⟩
  replace hrule := hrule.trans (if_neg (by rw [State.port_owing]; simpa using hen))
  refine ⟨fun hc => refused (hrule.trans (if_pos hc)), fun h1 h8 => ?_⟩
  replace hrule := hrule.trans (if_neg (show ¬(count = 0 ∨ 8 < count) by omega))
  refine ⟨fun h => refused (by rw [hrule, show ((s.quiet.owing e tag 0x18).port p).state = .empty from h]), fun h => refused ?_,
    fun card h hid => ?_⟩
  · rcases h with h | h <;> rw [hrule, show ((s.quiet.owing e tag 0x18).port p).state = _ from h]
  · have hsectors : ruleSectorRead e tag p.val start count (s.quiet.owing e tag 0x18)
        = ruleSectors p e tag start count (s.quiet.owing e tag 0x18) := by
      rcases h with h | h <;> rw [hrule, show ((s.quiet.owing e tag 0x18).port p).state = _ from h]
    have hcap : ((s.quiet.owing e tag 0x18).port p).identity.elim 0 (·.capacity) = card.capacity := by
      rw [show ((s.quiet.owing e tag 0x18).port p).identity = some card from hid]; rfl
    rw [ruleSectors, hcap] at hsectors
    refine ⟨fun hlt => refused (hsectors.trans (if_pos hlt)), fun hle => ?_⟩
    change exec _ s = _
    rw [exec_sectorRead, State.request_of_free (s := s.quiet) he]
    refine (congrArg (Ruling.carry e _) (hsectors.trans (if_neg (not_lt.2 hle)))).trans ?_
    rw [Ruling.carry_owe, event_still_eq]
    rfl

/-! ### The end of a sector read -/

theorem State.arbitrate_ports (s : State) (d : DestNo) : (s.arbitrate d).ports = s.ports := by
  unfold State.arbitrate
  split
  · rfl
  · rename_i g _
    cases g with
    | writer w => simp only [State.carryGrant]; split <;> simp
    | readLane => simp only [State.carryGrant]; split <;> simp

/-- With nothing to issue a port issues nothing as an event ends. -/
theorem State.closeEvent_idle {s : State} {p : PortNo} (hf : (s.port p).fifo = []) (ho : (s.port p).outstanding = none) :
    (s.closeEvent.port p).outstanding = none := by
  have h := s.refreshLamps_lampsOnly.2.2.2.2 p
  refine (serveLinks_invariant (fun t => (t.port p).fifo = [] ∧ (t.port p).outstanding = none)
    (fun t d ht => by rw [State.port_congr (t.arbitrate_ports d)]; exact ht) (fun t q ht => ?_)
    (s := s.refreshLamps) ⟨?_, h.2.1.trans ho⟩).2
  · unfold State.serveReader
    split
    · exact ht
    · rename_i i rest hfifo
      split
      · by_cases hq : q = p
        · subst hq; rw [ht.1] at hfifo; cases hfifo
        · rw [State.issueRead, State.port_emitLine, State.port_modPort_of_ne _ hq]; exact ht
      · exact ht
  · obtain ⟨-, -, -, -, h5, -⟩ := h.1
    exact h5.trans hf

/-- An event that ends with one answer. -/
theorem event_answer {s : State} {e : EntryNo} {st : Status} {b : List Byte} :
    event (s.andNow [.answer e st b]) = .next (s.closeEvent.reply e st b).closeEvent :=
  event_of_runTasks (n := 1) (by decide) rfl

/-- What an event that ends with one answer leaves. -/
theorem State.closeEvent_reply_spec {s : State} {e : EntryNo} {tag : Byte} {code : Nat} (st : Status) (b : List Byte)
    (h : s.link.table[e] = some ⟨tag, code, false⟩) :
    let t := (s.closeEvent.reply e st b).closeEvent
    s.SameBooks t ∧ (∀ p, (s.port p).SameCard (t.port p)) ∧ (∀ d, (s.dest d).SameDrive (t.dest d))
      ∧ replyFrame (.reply e) tag st b ∈ t.link.outq ∧ t.link.table = s.link.table.set e (some ⟨tag, code, true⟩) := by
  obtain ⟨hb1, ⟨ht1, -⟩, hc1, hd1, -⟩ := s.closeEvent_spec
  obtain ⟨hb2, ⟨ht2, -, -, -, -, n2, -, ho2⟩, hc2, hd2, -⟩ := (s.closeEvent.reply e st b).closeEvent_spec
  have howed : s.closeEvent.link.table[e] = some ⟨tag, code, false⟩ := by rw [ht1]; exact h
  have hreply := State.reply_of_owed howed st b
  refine ⟨(hb1.trans ⟨rfl, rfl, rfl, rfl, rfl, rfl, rfl⟩ : s.SameBooks (s.closeEvent.reply e st b)).trans hb2,
    fun p => (hc1 p).trans (hc2 p), fun d => (hd1 d).trans (hd2 d), ?_, ?_⟩
  · rw [ho2, hreply]
    simp [State.answered]
  · rw [ht2, hreply, ← ht1]; rfl

/-- A port whose request was cleared and whose head item left. -/
def CardPort.popped (x : CardPort) (rest : List ReaderItem) : CardPort :=
  { x with outstanding := none, abandoned := false, readerTimer := false, fifo := rest }

theorem State.modPort_setPort (s : State) (p : PortNo) (x : CardPort) (f : CardPort → CardPort) :
    (s.setPort p x).modPort p f = s.setPort p (f x) := by
  rw [State.modPort, State.port_setPort_self]
  simp only [State.setPort, Vector.set_set]

theorem State.popped_eq (s : State) {p : PortNo} {i : ReaderItem} {rest : List ReaderItem} (h : (s.port p).fifo = i :: rest) :
    (s.clearReader p).popRead p = s.setPort p ((s.port p).popped rest) := by
  refine (State.modPort_setPort s p _ _).trans (congrArg (fun f => s.setPort p ((s.port p).popped f)) ?_)
  change (s.port p).fifo.tail = rest
  rw [h]; rfl

/-- A fault that is not routed HOLD changes the fault unit, and notices. -/
theorem State.raise_alone {s : State} {o : Occurrence} (h : s.faults.route o.cls ≠ .hold) :
    ∃ l, s.link.OnlyNotices l ∧ s.raise o = { s with faults := s.faults.take o, link := l } := by
  have hroute : (s.faults.take o).route o.cls ≠ .hold := h
  unfold State.raise State.carryRoute
  simp only
  split
  · exact ⟨_, .refl _, rfl⟩
  · exact ⟨_, State.notify_onlyNotices { s with faults := s.faults.take o } _, rfl⟩
  · exact ⟨_, .refl _, rfl⟩
  · exact absurd ‹_› hroute

theorem sectorReadEnds : SectorReadEnds := by
  intro s p r e tag rest hen hr ha hwork hfifo howed hroute ends lost
  /- An event that leaves the FIFO's rest and the fault unit `u`, and answers. -/
  have ending {i : Instr} {st : Status} {payload : List Byte} {lines : List LineOut} {u : FaultUnit} {l : Link}
      (hexec : exec i s = event (State.andNow
        { s.setPort p ((s.port p).popped rest) with lines := lines, faults := u, link := l } [.answer e st payload]))
      (hl : s.link.OnlyNotices l) : ends i st payload u := by
    let v : State := { s.setPort p ((s.port p).popped rest) with lines := lines, faults := u, link := l }
    have hv : v.port p = (s.port p).popped rest := State.port_setPort_self _ _ _
    obtain ⟨⟨h1, h2, h3, h4, h5, h6, -⟩, hcard, hdrive, hmem, htable⟩ :=
      State.closeEvent_reply_spec (s := v) st payload (show l.table[e] = _ by rw [hl.1]; exact howed)
    refine ⟨_, hexec.trans event_answer, hmem, htable.trans (by rw [← hl.1]), ?_, fun hnil => ?_, h6, h1, h2, h3, h4, h5, hdrive⟩
    · obtain ⟨-, -, -, -, h, -⟩ := hcard p
      exact h.trans (by rw [hv]; rfl)
    · have h1 : (v.closeEvent.port p).outstanding = none := State.closeEvent_idle (by rw [hv]; exact hnil) (by rw [hv]; rfl)
      refine State.closeEvent_idle (s := v.closeEvent.reply e st payload) ?_ h1
      obtain ⟨-, -, h, -⟩ := v.closeEvent_spec
      obtain ⟨-, -, -, -, h, -⟩ := h p
      exact h.trans (by rw [hv]; exact hnil)
  have hpop : ∀ (ls : List LineOut), ((({ s with lines := ls } : State).clearReader p).popRead p)
      = { s.setPort p ((s.port p).popped rest) with lines := ls } := fun ls => State.popped_eq { s with lines := ls } hfifo
  have hfault (cls : FaultClass) (detail : Detail) :
      readerFault cls p r.item.work detail = ⟨cls, none, none, none, some p, detail⟩ := by rw [hwork]; rfl
  have hlost (ls : List LineOut) (detail : Detail) (i : Instr)
      (hexec : exec i s = event (pieceLost p r.item.work
        ((((({ s with lines := ls } : State).clearReader p).popRead p)).raise (readerFault .cardFault p r.item.work detail)))) :
      ends i .readError [] (lost detail) := by
    obtain ⟨l, hl, hraise⟩ := State.raise_alone (s := { s.setPort p ((s.port p).popped rest) with lines := ls })
      (o := ⟨.cardFault, none, none, none, some p, detail⟩) (hroute _)
    rw [hpop, hfault, hraise, hwork] at hexec
    exact ending hexec hl
  refine ⟨fun bytes hlen => ?_, fun hattempt => ⟨?_, fun htimer => ?_⟩⟩
  · have hdone : exec (.readerData p bytes) s = event (pieceDone p r bytes s.quiet) := by
      rw [exec_readerData, execReaderData, onReader_of_outstanding (s := s.quiet) hen hr ha]
      exact if_pos hlen
    rw [pieceDone, show (s.quiet.clearReader p).popRead p = _ from hpop [], hwork] at hdone
    refine ⟨fun hlast => ?_, fun detail hlast => ?_⟩
    · rw [raiseRetried, hlast] at hdone
      exact ending hdone (.refl s.link)
    · obtain ⟨l, hl, hraise⟩ := State.raise_alone (s := { s.setPort p ((s.port p).popped rest) with lines := [] })
        (o := ⟨.cardRetry, none, none, none, some p, detail⟩) (hroute _)
      rw [raiseRetried, hlast] at hdone
      simp only [hfault, hraise] at hdone
      exact ending hdone hl
  · refine hlost [] _ _ ?_
    rw [exec_readerError, execReaderError, onReader_of_outstanding (s := s.quiet) hen hr ha]
    exact if_neg (by rw [hattempt]; decide)
  · refine hlost [.restartReader p] _ _ ?_
    rw [exec_readerTimerExpiry, execReaderTimerExpiry, if_pos ⟨hen, htimer⟩]
    refine (onReader_of_outstanding (s := s.quiet.restartReader p) hen hr ha).trans ?_
    exact if_neg (by rw [hattempt]; decide)

/-- Settles O35: the ruling's branches, and the event that ends a sector read with its one answer. -/
theorem sectorReads : Obligations.SectorReads := ⟨sectorReadRules, sectorReadEnds⟩

end Sys2Proof.Machine

/-! DATA for a piece of a job's unit (R36, R37, R67; O36). -/

namespace Sys2Proof.Machine

/-- DATA that completes a piece at its first attempt: the piece leaves the FIFO and its bytes are delivered. -/
theorem exec_readerData_done {s : State} {p : PortNo} {bytes : List Byte} {r : ReaderRequest} {rest : List ReaderItem}
    (hen : (s.port p).enabled = true) (hr : (s.port p).outstanding = some r) (ha : (s.port p).abandoned = false)
    (hlen : bytes.length = r.item.count * 512) (hlast : r.lastFail = none) (hfifo : (s.port p).fifo = r.item :: rest) :
    exec (.readerData p bytes) s
      = event (deliver p r.item.work bytes (s.quiet.setPort p ((s.port p).popped rest))) := by
  rw [exec_readerData, execReaderData, onReader_of_outstanding (s := s.quiet) hen hr ha]
  refine (if_pos hlen).trans ?_
  rw [pieceDone, raiseRetried, hlast, State.popped_eq s.quiet hfifo]
  rfl

theorem State.modSlot_of_some {s : State} {n : Nat} {y : Slot} (h : s.slot? n = some y) (f : Slot → Slot) :
    s.modSlot n f = { s with ring := { s.ring with held := Table.insert n (f y) s.ring.held } } := by
  simp only [State.modSlot, h]

theorem State.slot_modSlot (s : State) (n : Nat) (f : Slot → Slot) (m : Nat) :
    (s.modSlot n f).slot? m = if m = n then (s.slot? n).map f else s.slot? m := by
  cases hy : s.slot? n with
  | none =>
    have : s.modSlot n f = s := by simp only [State.modSlot, hy]
    rw [this]
    split_ifs with h
    · rw [h, hy]; rfl
    · rfl
  | some y =>
    rw [State.modSlot_of_some hy]
    split_ifs with h
    · rw [h]; exact Table.find_insert_self _ _ _
    · exact Table.find_insert_of_ne h _ _

theorem pieceJoinsTheUnit : PieceJoinsTheUnit := by
  intro s p bytes r rest j c k n y hen hr ha hlen hwork hlast hfifo hmore hfill hy mine
  rw [exec_readerData_done hen hr ha hlen hlast hfifo, hwork]
  let s0 := s.quiet.setPort p ((s.port p).popped rest)
  have hmine : (s0.slot? n).elim [] (·.wanted bytes) = mine := by
    rw [show s0.slot? n = some y from hy]; rfl
  let s1 := (s0.storeBytes n bytes).modJob j fun x => { x with live := x.live.feed mine, summed := x.summed + mine.length }
  have hmoreOf : s1.moreOf p (.job j c k) = true := by
    have hport : s1.port p = (s.port p).popped rest :=
      (State.port_congr (State.modSlot_ports s0 n _) p).trans (State.port_setPort_self s.quiet p _)
    rw [State.moreOf, hport]
    simpa [CardPort.popped] using hmore
  have hdel : deliver p (.job j c k) bytes s0 = s1.still := by
    simp only [deliver, deliverJob, show s0.fillingOf (.job j) = some n from hfill, hmine]
    exact if_pos hmoreOf
  rw [hdel, event_still_eq]
  have hstore : s0.storeBytes n bytes = s0.modSlot n fun y => { y with data := y.data ++ mine } :=
    (State.modSlot_of_some (s := s0) hy fun x => { x with data := x.data ++ x.wanted bytes }).trans
      (State.modSlot_of_some (s := s0) hy fun y => { y with data := y.data ++ mine }).symm
  rw [show s1 = (s0.storeBytes n bytes).modJob j _ from rfl, hstore]
  have hjob : (s0.modSlot n fun y => { y with data := y.data ++ mine }).job j = s.job j :=
    State.job_congr (State.modSlot_jobs s0 n _) j
  rw [State.modJob, hjob]
  rfl

/-! ### The last piece of a unit -/

theorem DestPort.queue_setQueue (x : DestPort) (w v : Writer) (q : List Item) :
    (x.setQueue w q).queue v = if v = w then q else x.queue v := by
  cases w with
  | wq j =>
    cases v with
    | wq i => simp only [DestPort.setQueue, DestPort.queue, Vector.getElem_set_fin, Writer.wq.injEq]
    | cq => rfl
  | cq => cases v <;> rfl

/-- An item of clip `c` queued for its job at each of these destinations (R67). -/
theorem State.dest_queueAtEach {s : State} {c : Nat} {x : Clip} (hx : s.clip? c = some x) (kind : ItemKind) {ds : List DestNo}
    (hds : ds.Nodup) (d : DestNo) :
    (s.queueAtEach c kind ds).dest d = if d ∈ ds
      then (s.dest d).setQueue (.wq x.job) ((s.dest d).queue (.wq x.job) ++ [Item.new c kind]) else s.dest d := by
  simp only [State.queueAtEach, hx]
  clear hx
  induction ds generalizing s with
  | nil => simp
  | cons e ds ih =>
    obtain ⟨he, hds⟩ := List.nodup_cons.1 hds
    rw [List.foldl_cons, ih hds, State.queueItem, State.dest_modDest]
    by_cases hd : d = e
    · subst hd; simp [he]
    · simp [hd]

theorem State.queueAtEach_blocks (s : State) (c : Nat) (kind : ItemKind) (ds : List DestNo) :
    ∃ v, s.queueAtEach c kind ds = { s with dests := v } := by
  unfold State.queueAtEach
  split
  · exact ⟨s.dests, rfl⟩
  · rename_i x _
    induction ds generalizing s with
    | nil => exact ⟨s.dests, rfl⟩
    | cons d ds ih =>
      obtain ⟨v, hv⟩ := ih (s.queueItem d (.wq x.job) (Item.new c kind)) ‹_›
      exact ⟨v, hv⟩

theorem allDests_nodup : allDests.Nodup := by decide

theorem Clip.destsWith_nodup (x : Clip) (p : Copy → Bool) : (x.destsWith p).Nodup := allDests_nodup.filter _

/-- The state with a unit's last bytes in its slot and in the job's live sums. -/
def State.pieceStored (s : State) (j : JobNo) (n : Nat) (y : Slot) (bytes : List Byte) : State :=
  (s.storeBytes n bytes).modJob j fun x =>
    { x with live := x.live.feed (y.wanted bytes), summed := x.summed + (y.wanted bytes).length }

/-- The last piece of a job's unit delivered. -/
theorem deliverJob_ends {s : State} {p : PortNo} {j : JobNo} {c k n : Nat} {y : Slot} {bytes : List Byte}
    (hfill : s.fillingOf (.job j) = some n) (hy : s.slot? n = some y) (hno : ∀ i ∈ (s.port p).fifo, i.work ≠ .job j c k) :
    deliver p (.job j c k) bytes s = endUnit j n c k (s.pieceStored j n y bytes) := by
  have hmore : (s.pieceStored j n y bytes).moreOf p (.job j c k) = false := by
    rw [State.moreOf, show (s.pieceStored j n y bytes).port p = s.port p from
      State.port_congr (State.modSlot_ports s n _) p]
    simpa using hno
  simp only [deliver, deliverJob, hfill, hy, Option.elim_some]
  exact if_neg (show ¬(s.pieceStored j n y bytes).moreOf p (.job j c k) = true by simp [hmore])

section

variable (s : State) (j : JobNo) (n : Nat) (y : Slot) (bytes : List Byte)

theorem State.job_pieceStored (i : JobNo) : (s.pieceStored j n y bytes).job i = if i = j then
    { s.job j with live := (s.job j).live.feed (y.wanted bytes), summed := (s.job j).summed + (y.wanted bytes).length }
    else s.job i := by
  rw [State.pieceStored, State.job_modJob, State.storeBytes, State.job_modSlot, State.job_modSlot]

theorem State.slot_pieceStored (m : Nat) : (s.pieceStored j n y bytes).slot? m = if m = n then
    (s.slot? n).map fun y => { y with data := y.data ++ y.wanted bytes } else s.slot? m :=
  State.slot_modSlot s n (fun x => { x with data := x.data ++ x.wanted bytes }) m

theorem State.pieceStored_blocks : ∃ r js, s.pieceStored j n y bytes = { s with ring := r, jobs := js } := by
  unfold State.pieceStored State.storeBytes State.modSlot
  split
  · exact ⟨s.ring, _, rfl⟩
  · exact ⟨_, _, rfl⟩

theorem State.pieceStored_sound (h : s.ring.Sound) : (s.pieceStored j n y bytes).ring.Sound := State.modSlot_sound h n _

end

theorem unitEndStagesTheSlot : UnitEndStagesTheSlot := by
  intro s p bytes r j c k n x y rest hen hr ha hlen hwork hlast hfifo hno hfill hy hx hxj hread hk hrun hpause hc hsound
    ds mine pos hds
  let s0 := s.quiet.setPort p ((s.port p).popped rest)
  have hfifo0 : (s0.port p).fifo = rest := by rw [State.port_setPort_self]; rfl
  let s1 := s0.pieceStored j n y bytes
  have hexec : exec (.readerData p bytes) s = event (endUnit j n c k s1) := by
    rw [exec_readerData_done hen hr ha hlen hlast hfifo, hwork]
    exact congrArg event (deliverJob_ends (s := s0) hfill hy (by rw [hfifo0]; exact hno))
  obtain ⟨r1, js1, hblocks⟩ := s0.pieceStored_blocks j n y bytes
  have hx1 : s1.clip? c = some x := by change State.clip? (s0.pieceStored j n y bytes) c = _; rw [hblocks]; exact hx
  let s2 := s1.modJob j fun y =>
    { y with readPos := ⟨y.readPos.clip, k + 1⟩, checkpoint := ⟨⟨y.readPos.clip, k + 1⟩, y.live⟩ }
  let s3 := s2.stageSlot n ds
  let s4 := s3.queueAtEach c (.data n) ds
  have hend : endUnit j n c k s1 = s4.andNow [.proceed j] := by
    have hlastUnit : ¬unitCount x.length ≤ k + 1 := by rw [unitCount_eq]; exact not_le.2 hk
    have hplan : s2.planWriting c = ds := by
      rw [State.planWriting, show s2.clip? c = some x from hx1]
    simp only [endUnit, hx1, hlastUnit, decide_false, Bool.false_eq_true, if_false]
    rw [show State.planWriting _ c = ds from hplan, if_neg (by simpa using hds)]
    rfl
  obtain ⟨v4, hv4⟩ := s3.queueAtEach_blocks c (.data n) ds
  have hblocks4 : s4.ports = s0.ports ∧ s4.clips = s.clips ∧ s4.plan = s.plan ∧ s4.manifest = s.manifest
      ∧ s4.faults = s.faults := by
    have h3 : s3.ports = s1.ports ∧ s3.clips = s1.clips ∧ s3.plan = s1.plan ∧ s3.manifest = s1.manifest
        ∧ s3.faults = s1.faults := by simp [s3, s2]
    rw [show s1 = _ from hblocks] at h3
    rw [show s4 = _ from hv4]
    exact h3
  have hjob4 (i : JobNo) : s4.job i = if i = j then
      { s.job j with
        readPos := pos, live := (s.job j).live.feed mine, summed := (s.job j).summed + mine.length
        checkpoint := ⟨pos, (s.job j).live.feed mine⟩ } else s.job i := by
    rw [show s4.job i = s2.job i by rw [show s4 = _ from hv4]; exact State.job_congr (State.stageSlot_jobs s2 n ds) i]
    simp only [s2, State.job_modJob, s1, State.job_pieceStored, if_true]
    split_ifs <;> rfl
  have hslot4 : s4.slot? n = some { y with state := .staged, pending := ds, data := y.data ++ mine } := by
    rw [show s4.slot? n = s3.slot? n by rw [show s4 = _ from hv4]; rfl]
    rw [show s3.slot? n = _ from State.slot_modSlot s2 n _ n, if_pos rfl, show s2.slot? n = s1.slot? n from rfl,
      show s1.slot? n = _ from State.slot_pieceStored s0 j n y bytes n, if_pos rfl, show s0.slot? n = some y from hy]
    rfl
  have hdest4 (d : DestNo) : s4.dest d = if d ∈ ds
      then (s.dest d).setQueue (.wq j) ((s.dest d).queue (.wq j) ++ [Item.new c (.data n)]) else s.dest d := by
    have hx3 : s3.clip? c = some x := (State.clip_congr (State.stageSlot_clips s2 n ds) c).trans hx1
    have hd3 : s3.dest d = s.dest d := by
      rw [show s3.dest d = s1.dest d from State.dest_congr (State.stageSlot_dests s2 n ds) d, show s1 = _ from hblocks]
      rfl
    rw [show s4.dest d = _ from State.dest_queueAtEach hx3 _ (x.destsWith_nodup _) d, hd3, hxj]
  have hsound4 : s4.ring.Sound := by
    rw [show s4.ring = s3.ring by rw [show s4 = _ from hv4]]
    exact State.modSlot_sound (s := s2) (State.pieceStored_sound s0 j n y bytes hsound) n _
  have hj4 := (hjob4 j).trans (if_pos rfl)
  obtain ⟨u, hgo, hasks⟩ := runProceed_reading (s := s4) (j := j) (c := c) (by rw [State.clipAtRead, hj4]; exact hc)
    (by rw [State.clipState?, State.clip_congr hblocks4.2.1, hx, ← hread]; rfl) (by rw [hj4]; exact hpause)
  obtain ⟨t, ht, halike, -⟩ := event_of_effects (w := s4.andNow [.proceed j]) (answers := false) (n := 1) (by omega)
    ((effects_still (a := .proceed j) hgo rfl).trans (effects_nil _ _))
  have hends := halike.ends
  have hplant : t.plan = s4.plan := halike.plan.2
  have hj : t.job j = _ := (hends.job j).trans ((hasks.job j).trans (if_pos rfl))
  rw [hj4] at hj
  have hdest (d : DestNo) : u.dest d = _ := (State.dest_congr hasks.dests d).trans (hdest4 d)
  obtain ⟨-, hclips, hplan, hman, hfaults⟩ := hblocks4
  refine ⟨t, (hexec.trans (congrArg event hend)).trans ht, ?_, by rw [hj], by rw [hj], by rw [hj], by rw [hj]; exact hrun,
    fun d hd => ?_, fun d hd => ?_, fun l hl => ?_, hends.clips.trans (hasks.clips.trans hclips),
    hplant.trans hplan, hends.manifest.trans (hasks.manifest.trans hman), hends.faults.trans (hasks.faults.trans hfaults)⟩
  · rw [hends.slot]; exact hasks.slot hsound4 n _ hslot4
  · rw [hends.queue, hdest, if_pos hd, DestPort.queue_setQueue, if_pos rfl]
  · have := hends.drive d
    rwa [hdest, if_neg hd] at this
  · rw [hends.job, hasks.job, if_neg hl, hjob4, if_neg hl]

/-- Settles O36: a piece's bytes stored, and the unit's end with the job's next step behind it. -/
theorem piecesBecomeUnits : Obligations.PiecesBecomeUnits := ⟨pieceJoinsTheUnit, unitEndStagesTheSlot⟩

end Sys2Proof.Machine

/-! A destination in use is lost (R79–R81, R94; O20). -/

namespace Sys2Proof.Machine

/-- From `s` to `t` destination `d` entered LOST: its request gone and its link restarted, its read lane empty. -/
structure State.Loses (s : State) (d : DestNo) (present : Bool) (capacity : Option Nat) (t : State) : Prop where
  dest : ∃ o, t.dest d = { s.dest d with
    present := present, capacity := capacity, outSinceIn := o, state := .lost, outstanding := none, abandoned := false
    timer := false, rl := ReadLane.empty }
  others : ∀ f, f ≠ d → t.dest f = s.dest f
  ports : t.ports = s.ports
  books : s.SameBooks t
  lines : .restartDrive d ∈ t.lines

theorem enterLost_loses (s : State) (d : DestNo) (detail : Detail) {f : DestPort → DestPort} {present : Bool}
    {capacity : Option Nat} (hf : ∃ o, f (s.dest d) = { s.dest d with present := present, capacity := capacity, outSinceIn := o }) :
    s.Loses d present capacity (enterLost d detail f s).state := by
  obtain ⟨o, ho⟩ := hf
  let g : DestPort → DestPort := fun x => { f x with state := .lost, outstanding := none, abandoned := false, timer := false }
  have hdest (e : DestNo) : (enterLost d detail f s).state.dest e
      = if e = d then { g (s.dest d) with rl := ReadLane.empty } else s.dest e := by
    change (((s.moveDest d g).restartDrive d).modDest d fun x => { x with rl := ReadLane.empty }).dest e = _
    rw [State.dest_modDest, State.dest_restartDrive, State.dest_restartDrive, State.dest_moveDest, State.dest_moveDest,
      if_pos rfl]
    split_ifs <;> rfl
  refine ⟨⟨o, ?_⟩, fun e he => (hdest e).trans (if_neg he), rfl, ⟨rfl, rfl, rfl, rfl, rfl, rfl, rfl⟩, ?_⟩
  · rw [hdest, if_pos rfl, show g (s.dest d) = _ from congrArg
      (fun x : DestPort => { x with state := .lost, outstanding := none, abandoned := false, timer := false }) ho]
  · exact List.mem_append_right _ (List.mem_singleton.2 rfl)

theorem State.liveClipsOn_eq_nil (s : State) {d : DestNo} (h : ¬LiveCopyOn s d) : s.liveClipsOn d = [] := by
  simp only [State.liveClipsOn, List.map_eq_nil_iff, List.filter_eq_nil_iff, Option.any_eq_true, Prod.forall]
  rintro b x hb ⟨k, hk, hlive⟩
  exact h ⟨b, x, k, hb, hk, hlive⟩

/-- The tasks of an entry to LOST, with those behind it. -/
def State.lossTasks (s : State) (d : DestNo) (detail : Detail) (extra : List Task) : List Task :=
  lossAborts d (s.liveClipsOn d) ++ supplyMessages d (s.dest d).rl.jobs ++ .lostEnd d detail :: extra

/-- The commands that lose a destination in use: the entry to LOST, and behind it the capacity of a new drive. -/
theorem exec_loses {s : State} {d : DestNo} {i : Instr} {detail : Detail} {present : Bool} {capacity : Option Nat}
    (h : Loses (s.dest d) d i detail present capacity) (hu : InUse (s.dest d)) :
    ∃ s1 extra p c, exec i s = event ⟨s1, s.lossTasks d detail extra, []⟩ ∧ s.Loses d p c s1
      ∧ ((extra = [] ∧ p = present ∧ c = capacity) ∨ ∃ n, extra = [.newDrive d n] ∧ present = true ∧ capacity = some n) := by
  have enters {detail : Detail} {f : DestPort → DestPort} {s0 : State} {o : Bool} (extra : List Task) {p : Bool} {c : Option Nat}
      (hs0 : s.OnlyDest s0 d { s.dest d with outSinceIn := o })
      (hf : ∃ o, f (s0.dest d) = { s0.dest d with present := p, capacity := c, outSinceIn := o }) :
      (enterLost d detail f s0).now ++ extra = s.lossTasks d detail extra ∧ s.Loses d p c (enterLost d detail f s0).state := by
    obtain ⟨-, hclips, -⟩ := hs0.books
    have hrl : (s0.dest d).rl = (s.dest d).rl := by rw [hs0.self]
    have h := enterLost_loses s0 d detail hf
    obtain ⟨o', ho'⟩ := h.dest
    refine ⟨?_, ⟨o', by rw [ho', hs0.self]⟩, fun e he => (h.others e he).trans (hs0.others e he), h.ports.trans hs0.ports,
      hs0.books.trans h.books, h.lines⟩
    simp only [enterLost, State.andNow, State.lossTasks, State.liveClipsOn, hclips, hrl, List.append_assoc,
      List.singleton_append]
  have hquiet : s.OnlyDest s.quiet d { s.dest d with outSinceIn := (s.dest d).outSinceIn } :=
    ⟨rfl, fun _ _ => rfl, rfl, ⟨rfl, rfl, rfl, rfl, rfl, rfl, rfl⟩⟩
  cases h with
  | out =>
    obtain ⟨htasks, hloses⟩ := enters (detail := .driveRemoved) (f := DestPort.driveGone) [] hquiet ⟨true, rfl⟩
    refine ⟨_, [], _, _, ?_, hloses, .inl ⟨rfl, rfl, rfl⟩⟩
    rw [exec_driveOut, execDriveOut, ← htasks, List.append_nil]
    rcases hu with hu | hu <;> rw [hu] <;> rfl
  | timer ht =>
    obtain ⟨htasks, hloses⟩ := enters (detail := .driveTimeout) (f := id) [] hquiet ⟨(s.dest d).outSinceIn, rfl⟩
    refine ⟨_, [], _, _, ?_, hloses, .inl ⟨rfl, rfl, rfl⟩⟩
    rw [exec_responseTimerExpiry, execResponseTimerExpiry, ← htasks, List.append_nil, ht, (s.isServing_iff d).2 hu]
    rfl
  | newDrive n hn =>
    obtain ⟨hfirst, -⟩ := s.quiet_firstIn d
    obtain ⟨htasks, hloses⟩ := enters (detail := .driveRemoved) (f := id) [.newDrive d n] hfirst ⟨_, rfl⟩
    refine ⟨_, [.newDrive d n], _, _, ?_, hloses, .inr ⟨n, rfl, rfl, rfl⟩⟩
    rw [exec_driveIn, execDriveIn, ← htasks]
    rcases hu with hu | hu <;> rw [hu] <;> exact if_neg hn

/-- The occurrence that ends an entry to LOST. -/
def lostFault (d : DestNo) (detail : Detail) : Occurrence := ⟨.destLost, none, none, some d, none, detail⟩

/-- From `s` to `t` an entry to LOST ended: the arbiter reset, DEST_LOST taken, and the drive that is there recorded. -/
structure State.LossEnds (s : State) (d : DestNo) (detail : Detail) (present : Bool) (capacity : Option Nat) (t : State) :
    Prop where
  dest : t.dest d = { s.dest d with present := present, capacity := capacity, arb := Arbiter.reset }
  others : ∀ e, e ≠ d → t.dest e = s.dest e
  jobs : t.jobs = ((s.resetArbiter d).raise (lostFault d detail)).jobs
  ring : t.ring = ((s.resetArbiter d).raise (lostFault d detail)).ring
  faults : t.faults = s.faults.take (lostFault d detail)
  clips : t.clips = s.clips
  ports : t.ports = s.ports
  manifest : t.manifest = s.manifest

theorem effects_lostEnd {s : State} {d : DestNo} {detail : Detail} {extra : List Task} {present : Bool} {capacity : Option Nat}
    (hextra : (extra = [] ∧ (s.dest d).present = present ∧ (s.dest d).capacity = capacity)
      ∨ ∃ n, extra = [.newDrive d n] ∧ present = true ∧ capacity = some n) :
    ∃ t, s.LossEnds d detail present capacity t ∧ ∀ {n ts u}, effects false n ts t = some u →
      effects false (n + 2) (.lostEnd d detail :: (extra ++ ts)) s = some u := by
  let r := (s.resetArbiter d).raise (lostFault d detail)
  have hr := (s.resetArbiter d).raise_onlyJobs (lostFault d detail)
  have hdest (e : DestNo) : r.dest e = if e = d then { s.dest d with arb := Arbiter.reset } else s.dest e := by
    rw [show r.dest e = (s.resetArbiter d).dest e from State.dest_congr hr.dests e]
    exact State.dest_modDest s d _ e
  have hrun : runLostEnd d detail s = r.still := rfl
  rcases hextra with ⟨rfl, rfl, rfl⟩ | ⟨m, rfl, rfl, rfl⟩
  · refine ⟨r, ⟨(hdest d).trans (if_pos rfl), fun e he => (hdest e).trans (if_neg he), rfl, rfl, hr.faults, hr.clips, hr.ports,
      hr.manifest⟩, fun {n ts u} h => ?_⟩
    exact (effects_still (a := .lostEnd d detail) (n := n + 1) hrun rfl).trans (effects_mono (by omega) h)
  · let t := r.moveDest d fun x => { x with present := true, capacity := some m }
    have hnew : runNewDrive d m r = t.still := rfl
    refine ⟨t, ⟨?_, fun e he => ?_, rfl, rfl, hr.faults, hr.clips, hr.ports, hr.manifest⟩, fun {n ts u} h => ?_⟩
    · rw [State.dest_moveDest, if_pos rfl, hdest, if_pos rfl]
    · rw [State.dest_moveDest, if_neg he, hdest, if_neg he]
    · exact (effects_still (a := .lostEnd d detail) (n := n + 1) hrun rfl).trans
        ((effects_still (a := .newDrive d m) hnew rfl).trans h)

/-- Settles O20: with no live copy and no read job the entry to LOST is followed by its end alone. -/
theorem idleDestinationIsLost : Obligations.IdleDestinationIsLost := by
  intro s d i detail present capacity hl hu hno hrl
  obtain ⟨s1, extra, p, c, hexec, hloses, hextra⟩ := exec_loses hl hu
  have hlive := s.liveClipsOn_eq_nil hno
  obtain ⟨o, hdest1⟩ := hloses.dest
  obtain ⟨u, hends1, heff⟩ := effects_lostEnd (s := s1) (d := d) (detail := detail) (extra := extra) (present := present)
    (capacity := capacity) (hextra.imp_left fun h => ⟨h.1, by rw [hdest1]; exact h.2.1, by rw [hdest1]; exact h.2.2⟩)
  have htasks : s.lossTasks d detail extra = .lostEnd d detail :: extra := by
    simp only [State.lossTasks, hlive, hrl, lossAborts, supplyMessages, List.flatMap_nil, List.filterMap_nil, List.nil_append]
  rw [htasks] at hexec
  obtain ⟨t, ht, halike, -⟩ := event_of_effects (w := ⟨s1, .lostEnd d detail :: extra, []⟩) (answers := false) (n := 2)
    (by omega) (heff (n := 0) (ts := []) (effects_nil _ _))
  have hends := halike.ends
  have hplan : t.plan = s1.plan := halike.plan.2
  have hpending : t.pending = s1.pending := halike.pending.2
  have hlines : s1.lines <+: t.lines := halike.lines.2
  obtain ⟨hj, hc, hr, hp, hm, hf, hpd⟩ := hloses.books
  have hud : u.dest d = { s.dest d with
      present := present, capacity := capacity, outSinceIn := o, state := .lost, outstanding := none, abandoned := false
      timer := false, rl := ReadLane.empty, arb := Arbiter.reset } := by rw [hends1.dest, hdest1]
  have htd : t.dest d = u.dest d := hends.busy d (.inr (by rw [hud]; simp))
  rw [hud] at htd
  have hraise := (s1.resetArbiter d).raise_onlyJobs (lostFault d detail)
  refine ⟨t, hexec.trans ht, by rw [htd], by rw [htd], by rw [htd], by rw [htd], by rw [htd], by rw [htd], by rw [htd],
    by rw [htd], by rw [htd], by rw [htd], hlines.subset hloses.lines, ?_, hends.clips.trans (hends1.clips.trans hc),
    hplan.trans hp, hends.manifest.trans (hends1.manifest.trans hm), ?_, ?_, hpending.trans hpd, fun hroute => ?_,
    fun f hf => ?_, fun q => ?_⟩
  · rw [hends.faults, hends1.faults, hf]; rfl
  · rw [hends.ring, hends1.ring]; exact hraise.held.trans (congrArg Ring.held hr)
  · rw [hends.ring, hends1.ring]; exact hraise.freeList.trans (congrArg Ring.freeList hr)
  · obtain ⟨h1, h2⟩ := State.raise_of_not_hold (s := s1.resetArbiter d) (o := lostFault d detail) (by
      rw [State.resetArbiter_faults, hf]; exact hroute)
    exact ⟨hends.jobs.trans (hends1.jobs.trans (h1.trans hj)), hends.ring.trans (hends1.ring.trans (h2.trans hr))⟩
  · rw [← hloses.others f hf, ← hends1.others f hf]; exact hends.drive f
  · have := hends.card q
    rwa [State.port_congr hends1.ports, State.port_congr hloses.ports] at this

end Sys2Proof.Machine

/-! DONE to a WRITE (R69, R93, R104, R105; O25, O27). -/

namespace Sys2Proof.Machine

theorem Table.erase_insert_self {α : Type} (k : Nat) (v : α) (t : List (Nat × α)) :
    Table.erase k (Table.insert k v t) = Table.erase k t := by
  induction t with
  | nil => simp [Table.insert, Table.erase]
  | cons e t ih =>
    obtain ⟨k', v'⟩ := e
    simp only [Table.insert]
    split_ifs with hlt heq
    · simp [Table.erase]
    · subst heq; simp [Table.erase]
    · simp [Table.erase, if_neg heq, ih]

/-! ### A WRITE done -/

/-- The state after a data WRITE of the copy `k` of clip `c` (record `x`) on `d`, from slot `n`: the item gone and the
units written counted, the lock given after the last, and `d` out of the slot's pending set. -/
def State.unitWritten (s : State) (d : DestNo) (w : Writer) (c n : Nat) (rest : List Item) (x : Clip) (k : Copy) : State :=
  ((s.quiet.setDest d
      (let z := (cleared (s.dest d)).setQueue w rest
       if k.written + 1 = clipUnits x.length then { z with arb := { z.arb with lock := some (w, c) } } else z)).setClip
    c { x with copies := x.copies.set d (some { k with written := k.written + 1 }) }).modSlot
    n fun y => { y with pending := y.pending.filter (· ≠ d) }

section

variable {s : State} {d : DestNo} {w : Writer} {c a n : Nat} {i : Item} {rest : List Item} {x : Clip} {k : Copy}

theorem State.stillWriting_of {s : State} (hk : s.copy? c d = some k) (hst : k.state = .writing) (ha : k.attempt = a) :
    s.stillWriting c d a = true := by simp [State.stillWriting, hk, hst, ha]

theorem State.modCopy_of_some {s : State} (hx : s.clip? c = some x) (hk : x.copies[d] = some k) (f : Copy → Copy) :
    s.modCopy c d f = s.setClip c { x with copies := x.copies.set d (some (f k)) } := by
  simp only [State.modCopy, State.copy_some_iff.2 ⟨x, hx, hk⟩, State.setCopy, State.modClip, hx]

theorem State.popItem_setDest (s : State) {x : DestPort} (hq : x.queue w = i :: rest) :
    (s.setDest d x).popItem d w = s.setDest d (x.setQueue w rest) := by
  rw [State.popItem, State.modDest_setDest, hq]; rfl

theorem dataDone_eq (hq : (s.dest d).queue w = i :: rest) (hx : s.clip? c = some x) (hk : x.copies[d] = some k)
    (hst : k.state = .writing) (ha : k.attempt = a) {y : Slot} (hy : s.slot? n = some y) :
    dataDone d w c a n (s.quiet.setDest d (cleared (s.dest d)))
      = if (y.pending.filter (· ≠ d)).isEmpty then (s.unitWritten d w c n rest x k).andNow [.freeSlots [n]]
        else (s.unitWritten d w c n rest x k).still := by
  let s0 := s.quiet.setDest d (cleared (s.dest d))
  let z := (cleared (s.dest d)).setQueue w rest
  let more : Copy := { k with written := k.written + 1 }
  let x1 : Clip := { x with copies := x.copies.set d (some more) }
  have hpop : s0.popItem d w = s.quiet.setDest d z := State.popItem_setDest _ (by rw [queue_cleared, hq])
  have hs1 : ((s0.popItem d w).modCopy c d fun k => { k with written := k.written + 1 })
      = (s.quiet.setDest d z).setClip c x1 := by
    rw [hpop]
    exact State.modCopy_of_some (s := s.quiet.setDest d z) hx hk _
  have hcopy : ((s.quiet.setDest d z).setClip c x1).copy? c d = some more :=
    State.copy_some_iff.2 ⟨x1, by rw [State.clip_setClip, if_pos rfl], by simp [x1]⟩
  have hslot : (s.unitWritten d w c n rest x k).slot? n = some { y with pending := y.pending.filter (· ≠ d) } := by
    rw [State.unitWritten, State.slot_modSlot, if_pos rfl]
    exact congrArg (Option.map _) hy
  let u : State := { s.quiet.setClip c x1 with
    ring := { s.ring with held := Table.insert n { y with pending := y.pending.filter (· ≠ d) } s.ring.held } }
  have hs2 : ((s.quiet.setDest d z).setClip c x1).modSlot n (fun y => { y with pending := destErase d y.pending })
      = u.setDest d z := State.modSlot_of_some (s := (s.quiet.setDest d z).setClip c x1) hy _
  have hwritten : s.unitWritten d w c n rest x k
      = u.setDest d (if k.written + 1 = clipUnits x.length then { z with arb := { z.arb with lock := some (w, c) } } else z) :=
    State.modSlot_of_some (s := (s.quiet.setDest d _).setClip c x1) hy _
  obtain ⟨units, hunits⟩ : ∃ units, unitCount x.length = units := ⟨_, rfl⟩
  rw [← unitCount_eq, hunits] at hwritten
  have hs3 : (if decide (more.written = units) = true then (u.setDest d z).setLock d (some (w, c))
      else u.setDest d z) = s.unitWritten d w c n rest x k := by
    rw [hwritten, State.setLock, State.modDest_setDest]
    by_cases hlast : k.written + 1 = units
    · rw [if_pos (decide_eq_true hlast), if_pos hlast]
    · rw [if_neg (by simpa using hlast), if_neg hlast]
  have hstill : s0.stillWriting c d a = true :=
    State.stillWriting_of (State.copy_some_iff.2 ⟨x, hx, hk⟩) hst ha
  change dataDone d w c a n s0 = _
  simp only [dataDone, show s0.clip? c = some x from hx, hstill, hs1, hcopy, hs2, hunits, Option.any_some, hs3, hslot,
    if_true]

theorem exec_driveDone_data {bytes : List Byte} {cmd : DriveCmd} (ho : (s.dest d).outstanding = some ⟨cmd, .data w c a n⟩)
    (hab : (s.dest d).abandoned = false) :
    exec (.driveDone d bytes) s = event (dataDone d w c a n (s.quiet.setDest d (cleared (s.dest d)))) := by
  rw [exec_driveDone, onResponse_of_outstanding ho hab]; rfl

end

theorem dataWriteDone : DataWriteDone := by
  intro s d bytes cmd w c a n i rest x k y ho hab hq hx hk hst ha hy hpend
  rw [exec_driveDone_data ho hab, dataDone_eq hq hx hk hst ha hy, if_neg (by simpa using hpend), event_still_eq]
  rfl

/-- What a data WRITE done leaves of each block. -/
theorem State.unitWritten_blocks (s : State) (d : DestNo) (w : Writer) (c n : Nat) (rest : List Item) (x : Clip) (k : Copy) :
    (s.unitWritten d w c n rest x k).jobs = s.jobs ∧ (s.unitWritten d w c n rest x k).ports = s.ports
      ∧ (s.unitWritten d w c n rest x k).plan = s.plan ∧ (s.unitWritten d w c n rest x k).manifest = s.manifest
      ∧ (s.unitWritten d w c n rest x k).faults = s.faults := by simp [State.unitWritten]

theorem State.dest_unitWritten (s : State) (d : DestNo) (w : Writer) (c n : Nat) (rest : List Item) (x : Clip) (k : Copy)
    (f : DestNo) : (s.unitWritten d w c n rest x k).dest f = if f = d
      then { (cleared (s.dest d)).setQueue w rest with arb := { (s.dest d).arb with
        lock := if k.written + 1 = clipUnits x.length then some (w, c) else (s.dest d).arb.lock } }
      else s.dest f := by
  rw [State.unitWritten, State.dest_modSlot]
  by_cases hf : f = d
  · rw [if_pos hf, hf]
    refine (State.dest_setDest_self s.quiet d _).trans ?_
    have harb : ((cleared (s.dest d)).setQueue w rest).arb = (s.dest d).arb := by cases w <;> rfl
    dsimp only
    by_cases hlast : k.written + 1 = clipUnits x.length
    · rw [if_pos hlast, if_pos hlast, harb]
    · rw [if_neg hlast, if_neg hlast, ← harb]
  · rw [if_neg hf]
    exact State.dest_setDest_of_ne s.quiet (Ne.symm hf) _

theorem State.slot_unitWritten (s : State) (d : DestNo) (w : Writer) (c n : Nat) (rest : List Item) (x : Clip) (k : Copy)
    (m : Nat) : (s.unitWritten d w c n rest x k).slot? m = if m = n
      then (s.slot? n).map fun y => { y with pending := y.pending.filter (· ≠ d) } else s.slot? m := by
  rw [State.unitWritten, State.slot_modSlot]; rfl

theorem State.clip_unitWritten (s : State) (d : DestNo) (w : Writer) (c n : Nat) (rest : List Item) (x : Clip) (k : Copy)
    (b : Nat) : (s.unitWritten d w c n rest x k).clip? b = if b = c
      then some { x with copies := x.copies.set d (some { k with written := k.written + 1 }) } else s.clip? b := by
  rw [State.unitWritten, State.clip_modSlot, State.clip_setClip]; rfl

theorem State.lane_unitWritten (s : State) (d : DestNo) (w : Writer) (c n : Nat) (rest : List Item) (x : Clip) (k : Copy)
    (f : DestNo) : ((s.unitWritten d w c n rest x k).dest f).lane = (s.dest f).lane := by
  rw [State.dest_unitWritten]
  by_cases h : f = d
  · rw [if_pos h, h]; cases w <;> rfl
  · rw [if_neg h]

theorem State.unitWritten_ring (s : State) (d : DestNo) (w : Writer) (c n : Nat) (rest : List Item) (x : Clip) (k : Copy)
    {y : Slot} (hy : s.slot? n = some y) : (s.unitWritten d w c n rest x k).ring = { s.ring with
      held := Table.insert n { y with pending := y.pending.filter (· ≠ d) } s.ring.held } := by
  rw [State.unitWritten]
  exact congrArg State.ring (State.modSlot_of_some (s := (s.quiet.setDest d _).setClip c _) (y := y) hy _)

/-! ### The slot's last writer -/

/-- A DONE to the last WRITE a slot waited for frees it. -/
theorem exec_lastWrite {s : State} {d : DestNo} {bytes : List Byte} {cmd : DriveCmd} {w : Writer} {c a n : Nat} {i : Item}
    {rest : List Item} {x : Clip} {k : Copy} {y : Slot} (ho : (s.dest d).outstanding = some ⟨cmd, .data w c a n⟩)
    (hab : (s.dest d).abandoned = false) (hq : (s.dest d).queue w = i :: rest) (hx : s.clip? c = some x)
    (hk : x.copies[d] = some k) (hst : k.state = .writing) (ha : k.attempt = a) (hy : s.slot? n = some y)
    (hpend : y.pending.filter (· ≠ d) = []) :
    exec (.driveDone d bytes) s = event ((s.unitWritten d w c n rest x k).andNow [.freeSlots [n]]) := by
  rw [exec_driveDone_data ho hab, dataDone_eq hq hx hk hst ha hy, if_pos (by simpa using hpend)]

theorem State.length_ownedIn_one {s : State} {n : Nat} {y : Slot} (hy : s.slot? n = some y) (r : Requester) :
    (s.ownedIn r [n]).length = if y.owner = r then 1 else 0 := by
  simp only [State.ownedIn, List.filter_cons, hy, Option.any_some, decide_eq_true_eq]
  split_ifs <;> rfl

theorem NotStalled.congr {s t : State} {r : Requester} (h : NotStalled s r) (hj : t.jobs = s.jobs)
    (hd : ∀ f, (t.dest f).lane = (s.dest f).lane) : NotStalled t r := by
  cases r with
  | job j => simpa only [NotStalled, State.job_congr hj] using h
  | lane f => simpa only [NotStalled, hd] using h

theorem lastWriterFreesTheSlot : LastWriterFreesTheSlot := by
  intro s d bytes cmd w c a n i rest x k y ho hab hq hx hk hst ha hy hpend hmute hwait fewer
  let s1 := s.unitWritten d w c n rest x k
  obtain ⟨hjobs, hports, hplan, hman, hfaults⟩ := s.unitWritten_blocks d w c n rest x k
  have hring := s.unitWritten_ring d w c n rest x k hy
  have hy1 : s1.slot? n = some { y with pending := y.pending.filter (· ≠ d) } := by
    rw [State.slot_unitWritten, if_pos rfl, hy]; rfl
  have hfreed := State.freeAll_freed [n] (by simp) s1
  have hcount (r : Requester) : (s1.ownedIn r [n]).length = if y.owner = r then 1 else 0 := State.length_ownedIn_one hy1 r
  obtain ⟨t, ht, halike, -⟩ := event_of_effects (w := s1.andNow [.freeSlots [n]]) (answers := false) (n := 0 + 1 + 3 * 1)
    (by omega) (effects_freeSlots_mute [n] (k := 0) (ts := []) (by exact (congrArg Ring.waitList hring).trans hwait) (fun m hm z hz => by
      obtain rfl := List.mem_singleton.1 hm
      obtain rfl := Option.some.inj (hz.symm.trans hy1)
      have hns : NotStalled s1 y.owner := NotStalled.congr hmute hjobs (s.lane_unitWritten d w c m rest x k)
      cases ho : y.owner with
      | job j => rw [ho] at hns; exact .inr hns
      | lane f => rw [ho] at hns; exact .inr hns) (effects_nil _ _))
  have hends : (s1.freeAll [n]).Ends t := halike.ends
  have hdest (f : DestNo) : (s1.freeAll [n]).dest f = { s1.dest f with lane := fewer f } := by
    rw [hfreed.dest, hcount, s.lane_unitWritten d w c n rest x k f]
    split_ifs with hown
    · simp only [fewer, hown, if_true]
    · simp only [fewer, hown, if_false, Nat.sub_zero]
  have hdrive (f : DestNo) : ({ s1.dest f with lane := fewer f } : DestPort).SameDrive (t.dest f) := hdest f ▸ hends.drive f
  have hself : s1.dest d = _ := (s.dest_unitWritten d w c n rest x k d).trans (if_pos rfl)
  have hcopy (c' : Nat) (d' : DestNo) : t.copy? c' d' = s1.copy? c' d' :=
    (hends.copy c' d').trans (State.copy_congr hfreed.clips c' d')
  have hqueue (v : Writer) : (t.dest d).queue v = if v = w then rest else (s.dest d).queue v := by
    rw [hends.queue, hdest, ← queue_cleared (s.dest d) v, ← DestPort.queue_setQueue, hself]
    cases v <;> rfl
  refine ⟨t, (exec_lastWrite ho hab hq hx hk hst ha hy hpend).trans ht, ?_, fun l => ?_, ?_, fun c' d' hne => ?_, ?_,
    fun v hv => ?_, ?_, ?_, ?_, fun f hf => ?_, fun p => ?_, ?_, ?_, ?_⟩
  · have h : (s1.freeAll [n]).ring = { s1.ring with freeList := s1.ring.freeList ++ [n], held := Table.erase n s1.ring.held } := by
      rw [show s1.freeAll [n] = s1.freeSlot n from rfl, State.freeSlot_of_some hy1, State.modHeld_ring]
    rw [hends.ring, h, show s1.ring = _ from hring, Table.erase_insert_self, ← hwait]
  · rw [hends.job, hfreed.job, hcount, State.job_congr hjobs]
    split_ifs <;> rfl
  · rw [hcopy]
    exact State.copy_some_iff.2 ⟨_, (s.clip_unitWritten d w c n rest x k c).trans (if_pos rfl), by simp⟩
  · rw [hcopy, State.copy?, s.clip_unitWritten d w c n rest x k]
    split_ifs with hc
    · subst hc
      have hd : d' ≠ d := fun h => hne ⟨rfl, h⟩
      rw [State.copy?, hx]
      exact (Vector.getElem_set_fin x.copies d d' _).trans (if_neg hd)
    · rfl
  · rw [hqueue, if_pos rfl]
  · rw [hqueue, if_neg hv]
  · rw [hends.binding, hdest, hself]; cases w <;> rfl
  · rw [hends.lane, hdest]
  · rw [hends.lock, hdest, hself]
  · have := hdrive f
    rwa [show s1.dest f = s.dest f from (s.dest_unitWritten d w c n rest x k f).trans (if_neg hf)] at this
  · have := hends.card p
    rwa [State.port_congr hfreed.ports, State.port_congr hports] at this
  · exact halike.plan.2.trans hplan
  · exact hends.manifest.trans (hfreed.manifest.trans hman)
  · exact hends.faults.trans (hfreed.faults.trans hfaults)

/-- Settles O25: DONE to a data WRITE, while others need its slot and as the last that did. -/
theorem dataWritesAreCounted : Obligations.DataWritesAreCounted := ⟨dataWriteDone, lastWriterFreesTheSlot⟩

/-! ### The trailer written -/

theorem Table.insert_insert_self {α : Type} (k : Nat) (v w : α) (t : List (Nat × α)) :
    Table.insert k v (Table.insert k w t) = Table.insert k v t := by
  induction t with
  | nil => simp [Table.insert]
  | cons e t ih =>
    obtain ⟨k', v'⟩ := e
    by_cases hlt : k < k'
    · simp [Table.insert, hlt]
    · by_cases heq : k = k'
      · subst heq; simp [Table.insert]
      · simp [Table.insert, hlt, heq, ih]

theorem State.setClip_setClip (s : State) (c : Nat) (x y : Clip) : (s.setClip c x).setClip c y = s.setClip c y := by
  simp only [State.setClip, Table.insert_insert_self]

/-- A destination changed after it and a clip were written. -/
theorem State.modDest_setClip_setDest (s : State) (c : Nat) (d : DestNo) (x : Clip) (z : DestPort) (f : DestPort → DestPort) :
    ((s.setDest d z).setClip c x).modDest d f = (s.setDest d (f z)).setClip c x :=
  congrArg (fun t : State => t.setClip c x) (s.modDest_setDest d z f)

/-- Settles O27: the lock ends, and the VERIFY job joins the read lane, active at once on an idle one. -/
theorem trailerDoneStartsVerification : Obligations.TrailerDoneStartsVerification := by
  intro s d bytes cmd w c a i rest x k ho hab hq hx hk hst ha hidle idle z
  let s0 := s.quiet.setDest d (cleared (s.dest d))
  have hexec : exec (.driveDone d bytes) s = event (trailerDone d w c a s0) := by
    rw [exec_driveDone, onResponse_of_outstanding ho hab]; rfl
  have hz : z.rl = (s.dest d).rl := by cases w <;> rfl
  have hpop : (s0.popItem d w).setLock d none = s.quiet.setDest d { z with arb := { z.arb with lock := none } } := by
    rw [State.popItem_setDest s.quiet (x := cleared (s.dest d)) (by rw [queue_cleared, hq]), State.setLock,
      State.modDest_setDest]
  let x1 : Clip := { x with copies := x.copies.set d (some { k with state := .written }) }
  let z1 : DestPort := { z with arb := { z.arb with lock := none }, rl := { z.rl with jobs := z.rl.jobs ++ [.verify c] } }
  let s2 := (s.quiet.setDest d z1).setClip c x1
  have hdone : trailerDone d w c a s0 = (s2.activateRead d).still := by
    have hmod := State.modCopy_of_some (s := s.quiet.setDest d { z with arb := { z.arb with lock := none } }) hx hk
      fun k => { k with state := .written }
    rw [trailerDone, if_pos (State.stillWriting_of (s := s0) (State.copy_some_iff.2 ⟨x, hx, hk⟩) hst ha), hpop, hmod,
      State.appendRead]
    exact congrArg (fun t : State => (t.activateRead d).still) (State.modDest_setClip_setDest s.quiet c d x1 _ _)
  have hdest : s2.dest d = z1 := State.dest_setDest_self s.quiet d z1
  rw [hexec, hdone, event_still_eq]
  congr 2
  cases hact : (s.dest d).rl.active with
  | some r =>
    have hidle' : idle = false := by simp only [idle, hact, Option.isNone_some]
    have : s2.activateRead d = s2 := by rw [State.activateRead, if_pos (by rw [hdest]; simp [z1, hz, hact])]
    rw [this, hidle']
    rfl
  | none =>
    have hidle' : idle = true := by simp only [idle, hact, Option.isNone_none]
    have hjobs : z1.rl.jobs = [.verify c] := by
      change z.rl.jobs ++ [.verify c] = _
      rw [hz, hidle.1 hact]; rfl
    let z2 : DestPort := { z1 with rl := { z1.rl with active := some ⟨.flush, some State.flushCmd, 0⟩ } }
    have hset : s2.setActive d (some ⟨.flush, some State.flushCmd, 0⟩) = (s.quiet.setDest d z2).setClip c x1 :=
      State.modDest_setClip_setDest s.quiet c d x1 z1 _
    have hmod := State.modCopy_of_some (s := (s.quiet.setDest d z2).setClip c x1) (c := c) (d := d) (x := x1)
      (k := { k with state := .written }) (by rw [State.clip_setClip, if_pos rfl])
      ((Vector.getElem_set_fin x.copies d d _).trans (if_pos rfl)) fun k => { k with state := .verifying }
    have hactive : (s2.dest d).rl.active.isSome = false := by rw [hdest]; simp [z1, hz, hact]
    rw [State.activateRead, if_neg (by simp [hactive]), hdest, hidle']
    simp only [hjobs, hset, hmod]
    rw [State.setClip_setClip]
    simp only [x1, Vector.set_set]
    rfl

end Sys2Proof.Machine

/-! A freed slot serves the head of the wait list, or returns to its owner (R61, R62, R65; O26). -/

namespace Sys2Proof.Machine

theorem Table.mem_erase {α : Type} {k : Nat} {e : Nat × α} {t : List (Nat × α)} (h : e ∈ Table.erase k t) : e ∈ t := by
  induction t with
  | nil => exact h
  | cons e' t ih =>
    simp only [Table.erase] at h
    split_ifs at h
    · exact List.mem_cons_of_mem _ (ih h)
    · exact (List.mem_cons.1 h).elim (fun h => h ▸ List.mem_cons_self) fun h => List.mem_cons_of_mem _ (ih h)

theorem Table.mem_insert {α : Type} {k : Nat} {v : α} {e : Nat × α} {t : List (Nat × α)} (h : e ∈ Table.insert k v t) :
    e = (k, v) ∨ e ∈ t := by
  induction t with
  | nil => exact .inl (List.mem_singleton.1 h)
  | cons e' t ih =>
    simp only [Table.insert] at h
    split_ifs at h
    · exact List.mem_cons.1 h
    · exact (List.mem_cons.1 h).imp_right (List.mem_cons_of_mem _)
    · exact (List.mem_cons.1 h).elim (fun h => .inr (h ▸ List.mem_cons_self)) fun h => (ih h).imp_right (List.mem_cons_of_mem _)

/-- No slot is being filled for a requester. -/
def State.FillsNone (s : State) (r : Requester) : Prop := ∀ m y, (m, y) ∈ s.ring.held → ¬(y.state = .filling ∧ y.owner = r)

theorem State.FillsNone.atBoundary {s : State} {j : JobNo} (h : s.FillsNone (.job j)) : s.atBoundary j = true := by
  simp only [State.atBoundary, State.fillingOf, Option.isNone_iff_eq_none, Option.map_eq_none_iff, List.find?_eq_none,
    decide_eq_true_eq, Prod.forall]
  exact h

/-- From `s` to `t` slot `n` of job `j` was written for the last time, by `d`, and freed. -/
structure State.LastWritten (s : State) (d : DestNo) (n : Nat) (j : JobNo) (t : State) : Prop where
  job : ∀ i, t.job i = if i = j then { s.job j with held := (s.job j).held - 1 } else s.job i
  slot : ∀ m, t.slot? m = if m = n then none else s.slot? m
  freeList : t.ring.freeList = s.ring.freeList ++ [n]
  waitList : t.ring.waitList = s.ring.waitList
  held : ∀ e ∈ t.ring.held, e ∈ s.ring.held
  clip : ∀ b z, s.clip? b = some z → ∃ copies, t.clip? b = some { z with copies := copies }
  dest : ∀ f, f ≠ d → t.dest f = s.dest f
  ports : t.ports = s.ports
  plan : t.plan = s.plan
  manifest : t.manifest = s.manifest
  faults : t.faults = s.faults

theorem State.LastWritten.fillsNone {s t : State} {d : DestNo} {n : Nat} {j : JobNo} (h : s.LastWritten d n j t) {r : Requester}
    (hr : s.FillsNone r) : t.FillsNone r := fun m y hm => hr m y (h.held _ hm)

/-- What follows a last WRITE done: its slot freed, the head of the wait list served, and the owner, when it waits at its
quota, asking again. -/
theorem LastWrite.exec {s : State} {d : DestNo} {bytes : List Byte} {w : Writer} {c n : Nat} {j : JobNo}
    (h : LastWrite s d w c n j) :
    ∃ (s1 t : State), s.LastWritten d n j t ∧ s1.plan = s.plan
      ∧ exec (.driveDone d bytes) s = event (s1.andNow [.freeSlots [n]])
      ∧ (NotStalled s (.job j) → runFreeSlots [n] s1 = t.andNow [.serveWaiting, .freeSlots []])
      ∧ (AtQuota s j → runFreeSlots [n] s1 = t.andNow [.serveWaiting, .askAgain (.job j), .freeSlots []]) := by
  obtain ⟨cmd, a, i, rest, x, k, y, ho, hab, hq, hx, hk, hst, ha, hy, hpend, hown⟩ := h
  let s1 := s.unitWritten d w c n rest x k
  obtain ⟨hjobs, hports, hplan, hman, hfaults⟩ := s.unitWritten_blocks d w c n rest x k
  have hring := s.unitWritten_ring d w c n rest x k hy
  have hy1 : s1.slot? n = some { y with pending := y.pending.filter (· ≠ d) } := by
    rw [State.slot_unitWritten, if_pos rfl, hy]; rfl
  have hwaits : s1.ring.waitList = s.ring.waitList := by rw [show s1.ring = _ from hring]
  have hfreed := State.freeAll_freed [n] (by simp) s1
  have hcount (r : Requester) : (s1.ownedIn r [n]).length = if y.owner = r then 1 else 0 := State.length_ownedIn_one hy1 r
  refine ⟨s1, s1.freeSlot n, ⟨fun l => ?_, fun m => ?_, ?_, ?_, fun e he => ?_, fun b z hz => ?_, fun f hf => ?_,
    hfreed.ports.trans hports, hfreed.plan.trans hplan, hfreed.manifest.trans hman, hfreed.faults.trans hfaults⟩, hplan,
    exec_lastWrite ho hab hq hx hk hst ha hy hpend, fun h => ?_, fun h => ?_⟩
  · rw [show (s1.freeSlot n).job l = _ from hfreed.job l, hcount, State.job_congr hjobs, hown]
    by_cases hl : j = l
    · rw [if_pos (by rw [hl]), if_pos hl.symm, hl]
    · rw [if_neg (by simpa using hl), if_neg (Ne.symm hl)]; rfl
  · rw [show (s1.freeSlot n).slot? m = _ from hfreed.slot m]
    simp only [List.mem_singleton, s1, State.slot_unitWritten]
    split_ifs <;> rfl
  · rw [State.freeSlot_of_some hy1, State.modHeld_ring, show s1.ring = _ from hring]
  · exact hfreed.waitList.trans hwaits
  · rw [State.freeSlot_of_some hy1, State.modHeld_ring, show s1.ring = _ from hring] at he
    dsimp only at he
    rw [Table.erase_insert_self] at he
    exact Table.mem_erase he
  · rw [show (s1.freeSlot n).clip? b = _ from State.clip_congr hfreed.clips b, s.clip_unitWritten d w c n rest x k b]
    split_ifs with hb
    · subst hb
      obtain rfl := Option.some.inj (hx.symm.trans hz)
      exact ⟨_, rfl⟩
    · exact ⟨z.copies, hz⟩
  · rw [show (s1.freeSlot n).dest f = _ from hfreed.dest f, hcount, hown, if_neg (by simp)]
    exact (s.dest_unitWritten d w c n rest x k f).trans (if_neg hf)
  · have hlim : s1.heldAtLimit (.job j) = false := by
      simp only [State.heldAtLimit, show s1.job j = s.job j from State.job_congr hjobs j]
      simp only [NotStalled] at h
      by_cases hrun : (s.job j).state = .running
      · simp [Nat.not_le.2 (h hrun)]
      · simp [hrun]
    simp only [runFreeSlots, hy1, hown, hlim, Bool.false_eq_true, if_false, List.nil_append, List.cons_append]
  · obtain ⟨hrun, -, hheld, -, hfill, hnot⟩ := h
    have hbound : s1.atBoundary j = true := State.FillsNone.atBoundary fun m z hm => by
      rw [show s1.ring = _ from hring] at hm
      rcases Table.mem_insert hm with h | h
      · obtain ⟨rfl, rfl⟩ := Prod.mk.inj h
        exact hfill m y (Table.mem_of_find hy)
      · exact hfill m z h
    have hlim : s1.heldAtLimit (.job j) = true := by
      simp [State.heldAtLimit, show s1.job j = s.job j from State.job_congr hjobs j, hrun, hheld, hbound, hwaits, hnot]
    simp only [runFreeSlots, hy1, hown, hlim, if_true, List.nil_append, List.cons_append]

/-- The state with another wait list. -/
def State.withWaits (s : State) (r : List Requester) : State := { s with ring := { s.ring with waitList := r } }

/-! ### A job is served -/

/-- From `s` to `t` job `l` was given slot `n`, at the head of the free list, for unit `u` of clip `b` (record `z`), and
its pieces joined the FIFO of `q`. -/
structure State.Serves (s : State) (l : JobNo) (n b : Nat) (z : Clip) (q : PortNo) (t : State) : Prop where
  slot : ∀ m, t.slot? m = if m = n then some (freshSlot (.job l) b z (s.job l).readPos.unit) else s.slot? m
  freeList : t.ring.freeList = s.ring.freeList.tail
  waitList : t.ring.waitList = s.ring.waitList
  held : ∀ e ∈ t.ring.held, e = (n, freshSlot (.job l) b z (s.job l).readPos.unit) ∨ e ∈ s.ring.held
  job : ∀ i, t.job i = if i = l then { s.job l with held := (s.job l).held + 1 } else s.job i
  port : ∀ p, t.port p = if p = q then
      { s.port q with
        fifo := (s.port q).fifo
          ++ (unitPieces z (s.job l).readPos.unit).map fun r => ⟨.job l b (s.job l).readPos.unit, r.1, r.2⟩ }
    else s.port p
  dests : t.dests = s.dests
  clips : t.clips = s.clips
  manifest : t.manifest = s.manifest
  faults : t.faults = s.faults

theorem State.askForJob_serves {s : State} {l : JobNo} {n b : Nat} {rest : List Nat} {x z : Clip} {q : PortNo}
    (hrun : (s.job l).state = .running) (hq : (s.job l).boundPort = some q) (hfill : s.FillsNone (.job l))
    (hheld : (s.job l).held < (s.job l).quota) (hfree : s.ring.freeList = n :: rest)
    (hb : (s.job l).clips[(s.job l).readPos.clip]? = some b) (hx : s.clip? b = some x)
    (hz : ∃ copies, x = { z with copies := copies }) : s.Serves l n b z q (s.askForJob l) := by
  obtain ⟨copies, rfl⟩ := hz
  let x : Clip := { z with copies := copies }
  have hmay : s.mayRead l = true := by simp [State.mayRead, hrun, hq, hfill.atBoundary]
  have hgiven := State.askForJob_given hmay hheld hfree hb hx hq
  let g := s.given (.job l) n rest (freshSlot (.job l) b x (s.job l).readPos.unit)
  obtain ⟨hports, hclips, hdests, hman, hfaults, hring⟩ :=
    s.given_blocks l n rest (freshSlot (.job l) b x (s.job l).readPos.unit)
  have hwaits : g.ring.waitList = s.ring.waitList := by rw [show g.ring = _ from hring]
  rw [hgiven]
  refine ⟨fun m => ?_, ?_, hwaits, fun e he => Table.mem_insert he, fun i => ?_, fun p => ?_, hdests, hclips, hman,
    hfaults⟩
  · split_ifs with h
    · subst h; exact Table.find_insert_self _ _ _
    · exact Table.find_insert_of_ne h _ _
  · exact (congrArg Ring.freeList hring).trans (by rw [hfree]; rfl)
  · refine (s.job_given (.job l) n rest _ i).trans ?_
    by_cases hi : i = l
    · rw [if_pos (by rw [hi]), if_pos hi, hi]
    · rw [if_neg (by simpa using Ne.symm hi), if_neg hi]
  · by_cases hp : p = q
    · subst hp; rw [if_pos rfl]; exact State.port_modPort_self _ _ _
    · rw [if_neg hp]; exact State.port_modPort_of_ne _ (Ne.symm hp) _

theorem freedSlotServesAJob : FreedSlotServesAJob := by
  intro s d bytes w c n b j l q z wait hlast hfree hwait hnotin hlj hrun hq hheld hfill hb hz hown u
  obtain ⟨s1, v, hv, hplan, hexec, hmute, hquota⟩ := LastWrite.exec (bytes := bytes) hlast
  let v0 := v.leaveWait (.job l)
  have hjobl : v.job l = s.job l := (hv.job l).trans (if_neg hlj)
  have hwait0 : v0.ring.waitList = wait := by
    change v.ring.waitList.filter (· ≠ .job l) = wait
    rw [hv.waitList, hwait]
    simpa using fun a ha (h : a = _) => hnotin (by rwa [h] at ha)
  obtain ⟨copies, hcopies⟩ := hv.clip b z hz
  have hserve : runServeWaiting v = (v0.askForJob l).still := by
    simp only [runServeWaiting, hv.waitList, hwait, askFor]; rfl
  have hs : v0.Serves l n b z q (v0.askForJob l) := State.askForJob_serves (x := { z with copies := copies }) (rest := [])
    (by rw [show v0.job l = _ from hjobl]; exact hrun) (by rw [show v0.job l = _ from hjobl]; exact hq)
    (hv.fillsNone hfill) (by rw [show v0.job l = _ from hjobl]; exact hheld) (by rw [show v0.ring.freeList = _ from hv.freeList, hfree]; rfl)
    (by rw [show v0.job l = _ from hjobl]; exact hb) hcopies ⟨copies, rfl⟩
  let v1 := v0.askForJob l
  have hclear : v1.ring.freeList = [] := by rw [hs.freeList, show v0.ring.freeList = _ from hv.freeList, hfree]; rfl
  have hjob1 (i : JobNo) : v1.job i = if i = l then { s.job l with held := (s.job l).held + 1 }
      else if i = j then { s.job j with held := (s.job j).held - 1 } else s.job i := by
    rw [hs.job, show v0.job l = _ from hjobl, show v0.job i = _ from hv.job i]
  let fed := (s.port q).fifo ++ (unitPieces z u).map fun r => ⟨.job l b u, r.1, r.2⟩
  have hport1 (p : PortNo) : v1.port p = if p = q then { s.port q with fifo := fed } else s.port p := by
    rw [hs.port, show v0.job l = _ from hjobl, show v0.port = s.port from funext fun p => State.port_congr hv.ports p]
  have done {r : List Requester} (heff : effects false 5 [.freeSlots [n]] s1 = some (v1.withWaits r))
      (hmute : NotStalled s (.job j) → r = wait) (hquota : AtQuota s j → r = wait ++ [.job j]) :
      ∃ t, exec (.driveDone d bytes) s = .next t
        ∧ t.slot? n = some (freshSlot (.job l) b z u) ∧ (∀ m, m ≠ n → t.slot? m = s.slot? m) ∧ t.ring.freeList = []
        ∧ (NotStalled s (.job j) → t.ring.waitList = wait) ∧ (AtQuota s j → t.ring.waitList = wait ++ [.job j])
        ∧ (t.port q).fifo = fed
        ∧ t.job l = { s.job l with held := (s.job l).held + 1 }
        ∧ t.job j = { s.job j with held := (s.job j).held - 1 } ∧ (∀ i, i ≠ l → i ≠ j → t.job i = s.job i)
        ∧ (∀ p, p ≠ q → (s.port p).SameCard (t.port p)) ∧ (∀ f, f ≠ d → (s.dest f).SameDrive (t.dest f))
        ∧ t.plan = s.plan ∧ t.manifest = s.manifest ∧ t.faults = s.faults := by
    obtain ⟨t, ht, halike, -⟩ := event_of_effects (w := s1.andNow [.freeSlots [n]]) (answers := false) (n := 5) (by omega) heff
    have hends : (v1.withWaits r).Ends t := halike.ends
    have hslot (m : Nat) : t.slot? m = if m = n then some (freshSlot (.job l) b z u) else s.slot? m := by
      rw [hends.slot]
      refine (hs.slot m).trans ?_
      rw [show v0.job l = _ from hjobl]
      refine ite_congr rfl (fun _ => rfl) fun h => ?_
      exact (hv.slot m).trans (if_neg h)
    have hjob (i : JobNo) : t.job i = v1.job i := hends.job i
    refine ⟨t, hexec.trans ht, (hslot n).trans (if_pos rfl), fun m hm => (hslot m).trans (if_neg hm), ?_, fun h => ?_,
      fun h => ?_, ?_, ?_, ?_, fun i hi hij => ?_, fun p hp => ?_, fun f hf => ?_, halike.plan.2.trans hplan,
      hends.manifest.trans (hs.manifest.trans hv.manifest), hends.faults.trans (hs.faults.trans hv.faults)⟩
    · rw [hends.ring]; exact hclear
    · rw [hends.ring]; exact hmute h
    · rw [hends.ring]; exact hquota h
    · obtain ⟨-, -, -, -, h, -⟩ := hends.card q
      exact h.trans (by rw [show (v1.withWaits r).port q = _ from hport1 q, if_pos rfl])
    · rw [hjob, hjob1, if_pos rfl]
    · rw [hjob, hjob1, if_neg (Ne.symm hlj), if_pos rfl]
    · rw [hjob, hjob1, if_neg hi, if_neg hij]
    · have := hends.card p
      rwa [show (v1.withWaits r).port p = _ from hport1 p, if_neg hp] at this
    · have := hends.drive f
      rwa [show (v1.withWaits r).dest f = _ from (State.dest_congr hs.dests f).trans (hv.dest f hf)] at this
  have hgo {ts : List Task} {k : Nat} {r : Option State} (h : effects false k ts v1 = r) :
      effects false (k + 1) (.serveWaiting :: ts) v = r := (effects_still (a := .serveWaiting) hserve rfl).trans h
  have hend (k : Nat) (t : State) : effects false (k + 1) [.freeSlots []] t = some t :=
    (effects_still (a := .freeSlots []) rfl rfl).trans (effects_nil _ _)
  rcases hown with hown | hown
  · refine done (r := wait) ?_ (fun _ => rfl) fun h => absurd (hown h.1) (by simp [h.2.2.1])
    rw [effects_andNow (a := .freeSlots [n]) (hmute hown) rfl]
    refine hgo (k := 3) ?_
    refine (hend 2 v1).trans ?_
    rw [← hwait0, ← hs.waitList]
    rfl
  · refine done (r := wait ++ [.job j]) ?_ (fun h => absurd (h hown.1) (by simp [hown.2.2.1])) fun _ => rfl
    rw [effects_andNow (a := .freeSlots [n]) (hquota hown) rfl]
    refine hgo (k := 3) ?_
    obtain ⟨hjrun, hjp, hjheld, hjpos, hjfill, hjnot⟩ := hown
    have hj1 : v1.job j = { s.job j with held := (s.job j).held - 1 } := by rw [hjob1, if_neg (Ne.symm hlj), if_pos rfl]
    have hfill1 : v1.FillsNone (.job j) := fun m y hm hy => (hs.held _ hm).elim
      (fun h => by obtain ⟨-, rfl⟩ := Prod.mk.inj h; exact hlj (by simpa [freshSlot] using hy.2)) fun h => hjfill m y (hv.held _ h) hy
    have hask : askFor (.job j) v1 = (v1.joinWait (.job j)).still := by
      rw [askFor, State.askForJob_waits (by simp [State.mayRead, hj1, hjrun, hjp, hfill1.atBoundary])
        (by rw [hj1]; dsimp only; omega) hclear]
    refine (effects_still (a := .askAgain (.job j)) (n := 2) hask rfl).trans ?_
    have hw1 : v1.ring.waitList = wait := hs.waitList.trans hwait0
    refine (hend 1 _).trans ?_
    rw [State.joinWait_of_not_mem (by rw [hw1]; intro h; exact hjnot (by rw [hwait]; exact List.mem_cons_of_mem _ h)), hw1]
    rfl

theorem State.jobs_ext {s t : State} (h : ∀ i, t.job i = s.job i) : t.jobs = s.jobs := Vector.ext fun i hi => h ⟨i, hi⟩

theorem freedSlotReturnsToItsOwner : FreedSlotReturnsToItsOwner := by
  intro s d bytes w c n b m j q z more hlast hwait hown hq hfree hb hz u
  obtain ⟨s1, v, hv, hplan, hexec, -, hquota⟩ := LastWrite.exec (bytes := bytes) hlast
  have hrun1 := hquota hown
  obtain ⟨hjrun, hjp, hjheld, hjpos, hjfill, hjnot⟩ := hown
  have hj : v.job j = { s.job j with held := (s.job j).held - 1 } := (hv.job j).trans (if_pos rfl)
  obtain ⟨copies, hcopies⟩ := hv.clip b z hz
  have hwaitv : v.ring.waitList = [] := hv.waitList.trans hwait
  have hs : v.Serves j m b z q (v.askForJob j) := State.askForJob_serves (x := { z with copies := copies }) (rest := more)
    (by rw [hj]; exact hjrun) (by rw [hj]; exact hq) (hv.fillsNone hjfill) (by rw [hj]; dsimp only; omega)
    (hv.freeList.trans hfree) (by rw [hj]; exact hb) hcopies ⟨copies, rfl⟩
  let v1 := v.askForJob j
  have heff : effects false 4 [.freeSlots [n]] s1 = some v1 := by
    rw [effects_andNow (a := .freeSlots [n]) hrun1 rfl]
    refine (effects_still (a := .serveWaiting) (n := 2) (runServeWaiting_nil hwaitv) rfl).trans ?_
    refine (effects_still (a := .askAgain (.job j)) (n := 1) (t := v1) rfl rfl).trans ?_
    exact (effects_still (a := .freeSlots []) rfl rfl).trans (effects_nil _ _)
  obtain ⟨t, ht, halike, -⟩ := event_of_effects (w := s1.andNow [.freeSlots [n]]) (answers := false) (n := 4) (by omega) heff
  have hends : v1.Ends t := halike.ends
  have hslot (i : Nat) : t.slot? i = if i = m then some (freshSlot (.job j) b z u) else if i = n then none else s.slot? i := by
    rw [hends.slot, hs.slot, hj, hv.slot]
  have hport (p : PortNo) : v1.port p = if p = q then
      { s.port q with fifo := (s.port q).fifo ++ (unitPieces z u).map fun r => ⟨.job j b u, r.1, r.2⟩ } else s.port p := by
    rw [hs.port, hj, show v.port = s.port from funext fun p => State.port_congr hv.ports p]
  refine ⟨t, hexec.trans ht, (hslot m).trans (if_pos rfl), fun h => ?_, fun i hm hn => ?_, ?_, ?_, ?_, ?_, fun p hp => ?_,
    fun f hf => ?_, halike.plan.2.trans hplan, hends.manifest.trans (hs.manifest.trans hv.manifest),
    hends.faults.trans (hs.faults.trans hv.faults)⟩
  · rw [hslot, if_neg h, if_pos rfl]
  · rw [hslot, if_neg hm, if_neg hn]
  · rw [hends.ring, hs.freeList, hv.freeList, hfree]; rfl
  · rw [hends.ring, hs.waitList, hwaitv]
  · obtain ⟨-, -, -, -, h, -⟩ := hends.card q
    exact h.trans (by rw [hport, if_pos rfl])
  · rw [hends.jobs]
    refine State.jobs_ext fun i => ?_
    rw [hs.job, hj, hv.job]
    split_ifs with hi
    · subst hi
      have hback : (s.job i).held - 1 + 1 = (s.job i).held := Nat.sub_add_cancel (by omega)
      simp only [hback]
    · rfl
  · have := hends.card p
    rwa [hport, if_neg hp] at this
  · have := hends.drive f
    rwa [show v1.dest f = _ from (State.dest_congr hs.dests f).trans (hv.dest f hf)] at this

/-! ### A lane is served -/

/-- The state with slot `n`, at the head of the free list, given to lane `d` for unit `k` of clip `c` (R62, R68). -/
def State.laneGiven (s : State) (d : DestNo) (n : Nat) (rest : List Nat) (c k : Nat) (x : Clip) : State :=
  ({ s with ring := { s.ring with
      freeList := rest, held := Table.insert n (freshSlot (.lane d) c x k) s.ring.held } } : State).setDest d
    { s.dest d with
      cq := (s.dest d).cq ++ [Item.new c (.data n)]
      lane := { (s.dest d).lane with standing := none, nextUnit := k + 1, held := (s.dest d).lane.held + 1 } }

theorem State.modDest_modDest (s : State) (d : DestNo) (f g : DestPort → DestPort) :
    (s.modDest d f).modDest d g = s.modDest d fun x => g (f x) := s.modDest_setDest d _ g

theorem State.giveToLane_given {s : State} {d : DestNo} {n c k : Nat} {rest : List Nat} {x : Clip}
    (hfree : s.ring.freeList = n :: rest) (hx : s.clip? c = some x) :
    s.giveToLane d c k = some (n, s.laneGiven d n rest c k x) := by
  simp only [State.giveToLane, State.giveSlot_given hfree hx, State.given, State.modHeld, State.modLane, State.queueItem]
  rw [State.modDest_modDest, State.modDest_modDest]
  rfl

/-- A lane below its limit with a slot free: it is given, and its unit's bytes asked for at the source. -/
theorem State.askForLane_given {s : State} {d : DestNo} {n c k : Nat} {rest : List Nat} {x : Clip} {src : Source}
    (hheld : (s.dest d).lane.held < 8) (hfree : s.ring.freeList = n :: rest) (hx : s.clip? c = some x) :
    s.askForLane d c k src = (s.laneGiven d n rest c k x).fillForLane d n c k src := by
  simp only [State.askForLane, laneLimit, if_neg (Nat.not_le.2 hheld), State.giveToLane_given hfree hx]

theorem State.dest_laneGiven (s : State) (d : DestNo) (n : Nat) (rest : List Nat) (c k : Nat) (x : Clip) (e : DestNo) :
    (s.laneGiven d n rest c k x).dest e = if e = d then
      { s.dest d with
        cq := (s.dest d).cq ++ [Item.new c (.data n)]
        lane := { (s.dest d).lane with standing := none, nextUnit := k + 1, held := (s.dest d).lane.held + 1 } }
      else s.dest e := by
  split_ifs with h
  · subst h; exact State.dest_setDest_self _ _ _
  · exact State.dest_setDest_of_ne _ (Ne.symm h) _

theorem State.slot_laneGiven (s : State) (d : DestNo) (n : Nat) (rest : List Nat) (c k : Nat) (x : Clip) (m : Nat) :
    (s.laneGiven d n rest c k x).slot? m = if m = n then some (freshSlot (.lane d) c x k) else s.slot? m := by
  split_ifs with h
  · subst h; exact Table.find_insert_self _ _ _
  · exact Table.find_insert_of_ne h _ _

theorem State.port_queuePieces (s : State) (p : PortNo) (work : ReaderWork) (pieces : List (Nat × Nat)) (q : PortNo) :
    (s.queuePieces p work pieces).port q = if q = p then
      { s.port p with fifo := (s.port p).fifo ++ pieces.map fun r => ⟨work, r.1, r.2⟩ } else s.port q := by
  split_ifs with h
  · subst h; exact State.port_modPort_self _ _ _
  · exact State.port_modPort_of_ne _ (Ne.symm h) _

/-- With the card bound, the unit's supply pieces join its port's FIFO (R41). -/
theorem State.fillForLane_card {s : State} {d : DestNo} {n c k : Nat} {x : Clip} {p : PortNo} (hx : s.clip? c = some x)
    (hp : (s.job x.job).boundPort = some p) :
    s.fillForLane d n c k .card = (s.queuePieces p (.supply d x.job c k n) (unitPieces x k)).still := by
  simp only [State.fillForLane, State.portFor, hx, Option.bind_some, hp]

/-- A lane does not go on from its last unit while a slot of its copy is FILLING (R125). -/
theorem runLaneGo_filling {s : State} {d : DestNo} {c n : Nat} {x : Clip} (hc : (s.dest d).lane.current = some c)
    (hx : s.clip? c = some x) (hn : unitCount x.length ≤ (s.dest d).lane.nextUnit)
    (hi : Item.new c (.data n) ∈ (s.dest d).cq) (hfill : s.isFilling n = true) : runLaneGo d s = s.still := by
  simp only [runLaneGo, hc, hx, if_neg (Nat.not_lt.2 hn)]
  split
  · split
    · rfl
    · rw [if_pos (List.any_eq_true.2 ⟨_, hi, by simp [Item.new, hfill]⟩)]
  · rfl

theorem freedSlotServesALane : FreedSlotServesALane := by
  intro s d f bytes w c n b u j q z wait hlast hns hfree hwait hnotin hfd hcur hstand hheld hz hq hlastUnit
  obtain ⟨s1, v, hv, hplan, hexec, hmute, -⟩ := LastWrite.exec (bytes := bytes) hlast
  let v0 := v.leaveWait (.lane f)
  have hwait0 : v0.ring.waitList = wait := by
    change v.ring.waitList.filter (· ≠ .lane f) = wait
    rw [hv.waitList, hwait]
    simpa using fun a ha (h : a = _) => hnotin (by rwa [h] at ha)
  obtain ⟨copies, hcopies⟩ := hv.clip b z hz
  let x : Clip := { z with copies := copies }
  have hf : v0.dest f = s.dest f := hv.dest f hfd
  let v1 := v0.laneGiven f n [] b u x
  have hport1 : (v1.job x.job).boundPort = some q := by
    rw [show v1.job x.job = _ from hv.job x.job]
    split_ifs with h
    · rw [← h]; exact hq
    · exact hq
  let v2 := v1.queuePieces q (.supply f z.job b u n) (unitPieces z u)
  have hserve : runServeWaiting v = ⟨v2, [], [.laneGo f]⟩ := by
    have hask : v0.askForLane f b u .card = v2.still :=
      (State.askForLane_given (s := v0) (d := f) (n := n) (rest := []) (x := x) (by rw [hf]; exact hheld) (by rw [show v0.ring.freeList = _ from hv.freeList, hfree]; rfl)
        hcopies).trans (State.fillForLane_card (x := x) hcopies hport1)
    simp only [runServeWaiting, hv.waitList, hwait, askFor]
    change (match (v0.dest f).lane.current, (v0.dest f).lane.standing with
      | some c, some (k, src) => (⟨(v0.askForLane f c k src).state, (v0.askForLane f c k src).now, [.laneGo f]⟩ : Work)
      | _, _ => v0.still) = _
    rw [hf, hcur, hstand]
    dsimp only
    rw [hask]
    rfl
  have hdest2 (e : DestNo) : v2.dest e = if e = f then
      { s.dest f with
        cq := (s.dest f).cq ++ [Item.new b (.data n)]
        lane := { (s.dest f).lane with standing := none, nextUnit := u + 1, held := (s.dest f).lane.held + 1 } }
      else v.dest e := by
    rw [show v2.dest e = _ from State.dest_laneGiven v0 f n [] b u x e, hf]; rfl
  have hslot2 (m : Nat) : v2.slot? m = if m = n then some (freshSlot (.lane f) b z u) else v.slot? m :=
    State.slot_laneGiven v0 f n [] b u x m
  have hgo : runLaneGo f v2 = v2.still := runLaneGo_filling (c := b) (n := n) (x := x)
    (by rw [hdest2, if_pos rfl]; exact hcur) hcopies
    (by rw [hdest2, if_pos rfl, unitCount_eq]; exact hlastUnit ▸ le_refl _) (by rw [hdest2, if_pos rfl]; simp)
    (by rw [State.isFilling, hslot2, if_pos rfl]; rfl)
  have heff : effects false 4 [.freeSlots [n]] s1 = some v2 := by
    rw [effects_andNow (a := .freeSlots [n]) (hmute hns) rfl]
    refine (effects_cons (t := .serveWaiting) (n := 2) hserve rfl).trans ?_
    refine (effects_still (a := .freeSlots []) (n := 1) (t := v2) rfl rfl).trans ?_
    exact (effects_still (a := .laneGo f) (n := 0) hgo rfl).trans (effects_nil _ _)
  obtain ⟨t, ht, halike, -⟩ := event_of_effects (w := s1.andNow [.freeSlots [n]]) (answers := false) (n := 4) (by omega) heff
  have hends : v2.Ends t := halike.ends
  have hport (p : PortNo) : v2.port p = if p = q then
      { s.port q with fifo := (s.port q).fifo ++ (unitPieces z u).map fun r => ⟨.supply f z.job b u n, r.1, r.2⟩ }
      else s.port p := by
    rw [show v2.port p = _ from State.port_queuePieces v1 q _ _ p, show v1.port = s.port from funext fun p => State.port_congr hv.ports p]
  have hjob (i : JobNo) : t.job i = if i = j then { s.job j with held := (s.job j).held - 1 } else s.job i :=
    (hends.job i).trans (hv.job i)
  have hcq : (t.dest f).cq = (v2.dest f).cq := hends.queue f .cq
  refine ⟨t, hexec.trans ht, ?_, fun m hm => ?_, ?_, ?_, ?_, ?_, ?_, (hjob j).trans (if_pos rfl),
    fun i hi => (hjob i).trans (if_neg hi), fun p hp => ?_, halike.plan.2.trans hplan, hends.manifest.trans hv.manifest,
    hends.faults.trans hv.faults⟩
  · rw [hends.slot, hslot2, if_pos rfl]
  · rw [hends.slot, hslot2, if_neg hm, hv.slot, if_neg hm]
  · rw [hends.ring]; rfl
  · rw [hends.ring]; exact hwait0
  · rw [hcq, hdest2, if_pos rfl]
  · rw [hends.lane, hdest2, if_pos rfl]
  · obtain ⟨-, -, -, -, h, -⟩ := hends.card q
    exact h.trans (by rw [hport, if_pos rfl])
  · have := hends.card p
    rwa [hport, if_neg hp] at this

/-- Settles O26: the freed slot goes to the head of the wait list, or back to an owner that waits at its quota. -/
theorem freedSlotsServeRequesters : Obligations.FreedSlotsServeRequesters :=
  ⟨freedSlotServesAJob, freedSlotReturnsToItsOwner, freedSlotServesALane⟩

end Sys2Proof.Machine

/-! A copy read back: the reads, the trailer check and the decision (R113, R114, R117, R130; O28). -/

namespace Sys2Proof.Machine

/-! ### The reads of a VERIFY job -/

theorem exec_driveDone_read {s : State} {d : DestNo} {bytes : List Byte} {cmd : DriveCmd}
    (ho : (s.dest d).outstanding = some ⟨cmd, .readLane⟩) (hab : (s.dest d).abandoned = false) :
    exec (.driveDone d bytes) s = event (readDone d cmd bytes (s.quiet.setDest d (cleared (s.dest d)))) := by
  rw [exec_driveDone, onResponse_of_outstanding ho hab]; rfl

/-- A DONE, of the byte count asked for, to a request of a VERIFY job. -/
theorem readDone_verify {s : State} {d : DestNo} {cmd : DriveCmd} {bytes : List Byte} {c : Nat} {more : List ReadJob}
    {a : ActiveRead} (hlen : cmd.kind = .read → bytes.length = cmd.count * 512) (hj : (s.dest d).rl.jobs = .verify c :: more)
    (ha : (s.dest d).rl.active = some a) : readDone d cmd bytes s = verifyDone d c a.step bytes s := by
  rw [readDone, if_neg fun h => h.2 (hlen h.1), hj, ha]

theorem verifyReadsTheWindowInOrder : VerifyReadsTheWindowInOrder := by
  intro s d bytes cmd c r k more x copy b win t u ho hab hj hx hk hb hwin ht next go
  let s0 := s.quiet.setDest d (cleared (s.dest d))
  have hself : s0.dest d = cleared (s.dest d) := State.dest_setDest_self _ _ _
  have hunits : s0.windowUnits c d = win.count := by
    rw [State.windowUnits, State.copy_some_iff (s := s0).2 ⟨x, hx, hk⟩]
    simp [hwin]
  have hform (n : Nat) (sum : SumUnit) :
      (((s0.setReadSum d (some sum)).formStep d c (stepAt n win.count)).still : Work) = (go n sum).still := by
    let s1 := s.quiet.setDest d { cleared (s.dest d) with rl := { (cleared (s.dest d)).rl with sum := some sum } }
    have hs1 : s0.setReadSum d (some sum) = s1 := State.modDest_setDest _ _ _ _
    have hb1 : (s1.dest d).binding = some b := by rw [State.dest_setDest_self]; exact hb
    have hclip : s1.clip? c = some x := hx
    have hset (a : ActiveRead) : s1.setActive d (some a) = s.quiet.setDest d
        { cleared (s.dest d) with rl := { jobs := .verify c :: more, active := some a, sum := some sum } } := by
      rw [State.setActive, State.modDest_setDest, ← hj]; rfl
    rw [hs1, stepAt]
    simp only [go, next]
    by_cases hn : n < win.count
    · have hread : s1.formUnitRead d c n = some
          { kind := .read, lba := b.areaStart + b.strip + 2048 * (win.first + n)
            count := (min (x.length - n * 1048576) 1048576 + 511) / 512, data := [] } := by
        simp only [State.formUnitRead, hclip, hk, hb1, hwin, Option.bind_eq_bind, Option.bind_some, State.unitReadCmd,
          sectorsOf_eq, Binding.unitLba, unitByteCount, unitSectors, unitBytes]
      rw [if_pos hn, if_pos hn, State.formStep]
      simp only [hread, hset]
    · have hread : s1.formTrailerRead d c = some ⟨.read, b.areaStart + t, 1, []⟩ := by
        simp only [State.formTrailerRead, State.copy_some_iff (s := s1).2 ⟨x, hx, hk⟩, hb1, ht, Option.bind_eq_bind,
          Option.bind_some, State.trailerReadCmd, Binding.trailerLba]
      rw [if_neg hn, if_neg hn, State.formStep]
      simp only [hread, hset]
  have hjobs : (s0.dest d).rl.jobs = .verify c :: more := by rw [hself]; exact hj
  refine ⟨fun hflush hact => ?_, fun hread hlen hact hsum => ?_⟩ <;> rw [exec_driveDone_read ho hab]
  · rw [readDone_verify (s := s0) (fun h => by rw [hflush] at h; cases h) hjobs (by rw [hself]; exact hact)]
    have hstart : (s0.clip? c).map (fun x => SumUnit.start x.length) = some ⟨x.length, ⟨1, 0⟩, 0⟩ := by
      rw [show s0.clip? c = some x from hx]; rfl
    rw [verifyDone, hstart, hunits, hform, event_still_eq]
  · rw [readDone_verify (s := s0) (fun _ => hlen) hjobs (by rw [hself]; exact hact)]
    have hfed : (s0.dest d).rl.sum.map (·.feed bytes) = some (u.feed bytes) := by
      rw [hself, show (cleared (s.dest d)).rl.sum = some u from hsum]; rfl
    rw [verifyDone, hfed, hunits, hform, event_still_eq]

/-! ### The trailer check -/

theorem take_add_eq_iff {α : Type} {l a b : List α} {m n : Nat} (ha : a.length = m) :
    l.take (m + n) = a ++ b ↔ l.take m = a ∧ (l.drop m).take n = b := by
  constructor
  · intro h
    have hleft : l.take m = a := by
      have := congrArg (List.take m) h
      rwa [List.take_take, Nat.min_eq_left (Nat.le_add_right m n), List.take_left' ha] at this
    rw [List.take_add, hleft] at h
    exact ⟨hleft, List.append_cancel_left h⟩
  · rintro ⟨rfl, rfl⟩
    rw [List.take_add]

theorem trailerCheckComparesItsFields : TrailerCheckComparesItsFields := by
  intro sector c length sum w
  simp only [trailerAgrees, TrailerMatches, Bool.and_eq_true, decide_eq_true_eq, and_assoc]
  simp only [sectorField, trailerMarker, List.drop_zero, ClosedSum.bytes]
  have hsum : (sector.drop 25).take 12 = Bytes.be 4 sum.s1 ++ (Bytes.be 4 sum.s2 ++ Bytes.be 4 sum.f.toNat)
      ↔ (sector.drop 25).take 4 = Bytes.be 4 sum.s1 ∧ (sector.drop 29).take 4 = Bytes.be 4 sum.s2
        ∧ (sector.drop 33).take 4 = Bytes.be 4 sum.f.toNat := by
    rw [take_add_eq_iff (m := 4) (n := 8) (Bytes.be_length _ _), take_add_eq_iff (m := 4) (n := 4) (Bytes.be_length _ _),
      List.drop_drop, List.drop_drop]
  rw [List.append_assoc, hsum]
  tauto

/-! ### The decision of a readback that agrees -/

/-- A copy that turns VERIFIED counts. -/
theorem Clip.verifiedCount_set {x : Clip} {d : DestNo} {k k' : Copy} (hk : x.copies[d] = some k) (hst : k.state ≠ .verified)
    (hst' : k'.state = .verified) : x.verifiedCount + 1 ≤ ({ x with copies := x.copies.set d (some k') } : Clip).verifiedCount := by
  have hd : d ∉ x.destsWith fun k => decide (k.state = .verified) := fun h => by
    obtain ⟨k1, hk1, h1⟩ := Clip.mem_destsWith.1 h
    obtain rfl := Option.some.inj (hk.symm.trans hk1)
    exact hst (of_decide_eq_true h1)
  refine (List.subperm_of_subset (List.nodup_cons.2 ⟨hd, x.destsWith_nodup _⟩) fun e he => ?_).length_le
  rw [Clip.mem_destsWith, Vector.getElem_set_fin]
  rcases List.mem_cons.1 he with rfl | hold
  · exact ⟨k', if_pos rfl, decide_eq_true hst'⟩
  · obtain ⟨k1, hk1, h1⟩ := Clip.mem_destsWith.1 hold
    have hed : e ≠ d := by rintro rfl; exact hd hold
    exact ⟨k1, (if_neg hed).trans hk1, h1⟩

/-- A record emitted into a queue with room. -/
theorem State.emitRecord_room {s : State} {c : Nat} {x : Clip} (hx : s.clip? c = some x) (hroom : s.manifest.queue.length < 512) :
    ∃ t, s.emitRecord c = t ∧ (∀ b, t.clip? b = if b = c then some { x with mstatus := .queued } else s.clip? b)
      ∧ t.manifest = { s.manifest with queue := s.manifest.queue ++ [s.formRecord c x] } ∧ t.ports = s.ports
      ∧ t.jobs = s.jobs ∧ t.ring = s.ring ∧ t.dests = s.dests ∧ t.plan = s.plan ∧ t.faults = s.faults := by
  let u : State := ({ s with manifest := { s.manifest with queue := s.manifest.queue ++ [s.formRecord c x] } } : State).setClip c
    { x with mstatus := .queued }
  have hu : s.enqueueRecord c = u := by simp only [State.enqueueRecord, hx, u]
  have hclip (b : Nat) : u.clip? b = if b = c then some { x with mstatus := .queued } else s.clip? b :=
    State.clip_setClip _ _ _ _
  rw [State.emitRecord, if_pos (show s.manifest.queue.length < manifestPlaces from hroom), hu]
  split
  · exact ⟨_, rfl, hclip, rfl, rfl, rfl, rfl, rfl, rfl, rfl⟩
  · exact ⟨_, rfl, hclip, rfl, rfl, rfl, rfl, rfl, rfl, rfl⟩

theorem trailerAgrees_decides {c : Nat} {x : Clip} {k : Copy} {sum : ClosedSum} {win : Window} {readback : ClosedSum}
    {sector : List Byte} (hsum : x.sum = some sum) (hwin : k.window = some win) (h1 : readback.s1 = sum.s1)
    (h2 : readback.s2 = sum.s2) (ht : TrailerMatches sector c x.length sum win) :
    verifyDetail c x k readback sector = none := by
  have hag : readback.agrees sum = true := by simp [ClosedSum.agrees, h1, h2]
  simp only [verifyDetail, hsum, hwin, hag, (trailerCheckComparesItsFields sector c x.length sum win).2 ht, Bool.not_true,
    Bool.false_eq_true, if_false]

theorem agreeingReadbackSecures : AgreeingReadbackSecures := by
  intro s d bytes cmd c r x k win u sum snap ho hab hread hlen hj hact hu hx hk hwin hst hsum hclip hsnap h1 h2 htr hidle hsus
    hroom hcount
  let s0 := s.quiet.setDest d (cleared (s.dest d))
  have hself : s0.dest d = cleared (s.dest d) := State.dest_setDest_self _ _ _
  have hexec : exec (.driveDone d bytes) s = event (decideVerify d c bytes s0) := by
    rw [exec_driveDone_read ho hab, readDone_verify (s := s0) (fun _ => hlen) (by rw [hself]; exact hj) (by rw [hself]; exact hact)]
    rfl
  let k1 : Copy := { k with readback := some u.close }
  let k2 : Copy := { k with state := .verified, readback := some u.close }
  let x2 : Clip := { x with copies := x.copies.set d (some k2) }
  let z : DestPort := { cleared (s.dest d) with rl := ⟨[], none, none⟩ }
  let s2 := (s.quiet.setDest d z).setClip c x2
  have hdecide : decideVerify d c bytes s0 = s2.andNow [.secure c, .rejoin c, .settle x.job] := by
    let x1 : Clip := { x with copies := x.copies.set d (some k1) }
    have hrecord : s0.recordReadback c d (some u.close) = s0.setClip c x1 := State.modCopy_of_some (s := s0) hx hk _
    have hend : (s0.setClip c x1).endRead d = (s.quiet.setDest d z).setClip c x1 := by
      have hmod : (s0.setClip c x1).modDest d (fun x => { x with rl := { jobs := x.rl.jobs.tail, active := none, sum := none } })
          = (s.quiet.setDest d z).setClip c x1 := by
        rw [State.modDest_setClip_setDest, show (cleared (s.dest d)).rl.jobs = _ from hj]; rfl
      have hz : (((s.quiet.setDest d z).setClip c x1).dest d) = z := State.dest_setDest_self s.quiet d z
      rw [State.endRead, hmod, State.activateRead, hz]
      exact if_neg (by simp [z])
    have hverified := State.modCopy_of_some (s := (s.quiet.setDest d z).setClip c x1) (c := c) (d := d) (x := x1) (k := k1)
      (by rw [State.clip_setClip, if_pos rfl]) ((Vector.getElem_set_fin x.copies d d _).trans (if_pos rfl))
      fun k => { k with state := .verified }
    have hdetail : verifyDetail c x k u.close bytes = none := trailerAgrees_decides hsum hwin h1 h2 htr
    rw [decideVerify, show s0.clip? c = some x from hx, State.copy_some_iff (s := s0).2 ⟨x, hx, hk⟩, hself,
      show (cleared (s.dest d)).rl.sum = some u from hu]
    dsimp only
    rw [hdetail, hrecord, hend]
    dsimp only
    rw [hverified, State.setClip_setClip]
    simp only [x1, Vector.set_set]
    rfl
  let x3 : Clip := { x2 with state := .secured }
  obtain ⟨t3, ht3, hclip3, hman3, hports3, hjobs3, hring3, hdests3, hplan3, hfaults3⟩ :=
    State.emitRecord_room (s := s2.setClip c x3) (c := c) (x := x3) (by rw [State.clip_setClip, if_pos rfl]) hroom
  have hclip2 (b : Nat) : s2.clip? b = if b = c then some x2 else s.clip? b := State.clip_setClip _ _ _ _
  have hsecure : runSecure c s2 = t3.still := by
    have hmany : snap.r ≤ x2.verifiedCount := hcount.trans (Clip.verifiedCount_set (k' := k2) hk (by simp [hst]) rfl)
    have hsnap2 : (s2.job x2.job).snapshot = some snap := hsnap
    simp only [runSecure, hclip2, if_true, hsnap2]
    rw [if_pos ⟨hclip, hmany⟩]
    exact congrArg State.still ht3
  have hclipt (b : Nat) : t3.clip? b = if b = c then some { x3 with mstatus := .queued } else s.clip? b := by
    rw [hclip3, State.clip_setClip]
    split_ifs with hb
    · rfl
    · rw [hclip2, if_neg hb]
  have hcopyt (f : DestNo) (q : Copy) (hq : t3.copy? c f = some q) : q.suspended = false := by
    rw [State.copy?, hclipt, if_pos rfl] at hq
    have hq : x2.copies[f] = some q := hq
    rw [Vector.getElem_set_fin] at hq
    split_ifs at hq with hf
    · obtain rfl := Option.some.inj hq
      exact hsus d k hk
    · exact hsus f q hq
  obtain ⟨st, v, -, hto, hsettle⟩ := effects_settle t3 x.job
  have hdest2 (f : DestNo) : s2.dest f = if f = d then z else s.dest f := by
    split_ifs with hf
    · rw [hf]; exact State.dest_setDest_self s.quiet d z
    · exact State.dest_setDest_of_ne s.quiet (Ne.symm hf) z
  have hdestv (f : DestNo) : v.dest f = if f = d then z else s.dest f := by
    rw [State.dest_congr hto.dests, State.dest_congr hdests3]; exact hdest2 f
  have heff : effects false 8 [.secure c, .rejoin c, .settle x.job] s2 = some v := by
    refine (effects_still (a := .secure c) (n := 7) hsecure rfl).trans ?_
    have hrejoined : t3.rejoined [c] = t3 := State.rejoined_of_none fun b hb f q hq => by
      rw [List.mem_singleton.1 hb] at hq; exact hcopyt f q hq
    refine effects_rejoins (cs := [c]) (ts := [.settle x.job]) (n := 6) ?_
    rw [hrejoined]
    refine hsettle (effects_lanes_still allDests fun f _ => runLaneGo_idle ?_ ?_) <;> rw [hdestv] <;> split_ifs with hf
    · exact (hidle d).1
    · exact (hidle f).1
    · exact (hidle d).2
    · exact (hidle f).2
  obtain ⟨t, ht, halike, -⟩ := event_of_effects (w := s2.andNow [.secure c, .rejoin c, .settle x.job]) (answers := false) (n := 8)
    (by omega) heff
  have hends : v.Ends t := halike.ends
  have hclipT (b : Nat) : t.clip? b = if b = c then some { x3 with mstatus := .queued } else s.clip? b := by
    rw [hends.clip, State.clip_congr hto.clips, hclipt]
  refine ⟨t, (s2.setClip c x3).formRecord c x3, (hexec.trans (congrArg event hdecide)).trans ht, ?_, ?_, ?_, rfl, rfl, rfl, hsum, rfl,
    fun b hb => ?_, fun l hl => ?_, fun f hf => ?_, ?_, ?_, ?_⟩
  · rw [State.copy?, hclipT, if_pos rfl]
    exact (Vector.getElem_set_fin x.copies d d _).trans (if_pos rfl)
  · rw [State.clipState?, hclipT, if_pos rfl]; rfl
  · exact hends.manifest.trans (hto.manifest.trans hman3)
  · rw [hclipT, if_neg hb]
  · rw [hends.job, hto.job, if_neg hl, State.job_congr hjobs3]; rfl
  · have := hends.drive f
    rwa [hdestv, if_neg hf] at this
  · exact hends.ring.trans (hto.ring.trans hring3)
  · exact halike.plan.2
  · exact hends.faults.trans (hto.faults.trans hfaults3)

/-- Settles O28: the reads in order, the trailer check, and the decision of a readback that agrees. -/
theorem verificationRules : Obligations.VerificationRules :=
  ⟨verifyReadsTheWindowInOrder, trailerCheckComparesItsFields, agreeingReadbackSecures⟩

end Sys2Proof.Machine

/-! A copy's work withdrawn while the read lanes are at rest (R70, R110, R126). -/

namespace Sys2Proof.Machine

/-- No read lane has work. -/
def State.ReadsRest (s : State) : Prop := ∀ e, (s.dest e).rl.jobs = []

theorem State.modDest_fixed {s : State} {d : DestNo} {f : DestPort → DestPort} (h : f (s.dest d) = s.dest d) :
    s.modDest d f = s := by
  rw [State.modDest, h, State.setDest, State.dest]
  have : s.dests.set d s.dests[d] = s.dests := Vector.set_getElem_self _
  rw [this]

theorem State.withdrawJobs_of_rest {s : State} {e : DestNo} (h : (s.dest e).rl.jobs = []) (gone : ReadJob → Bool) :
    s.withdrawJobs gone e = s := by
  have hrl : (⟨[], (s.dest e).rl.active, (s.dest e).rl.sum⟩ : ReadLane) = (s.dest e).rl := by rw [← h]
  unfold State.withdrawJobs
  simp only [h, List.head?_nil, Option.any_none, Bool.and_false, Bool.false_eq_true, if_false, Bool.false_and, Bool.or_false]
  rw [State.modDest_fixed (by simp only [h, List.filter_nil, hrl]), State.activateRead, h, ite_self]

/-! ### What withdrawn copies leave -/

/-- A lane that the copies of these clips have left. -/
def Lane.left (l : Lane) (gone : Nat → Bool) : Lane :=
  if l.current.any gone then State.dropCurrent { l with copies := l.copies.filter fun c => !gone c }
  else { l with copies := l.copies.filter fun c => !gone c }

/-- A destination that the copies of these clips on it have left; `a` tells whether its request is abandoned. -/
def DestPort.left (x : DestPort) (gone : Nat → Bool) (a : Bool) : DestPort :=
  { x with
    wq := x.wq.map fun q => q.filter fun i => !gone i.clip
    cq := x.cq.filter fun i => !gone i.clip
    arb := { x.arb with lock := x.arb.lock.filter fun l => !gone l.2 }
    abandoned := a
    lane := x.lane.left gone }

/-- A slot as the copies of its clip on these destinations leave it. -/
def Slot.left (y : Slot) (gone : Nat → DestNo → Bool) : Slot :=
  if y.state = .staged then { y with pending := y.pending.filter fun d => !gone y.clip d } else y

/-- Does reader work supply one of these copies? -/
def ReaderWork.suppliesAny (w : ReaderWork) (gone : Nat → DestNo → Bool) : Bool :=
  match w with
  | .supply d _ c _ _ => gone c d
  | .job _ _ _ => false
  | .sector _ _ => false

/-- From `s` to `t` the work of the copies that are `gone` was withdrawn. -/
structure State.Leaves (s : State) (gone : Nat → DestNo → Bool) (t : State) : Prop where
  dest : ∀ d, ∃ a, t.dest d = (s.dest d).left (gone · d) a
  port : ∀ p, ∃ a, t.port p = { s.port p with
    fifo := (s.port p).fifo.filter fun i => !i.work.suppliesAny gone
    abandoned := a }
  held : t.ring.held = s.ring.held.map fun e => (e.1, e.2.left gone)
  freeList : t.ring.freeList = s.ring.freeList
  waitList : t.ring.waitList.Sublist s.ring.waitList
  jobs : t.jobs = s.jobs
  plan : t.plan = s.plan
  manifest : t.manifest = s.manifest
  faults : t.faults = s.faults
  link : t.link = s.link
  lines : t.lines = s.lines

theorem Lane.left_none (l : Lane) : l.left (fun _ => false) = l := by
  have h : l.current.any (fun _ => false) = false := by cases l.current <;> rfl
  simp [Lane.left, h]

theorem Lane.left_left (l : Lane) (g g' : Nat → Bool) : (l.left g).left g' = l.left fun c => g c || g' c := by
  have hf : (l.copies.filter fun c => !g c).filter (fun c => !g' c) = l.copies.filter fun c => !(g c || g' c) := by
    rw [List.filter_filter]
    exact List.filter_congr fun c _ => by cases g c <;> cases g' c <;> rfl
  cases hc : l.current with
  | none => simp [Lane.left, hc, hf]
  | some c =>
    by_cases h : g c = true
    · simp [Lane.left, hc, h, State.dropCurrent, hf]
    · by_cases h' : g' c = true <;> simp [Lane.left, hc, h, h', State.dropCurrent, hf]

theorem Slot.left_left (y : Slot) (g g' : Nat → DestNo → Bool) : (y.left g).left g' = y.left fun c d => g c d || g' c d := by
  have hf : (y.pending.filter fun d => !g y.clip d).filter (fun d => !g' y.clip d)
      = y.pending.filter fun d => !(g y.clip d || g' y.clip d) := by
    rw [List.filter_filter]
    exact List.filter_congr fun d _ => by cases g y.clip d <;> cases g' y.clip d <;> rfl
  by_cases hy : y.state = .staged
  · simp only [Slot.left, hy, if_true, hf]
  · simp only [Slot.left, hy, if_false]

theorem Slot.left_none (y : Slot) : y.left (fun _ _ => false) = y := by
  unfold Slot.left
  split
  · simp
  · rfl

theorem filter_option_filter {α : Type} (o : Option α) (p q : α → Bool) : (o.filter p).filter q = o.filter fun a => p a && q a := by
  cases o with
  | none => rfl
  | some a => by_cases hp : p a = true <;> by_cases hq : q a = true <;> simp [Option.filter, hp, hq]

theorem DestPort.left_none (x : DestPort) : x.left (fun _ => false) x.abandoned = x := by
  have hq : (fun q : List Item => q.filter fun _ => !false) = id := funext fun q => by simp
  have hl : x.arb.lock.filter (fun _ => !false) = x.arb.lock := by cases x.arb.lock <;> rfl
  simp only [DestPort.left, Lane.left_none, hl, hq, id]
  simp

/-- Is reader work that supplies none of these copies left alone? -/
theorem ReaderWork.suppliesAny_none (w : ReaderWork) : w.suppliesAny (fun _ _ => false) = false := by cases w <;> rfl

theorem ReaderWork.suppliesAny_or (w : ReaderWork) (g g' : Nat → DestNo → Bool) :
    w.suppliesAny (fun c d => g c d || g' c d) = (w.suppliesAny g || w.suppliesAny g') := by cases w <;> rfl

namespace State.Leaves

variable {s t u : State} {g g' : Nat → DestNo → Bool}

theorem refl (s : State) : s.Leaves (fun _ _ => false) s := by
  refine ⟨fun d => ⟨(s.dest d).abandoned, (DestPort.left_none _).symm⟩, fun p => ⟨(s.port p).abandoned, ?_⟩, ?_, rfl,
    List.Sublist.refl _, rfl, rfl, rfl, rfl, rfl, rfl⟩
  · simp [ReaderWork.suppliesAny_none]
  · simp [Slot.left_none]

theorem trans (h : s.Leaves g t) (h' : t.Leaves g' u) : s.Leaves (fun c d => g c d || g' c d) u := by
  refine ⟨fun d => ?_, fun p => ?_, ?_, h'.freeList.trans h.freeList, h'.waitList.trans h.waitList, h'.jobs.trans h.jobs,
    h'.plan.trans h.plan, h'.manifest.trans h.manifest, h'.faults.trans h.faults, h'.link.trans h.link, h'.lines.trans h.lines⟩
  · obtain ⟨a, ha⟩ := h.dest d
    obtain ⟨b, hb⟩ := h'.dest d
    refine ⟨b, hb.trans ?_⟩
    rw [ha]
    simp only [DestPort.left, Lane.left_left, List.filter_filter, filter_option_filter, Vector.map_map, Function.comp_def,
      Bool.not_or, Bool.and_comm]
  · obtain ⟨a, ha⟩ := h.port p
    obtain ⟨b, hb⟩ := h'.port p
    refine ⟨b, hb.trans ?_⟩
    simp only [ha, List.filter_filter, ReaderWork.suppliesAny_or, Bool.not_or, Bool.and_comm]
  · rw [h'.held, h.held, List.map_map]
    refine List.map_congr_left fun e _ => ?_
    simp only [Function.comp_apply, Slot.left_left]

end State.Leaves

/-- Reader work withdrawn from card ports. -/
theorem State.withdrawReads_ports (work : ReaderWork → Bool) (l : List PortNo) (s : State) :
    (∀ p, (l.foldl (fun s p => s.withdrawReads work p) s).port p = if p ∈ l then { s.port p with
        fifo := (s.port p).fifo.filter fun i => !work i.work
        abandoned := (s.port p).abandoned || (s.port p).outstanding.any fun r => work r.item.work } else s.port p)
    ∧ ∃ v, l.foldl (fun s p => s.withdrawReads work p) s = { s with ports := v } := by
  induction l generalizing s with
  | nil => exact ⟨fun _ => (if_neg (by simp)).symm, s.ports, rfl⟩
  | cons q l ih =>
    obtain ⟨hport, v, hv⟩ := ih (s.withdrawReads work q)
    refine ⟨fun p => ?_, v, hv⟩
    rw [List.foldl_cons, hport]
    by_cases hp : q = p
    · subst hp
      simp only [State.withdrawReads, State.port_modPort_self, List.mem_cons, true_or, if_true, List.filter_filter, Bool.and_self,
        Bool.or_assoc, Bool.or_self, ite_self]
    · have : (s.withdrawReads work q).port p = s.port p := State.port_modPort_of_ne _ hp _
      simp only [this, List.mem_cons, Ne.symm hp, false_or]

theorem State.leaveReaders_of_rest {s : State} (h : s.ReadsRest) (c : Nat) (d : DestNo) :
    s.leaveReaders c d = allPorts.foldl (fun s p => s.withdrawReads (suppliesCopy c d) p) s := by
  obtain ⟨-, v, hv⟩ := s.withdrawReads_ports (suppliesCopy c d) allPorts
  rw [State.leaveReaders, hv]
  exact List.foldl_fixed' (fun e => State.withdrawJobs_of_rest (s := { s with ports := v }) (h e) _) allDests

/-- The copy of clip `c` on `d` alone. -/
def onlyCopy (c : Nat) (d : DestNo) : Nat → DestNo → Bool := fun b e => decide (b = c ∧ e = d)

theorem onlyCopy_here (c b : Nat) (d : DestNo) : onlyCopy c d b d = decide (b = c) := by simp [onlyCopy]

theorem Lane.left_only (l : Lane) (c : Nat) (d : DestNo) : l.left (onlyCopy c d · d)
    = if l.current = some c then State.dropCurrent { l with copies := l.copies.filter (· ≠ c) }
      else { l with copies := l.copies.filter (· ≠ c) } := by
  have hf : l.copies.filter (fun b => !onlyCopy c d b d) = l.copies.filter (· ≠ c) :=
    List.filter_congr fun b _ => by rw [onlyCopy_here, decide_not]
  have hc : (l.current.any (onlyCopy c d · d) = true) = (l.current = some c) := by
    cases l.current <;> simp [onlyCopy_here]
  simp only [Lane.left, hf, hc]

theorem State.leaveLane_left (s : State) (c : Nat) (d : DestNo) :
    ∃ w, s.leaveLane c d = { (s.modDest d fun x => { x with lane := x.lane.left (onlyCopy c d · d) }) with ring := { s.ring with waitList := w } }
      ∧ w = if (s.dest d).lane.current = some c then s.ring.waitList.filter (· ≠ .lane d) else s.ring.waitList := by
  by_cases hc : (s.dest d).lane.current = some c
  · refine ⟨_, ?_, (if_pos hc).symm⟩
    simp only [State.leaveLane, hc, decide_true, if_true, State.modLane]
    rw [State.modDest, State.modDest, Lane.left_only, if_pos hc]
    rfl
  · refine ⟨_, ?_, (if_neg hc).symm⟩
    simp only [State.leaveLane, hc, decide_false, Bool.false_eq_true, if_false, State.modLane]
    rw [State.modDest, State.modDest, Lane.left_only, if_neg hc]
    rfl

theorem DestPort.left_only (x : DestPort) (c : Nat) (d : DestNo) : x.left (onlyCopy c d · d)
      (x.abandoned || x.outstanding.any (State.writesClip c)) =
    { x with
      wq := x.wq.map fun q => q.filter (·.clip ≠ c)
      cq := x.cq.filter (·.clip ≠ c)
      arb := { x.arb with lock := x.arb.lock.filter (·.2 ≠ c) }
      abandoned := x.abandoned || x.outstanding.any (State.writesClip c)
      lane := x.lane.left (onlyCopy c d · d) } := by
  simp only [DestPort.left, onlyCopy_here, decide_not]

theorem Slot.left_only (y : Slot) (c : Nat) (d : DestNo) :
    (if y.clip = c ∧ y.state = .staged then { y with pending := destErase d y.pending } else y) = y.left (onlyCopy c d) := by
  by_cases hst : y.state = .staged
  · by_cases hc : y.clip = c
    · rw [if_pos ⟨hc, hst⟩, Slot.left, if_pos hst]
      simp [destErase, onlyCopy, hc]
    · rw [if_neg (fun h => hc h.1), Slot.left, if_pos hst]
      simp [onlyCopy, hc]
  · rw [if_neg (fun h => hst h.2), Slot.left, if_neg hst]

theorem suppliesCopy_eq (c : Nat) (d : DestNo) (w : ReaderWork) : State.suppliesCopy c d w = w.suppliesAny (onlyCopy c d) := by
  cases w <;> simp [State.suppliesCopy, ReaderWork.suppliesAny, onlyCopy, and_comm]

theorem State.withdrawCopy_leaves {s : State} (h : s.ReadsRest) (c : Nat) (d : DestNo) :
    s.Leaves (onlyCopy c d) (s.withdrawCopy c d) ∧ (s.withdrawCopy c d).clips = s.clips := by
  let s1 := s.leavePending c d
  let s2 := s1.leaveQueues c d
  obtain ⟨w, h3, hw⟩ := s2.leaveLane_left c d
  let s3 := s2.leaveLane c d
  have hdest3 (e : DestNo) : s3.dest e = if e = d
      then (s.dest d).left (onlyCopy c d · d) ((s.dest d).abandoned || (s.dest d).outstanding.any (State.writesClip c)) else s.dest e := by
    have h2 (e : DestNo) := State.dest_modDest s1 d (fun x =>
      { x with
        wq := x.wq.map fun q => q.filter (·.clip ≠ c)
        cq := x.cq.filter (·.clip ≠ c)
        arb := { x.arb with lock := x.arb.lock.filter (·.2 ≠ c) }
        abandoned := x.abandoned || x.outstanding.any (writesClip c) }) e
    rw [show s3 = _ from h3, DestPort.left_only]
    refine (State.dest_modDest s2 d (fun x => { x with lane := x.lane.left (onlyCopy c d · d) }) e).trans ?_
    by_cases he : e = d
    · rw [if_pos he, if_pos he, show s2.dest d = _ from (h2 d).trans (if_pos rfl)]
      rfl
    · rw [if_neg he, if_neg he]
      exact (h2 e).trans (if_neg he)
  have hrest : s3.ReadsRest := fun e => by
    rw [hdest3]
    split_ifs with he
    · exact h d
    · exact h e
  obtain ⟨hport, v, hv⟩ := s3.withdrawReads_ports (suppliesCopy c d) allPorts
  have heq : s.withdrawCopy c d = { s3 with ports := v } := (State.leaveReaders_of_rest hrest c d).trans hv
  have hs3 : s3.ports = s.ports ∧ s3.clips = s.clips ∧ s3.jobs = s.jobs ∧ s3.plan = s.plan ∧ s3.manifest = s.manifest ∧ s3.faults = s.faults
      ∧ s3.link = s.link ∧ s3.lines = s.lines ∧ s3.ring.held = s1.ring.held ∧ s3.ring.freeList = s.ring.freeList ∧ s3.ring.waitList = w := by
    rw [show s3 = _ from h3]
    exact ⟨rfl, rfl, rfl, rfl, rfl, rfl, rfl, rfl, rfl, rfl, rfl⟩
  obtain ⟨hports, hclips, hjobs, hplan, hman, hfaults, hlink, hlines, hheld, hfree, hwait⟩ := hs3
  rw [heq]
  refine ⟨⟨fun e => ?_, fun p => ?_, ?_, hfree, ?_, hjobs, hplan, hman, hfaults, hlink, hlines⟩, hclips⟩
  · by_cases he : e = d
    · subst he; exact ⟨_, (hdest3 e).trans (if_pos rfl)⟩
    · refine ⟨(s.dest e).abandoned, ((hdest3 e).trans (if_neg he)).trans ?_⟩
      have : (onlyCopy c d · e) = fun _ => false := funext fun b => by simp [onlyCopy, he]
      rw [this, DestPort.left_none]
  · have := (hport p).trans (if_pos (mem_allPorts p))
    rw [hv, State.port_congr hports] at this
    simp only [suppliesCopy_eq] at this
    exact ⟨_, this⟩
  · refine hheld.trans (List.map_congr_left fun e _ => ?_)
    exact congrArg (Prod.mk e.1) (Slot.left_only e.2 c d)
  · change s3.ring.waitList.Sublist _
    rw [hwait, hw]
    split_ifs
    · exact List.filter_sublist
    · exact List.Sublist.refl _

end Sys2Proof.Machine

/-! Live copies aborted while the read lanes are at rest (R11, R16, R70). -/

namespace Sys2Proof.Machine

/-- Is the copy of clip `c` on `d` live? -/
def State.liveCopy (s : State) (c : Nat) (d : DestNo) : Bool := (s.copy? c d).any (·.state.live)

/-- From `s` to `t` the copies that are `gone` were aborted and their work withdrawn. -/
structure State.Aborts (s : State) (gone : Nat → DestNo → Bool) (t : State) : Prop where
  leaves : s.Leaves gone t
  live : ∀ c d, gone c d = true → s.liveCopy c d = true
  copy : ∀ c d, t.copy? c d = if gone c d then (s.copy? c d).map fun k => { k with state := .aborted } else s.copy? c d
  clip : ∀ b x, s.clip? b = some x → ∃ v, t.clip? b = some { x with copies := v }
  free : ∀ b, s.clip? b = none → t.clip? b = none

namespace State.Aborts

variable {s t u : State} {g g' : Nat → DestNo → Bool}

theorem refl (s : State) : s.Aborts (fun _ _ => false) s :=
  ⟨.refl s, nofun, fun _ _ => rfl, fun _ x hx => ⟨x.copies, hx⟩, fun _ => id⟩

theorem congr (h : s.Aborts g t) (hg : ∀ c d, g c d = g' c d) : s.Aborts g' t := by
  rwa [show g = g' from funext fun c => funext (hg c)] at h

theorem liveCopy (h : s.Aborts g t) (c : Nat) (d : DestNo) : t.liveCopy c d = (s.liveCopy c d && !g c d) := by
  rw [State.liveCopy, h.copy]
  split_ifs with hg
  · cases hk : s.copy? c d <;> simp [hg, CopyState.live]
  · simp [hg, State.liveCopy]

theorem trans (h : s.Aborts g t) (h' : t.Aborts g' u) : s.Aborts (fun c d => g c d || g' c d) u := by
  refine ⟨h.leaves.trans h'.leaves, fun c d hg => ?_, fun c d => ?_, fun b x hx => ?_, fun b hb => h'.free b (h.free b hb)⟩
  · rcases Bool.or_eq_true_iff.1 hg with hg | hg
    · exact h.live c d hg
    · have := h'.live c d hg
      rw [h.liveCopy] at this
      exact (Bool.and_eq_true_iff.1 this).1
  · rw [h'.copy, h.copy]
    by_cases hg : g c d = true
    · have hg' : g' c d = false := by
        rw [Bool.eq_false_iff]
        intro hc
        have := h'.live c d hc
        rw [h.liveCopy, hg] at this
        simp at this
      simp [hg, hg']
    · by_cases hg' : g' c d = true <;> simp [hg, hg']
  · obtain ⟨v, hv⟩ := h.clip b x hx
    obtain ⟨w, hw⟩ := h'.clip b _ hv
    exact ⟨w, hw⟩

theorem readsRest (h : s.Aborts g t) (hr : s.ReadsRest) : t.ReadsRest := fun e => by
  obtain ⟨a, ha⟩ := h.leaves.dest e
  rw [ha]; exact hr e

/-- A clip of which no copy is aborted stays as it is. -/
theorem clip_eq (h : s.Aborts g t) {b : Nat} (hb : ∀ d, g b d = false) : t.clip? b = s.clip? b := by
  cases hx : s.clip? b with
  | none => exact h.free b hx
  | some x =>
    obtain ⟨v, hv⟩ := h.clip b x hx
    have hcopies : v = x.copies := by
      refine Vector.ext fun i hi => ?_
      have := h.copy b ⟨i, hi⟩
      rw [hb, State.copy?, State.copy?, hv, hx] at this
      exact this
    rw [hv, hcopies]

theorem clipState (h : s.Aborts g t) (b : Nat) : t.clipState? b = s.clipState? b := by
  cases hx : s.clip? b with
  | none => rw [State.clipState?, State.clipState?, h.free b hx, hx]
  | some x =>
    obtain ⟨v, hv⟩ := h.clip b x hx
    rw [State.clipState?, State.clipState?, hv, hx]; rfl

end State.Aborts

/-- One copy aborted, when it is live. -/
theorem State.abortCopy_aborts {s : State} (h : s.ReadsRest) (c : Nat) (d : DestNo) :
    s.Aborts (fun b e => onlyCopy c d b e && s.liveCopy b e) (s.abortCopy c d) := by
  by_cases hl : s.liveCopy c d = true
  · obtain ⟨k, hk, hlive⟩ := Option.any_eq_true _ _ |>.1 hl
    obtain ⟨x, hx, hkx⟩ := State.copy_some_iff.1 hk
    let s1 := s.modCopy c d fun k => { k with state := .aborted }
    have hrun : s.abortCopy c d = s1.withdrawCopy c d := by simp only [State.abortCopy, hk, hlive, if_true, s1]
    have hd1 (e : DestNo) : s1.dest e = s.dest e := State.dest_modCopy s c d _ e
    obtain ⟨hleaves, hclips⟩ := State.withdrawCopy_leaves (s := s1) (fun e => by rw [hd1]; exact h e) c d
    have hg : (fun b e => onlyCopy c d b e && s.liveCopy b e) = onlyCopy c d := by
      funext b e
      by_cases hbe : b = c ∧ e = d
      · obtain ⟨rfl, rfl⟩ := hbe; simp [onlyCopy, hl]
      · simp [onlyCopy, hbe]
    rw [hg, hrun]
    refine ⟨⟨fun e => by rw [← hd1]; exact hleaves.dest e, fun p => ?_, ?_, ?_, ?_, ?_, ?_, ?_, ?_, ?_, ?_⟩, fun b e hbe => ?_, fun b e => ?_,
      fun b y hy => ?_, fun b hb => ?_⟩
    · have := hleaves.port p
      rwa [State.port_modCopy] at this
    · rw [hleaves.held, State.modCopy_ring]
    · rw [hleaves.freeList, State.modCopy_ring]
    · have := hleaves.waitList
      rwa [State.modCopy_ring] at this
    · exact hleaves.jobs.trans (State.modCopy_jobs s c d _)
    · exact hleaves.plan.trans (State.modCopy_plan s c d _)
    · exact hleaves.manifest.trans (State.modCopy_manifest s c d _)
    · exact hleaves.faults.trans (State.modCopy_faults s c d _)
    · exact hleaves.link.trans (State.modCopy_link s c d _)
    · exact hleaves.lines.trans (State.modCopy_lines s c d _)
    · obtain ⟨rfl, rfl⟩ : b = c ∧ e = d := by simpa [onlyCopy] using hbe
      exact hl
    · rw [State.copy_congr hclips, State.copy_modCopy]
      by_cases hbe : b = c ∧ e = d
      · obtain ⟨rfl, rfl⟩ := hbe; simp [onlyCopy]
      · simp [onlyCopy, hbe]
    · rw [State.clip_congr hclips, show s1 = _ from State.modCopy_of_some hx hkx _, State.clip_setClip]
      split_ifs with hb
      · subst hb
        obtain rfl := Option.some.inj (hx.symm.trans hy)
        exact ⟨_, rfl⟩
      · exact ⟨y.copies, hy⟩
    · rw [State.clip_congr hclips, show s1 = _ from State.modCopy_of_some hx hkx _, State.clip_setClip, if_neg ?_, hb]
      rintro rfl
      rw [hx] at hb; cases hb
  · have hrun : s.abortCopy c d = s := by
      unfold State.abortCopy
      split
      · rfl
      · rename_i k hk
        exact if_neg fun hlive => hl (by simp [State.liveCopy, hk, hlive])
    rw [hrun]
    refine (State.Aborts.refl s).congr fun b e => ?_
    by_cases hbe : b = c ∧ e = d
    · obtain ⟨rfl, rfl⟩ := hbe; simp [hl]
    · simp [onlyCopy, hbe]

/-- These copies aborted in turn, where they are live. -/
def State.abortAll (s : State) (l : List (Nat × DestNo)) : State := l.foldl (fun s p => s.abortCopy p.1 p.2) s

theorem State.abortAll_aborts (l : List (Nat × DestNo)) {s : State} (h : s.ReadsRest) :
    s.Aborts (fun b e => l.contains (b, e) && s.liveCopy b e) (s.abortAll l) := by
  induction l generalizing s with
  | nil => exact .refl s
  | cons p l ih =>
    have h1 := State.abortCopy_aborts h p.1 p.2
    have h2 := ih (h1.readsRest h)
    refine (h1.trans h2).congr fun b e => ?_
    rw [h1.liveCopy]
    by_cases hbe : b = p.1 ∧ e = p.2
    · obtain ⟨rfl, rfl⟩ := hbe
      simp [onlyCopy]
    · have : (b, e) ≠ p := by
        rintro rfl
        exact hbe ⟨rfl, rfl⟩
      simp [onlyCopy, hbe, this]

theorem State.abortCopies_eq (s : State) (c : Nat) : s.abortCopies c = s.abortAll (allDests.map fun d => (c, d)) := by
  rw [State.abortAll, List.foldl_map]; rfl

/-- Every live copy of a clip aborted. -/
theorem State.abortCopies_aborts {s : State} (h : s.ReadsRest) (c : Nat) :
    s.Aborts (fun b e => b == c && s.liveCopy b e) (s.abortCopies c) := by
  rw [State.abortCopies_eq]
  refine (State.abortAll_aborts _ h).congr fun b e => ?_
  by_cases hb : b = c
  · subst hb; simp [mem_allDests]
  · simp [hb, Ne.symm hb]

/-! ### The slots the aborted copies leave -/

theorem State.mem_orphansSince {s t : State} {n : Nat} : n ∈ t.orphansSince s ↔ n ∈ t.orphans ∧ n ∉ s.orphans := by
  simp [State.orphansSince]

theorem State.mem_orphans_iff {s : State} {n : Nat} : n ∈ s.orphans ↔ ∃ y, (n, y) ∈ s.ring.held ∧ s.orphaned n y = true := by
  simp only [State.orphans, List.mem_map, List.mem_filter, Prod.exists]
  constructor
  · rintro ⟨m, y, ⟨h, ho⟩, rfl⟩; exact ⟨y, h, ho⟩
  · rintro ⟨y, h, ho⟩; exact ⟨n, y, ⟨h, ho⟩, rfl⟩

namespace State.Leaves

variable {s t : State} {g : Nat → DestNo → Bool}

theorem sound (h : s.Leaves g t) (hs : s.ring.Sound) : t.ring.Sound := by
  have hkeys : t.ring.held.map Prod.fst = s.ring.held.map Prod.fst := by rw [h.held, List.map_map]; rfl
  refine ⟨?_, ?_⟩
  · have := hs.1
    rw [Table.wf_iff] at this ⊢
    rwa [show Table.keys t.ring.held = Table.keys s.ring.held from hkeys]
  · rw [h.freeList, hkeys]; exact hs.2

theorem slot (h : s.Leaves g t) (n : Nat) : t.slot? n = (s.slot? n).map (·.left g) := by
  rw [State.slot?, h.held]
  exact Table.find_mapAll (fun _ y => y.left g) n s.ring.held

theorem lanesIdle (h : s.Leaves g t) (hs : s.LanesIdle) : t.LanesIdle := fun d => by
  obtain ⟨a, ha⟩ := h.dest d
  obtain ⟨hcopies, hcur⟩ := hs d
  rw [ha]
  simp [DestPort.left, Lane.left, hcopies, hcur]

end State.Leaves

theorem Ring.Sound.nodup {r : Ring} (h : r.Sound) : (r.held.map Prod.fst).Nodup :=
  (List.nodup_append.1 (h.2.nodup_iff.2 List.nodup_range)).2.1

theorem Ring.Sound.length_le {r : Ring} (h : r.Sound) : r.held.length ≤ 2048 := by
  have := h.2.length_eq
  simp only [List.length_append, List.length_map, List.length_range, slotCount] at this
  omega

theorem State.length_orphansSince {s t : State} (h : t.ring.Sound) : (t.orphansSince s).length ≤ 2048 := by
  refine le_trans ((List.length_filter_le _ _).trans ?_) h.length_le
  rw [State.orphans, List.length_map]
  exact List.length_filter_le _ _

theorem State.nodup_orphansSince {s t : State} (h : t.ring.Sound) : (t.orphansSince s).Nodup := by
  refine List.Nodup.filter _ ?_
  exact h.nodup.sublist (List.filter_sublist.map _)

end Sys2Proof.Machine

/-! CLIP_EXCLUDE (R13, R16; O53). -/

namespace Sys2Proof.Machine

/-- A clip excluded, before its copies are aborted. -/
def Clip.excluded (x : Clip) : Clip := { x with state := .excluded, prior := some x.state }

/-- From `s` to `u` clip `c` (record `x`) was excluded: its copies aborted, slots freed, its record emitted, its job
settled. -/
structure State.Excludes (s : State) (c : Nat) (x : Clip) (u : State) : Prop where
  clip : ∀ b, b ≠ c → u.clip? b = s.clip? b
  self : ∃ v, u.clip? c = some { x.excluded with copies := v, mstatus := .queued }
  copy : ∀ d : DestNo, u.copy? c d = x.copies[d].map fun k => if k.state.live then { k with state := .aborted } else k
  dest : ∀ d, ∃ a h, u.dest d = { (s.dest d).left (fun b => b == c && s.liveCopy b d) a with
    lane := { ((s.dest d).left (fun b => b == c && s.liveCopy b d) a).lane with held := h } }
  manifest : ∃ m, u.manifest = { s.manifest with queue := s.manifest.queue ++ [m] } ∧ m.kind = .excluded ∧ m.clip = c
    ∧ m.job = x.job ∧ m.prior = some x.state ∧ m.sum = x.sum ∧ m.length = x.length
  faults : u.faults = s.faults
  sound : u.ring.Sound
  settled : ∃ t : State, (∃ h, t.job x.job = { s.job x.job with held := h }) ∧ t.clips = u.clips ∧ t.Settled x.job (u.job x.job).state

theorem excludeClip_effects {s : State} {c : Nat} {x : Clip} (hx : s.clip? c = some x) (hidle : s.LanesIdle) (hrest : s.ReadsRest)
    (hsound : s.ring.Sound) (hroom : s.manifest.queue.length < 512) :
    ∃ u, s.Excludes c x u
      ∧ effects false 7000 ((excludeClip c x s).now ++ (excludeClip c x s).later) (excludeClip c x s).state = some u := by
  let s1 := s.setClip c x.excluded
  have hclip1 (b : Nat) : s1.clip? b = if b = c then some x.excluded else s.clip? b := State.clip_setClip _ _ _ _
  have hlive1 (b : Nat) (d : DestNo) : s1.liveCopy b d = s.liveCopy b d := by
    simp only [State.liveCopy, State.copy?, hclip1]
    split_ifs with hb
    · rw [hb, hx]; rfl
    · rfl
  let s2 := s1.abortCopies c
  have ha : s1.Aborts (fun b d => b == c && s.liveCopy b d) s2 :=
    (State.abortCopies_aborts (s := s1) hrest c).congr fun b d => by rw [hlive1]
  have hsound2 : s2.ring.Sound := ha.leaves.sound hsound
  have hidle2 : s2.LanesIdle := ha.leaves.lanesIdle hidle
  let ns := s2.orphansSince s
  have hns : ns.length ≤ 2048 := State.length_orphansSince hsound2
  obtain ⟨t1, hf, hfree⟩ := effects_freeSlots_idle ns hidle2
  obtain ⟨v, hv⟩ := ha.clip c x.excluded ((hclip1 c).trans (if_pos rfl))
  have hman1 : t1.manifest = s.manifest := hf.manifest.trans ha.leaves.manifest
  obtain ⟨t2, ht2, hclip2, hman2, hports2, hjobs2, hring2, hdests2, -, hfaults2⟩ :=
    State.emitRecord_room (s := t1) (c := c) (x := { x.excluded with copies := v }) ((State.clip_congr hf.clips c).trans hv)
      (by rw [hman1]; exact hroom)
  obtain ⟨st, u, hst, hto, hsettle⟩ := effects_settle t2 x.job
  have hlanes : s.lanesWith c = [] := by
    rw [State.lanesWith, List.filter_eq_nil_iff]
    intro d _
    simp [(hidle d).1]
  have hclip (b : Nat) : u.clip? b = if b = c then some { x.excluded with copies := v, mstatus := .queued } else s.clip? b := by
    rw [State.clip_congr hto.clips, hclip2]
    split_ifs with hb
    · rfl
    · rw [State.clip_congr hf.clips, ha.clip_eq fun d => by simp [hb], hclip1, if_neg hb]
  have hjob2 : ∃ h, t2.job x.job = { s.job x.job with held := h } := by
    obtain ⟨h, hh⟩ := hf.job x.job
    exact ⟨h, by rw [State.job_congr hjobs2, hh, State.job_congr ha.leaves.jobs]; rfl⟩
  have hrecord : (t1.formRecord c { x.excluded with copies := v }).prior = some x.state := rfl
  refine ⟨u, ⟨fun b hb => (hclip b).trans (if_neg hb), ⟨v, (hclip c).trans (if_pos rfl)⟩, fun d => ?_, fun d => ?_,
    ⟨_, hto.manifest.trans (hman2.trans (by rw [hman1])), rfl, rfl, rfl, rfl, rfl, rfl⟩,
    hto.faults.trans (hfaults2.trans (hf.faults.trans ha.leaves.faults)),
    by rw [hto.ring, hring2]; exact hf.sound hsound2, ⟨t2, hjob2, hto.clips.symm, ?_⟩⟩, ?_⟩
  · have hleft : u.copy? c d = s2.copy? c d := by
      rw [State.copy?, hclip, if_pos rfl, State.copy?, hv]; rfl
    have hcopy1 : s1.copy? c d = x.copies[d] := by rw [State.copy?, hclip1, if_pos rfl]; rfl
    have hlive : s.liveCopy c d = (x.copies[d]).any (·.state.live) := by rw [← hlive1, State.liveCopy, hcopy1]
    rw [hleft, ha.copy, hcopy1, hlive]
    cases x.copies[d] with
    | none => simp
    | some k => simp only [beq_self_eq_true, Option.any_some, Bool.true_and, Option.map_some]; split_ifs <;> rfl
  · obtain ⟨a, hd⟩ := ha.leaves.dest d
    obtain ⟨h, hd'⟩ := hf.dest d
    refine ⟨a, h, ?_⟩
    rw [State.dest_congr (hto.dests.trans hdests2), hd', hd]; rfl
  · rw [hto.job, if_pos rfl]; exact hst
  · change effects false 7000 ([.freeSlots ns, .emit c, .settle x.job] ++ (s.lanesWith c).map Task.laneGo) s2 = some u
    rw [hlanes]
    refine effects_mono (n := (0 + 2 + 1) + 1 + 3 * ns.length) (by omega) (hfree (ts := [.emit c, .settle x.job]) ?_)
    have hemit : (Task.emit c).run t1 = t2.still := congrArg State.still ht2
    exact (effects_still (a := .emit c) hemit rfl).trans (hsettle (effects_nil _ _))

theorem ruleClipExclude_taken {s : State} {c : Nat} {x : Clip} (hc : c < 4096) (hx : s.clip? c = some x)
    (hst : x.state = .listed ∨ x.state = .read ∨ x.state = .sourceFault ∨ x.state = .unstable) :
    ruleClipExclude c s = .take [] (excludeClip c x s) := by
  rw [ruleClipExclude, onClip_used hc hx]
  rcases hst with h | h | h | h <;> rw [h]

/-- CLIP_EXCLUDE taken, with lanes and read lanes at rest. -/
theorem clipExclude_excludes {tag : Byte} {c : Nat} {x : Clip} {s : State} {e : EntryNo} (he : s.link.freeEntry = some e)
    (hc : c < 4096) (hx : s.clip? c = some x)
    (hst : x.state = .listed ∨ x.state = .read ∨ x.state = .sourceFault ∨ x.state = .unstable) (hidle : s.LanesIdle)
    (hrest : s.ReadsRest) (hsound : s.ring.Sound) (hroom : s.manifest.queue.length < 512) :
    ∃ t u, exec (.clipExclude tag c) s = .next t ∧ s.Excludes c x u ∧ u.Ends t ∧ t.plan = s.plan
      ∧ s.link.AnswersTo t.link e tag 0x29 [] := by
  obtain ⟨u, hex, heff⟩ := excludeClip_effects (s := s.quiet.owing e tag 0x29) hx hidle hrest hsound hroom
  have ha := State.abortCopies_aborts (s := (s.quiet.owing e tag 0x29).setClip c x.excluded) hrest c
  have hlink : (excludeClip c x (s.quiet.owing e tag 0x29)).state.link = (s.quiet.owing e tag 0x29).link := ha.leaves.link
  have hplan : (excludeClip c x (s.quiet.owing e tag 0x29)).state.plan = s.plan := ha.leaves.plan
  obtain ⟨t, ht, hends, htplan, hans⟩ := State.take_effects (s := s.quiet) (owner := fun _ s => ruleClipExclude c s) he
    (ruleClipExclude_taken (s := s.quiet.owing e tag 0x29) hc hx hst) (by rw [hlink]; exact Link.OnlyNotices.refl _) (by omega) heff
  exact ⟨t, u, (exec_clipExclude tag c s).trans ht, ⟨hex.clip, hex.self, hex.copy, hex.dest, hex.manifest, hex.faults,
    hex.sound, hex.settled⟩, hends, htplan.trans hplan, hans⟩

/-- The items of a copy that was aborted are gone from the queues. -/
theorem DestPort.queue_left (x : DestPort) (gone : Nat → Bool) (a : Bool) (w : Writer) :
    (x.left gone a).queue w = (x.queue w).filter fun i => !gone i.clip := by
  cases w with
  | wq j => simp [DestPort.queue, DestPort.left]
  | cq => rfl

/-- Settles O53: the copies aborted, the slots freed, the record emitted, the job settled. -/
theorem clipExcludeSettles : Obligations.ClipExcludeSettles := by
  intro tag c x s e he hc hx hst hidle hrest hsound hwait hroom
  obtain ⟨t, u, ht, hex, hends, hplan, hans⟩ := clipExclude_excludes (tag := tag) he hc hx hst hidle hrest hsound hroom
  obtain ⟨v, hself⟩ := hex.self
  obtain ⟨m, hm, hkind, hclip, hjob, hprior, hsum, hlength⟩ := hex.manifest
  refine ⟨t, m, ht, ?_, fun d => (hends.copy c d).trans (hex.copy d), fun b hb => (hends.clip b).trans (hex.clip b hb),
    hends.manifest.trans hm, hkind, hclip, hjob, hprior, hsum, hlength, fun d w i hi hic k hk => ?_, fun d => ?_, hplan,
    hends.faults.trans hex.faults, by rw [hends.ring]; exact hex.sound, hans⟩
  · rw [hends.clipState, State.clipState?, hself]; rfl
  · obtain ⟨a, h, hd⟩ := hex.dest d
    have hq : (u.dest d).queue w = ((s.dest d).queue w).filter fun i => !(i.clip == c && s.liveCopy i.clip d) := by
      rw [hd, ← DestPort.queue_left (s.dest d) (fun b => b == c && s.liveCopy b d) a w]
      cases w <;> rfl
    rw [hends.queue, hq, List.mem_filter] at hi
    have hlive : s.liveCopy c d = k.state.live := by
      rw [State.liveCopy, State.copy_some_iff.2 ⟨x, hx, hk⟩]; rfl
    simpa [hic, hlive] using hi.2
  · obtain ⟨a, h, hd⟩ := hex.dest d
    rw [hends.destState, hends.binding, hd]
    exact ⟨rfl, rfl⟩

end Sys2Proof.Machine

/-! A unit whose source fails is sourced again (R116, R123). -/

namespace Sys2Proof.Machine

/-! ### The next VERIFIED copy -/

theorem allDests_pairwise : allDests.Pairwise (· < ·) := by decide

theorem State.source_fits_iff {s : State} {d : DestNo} {x : Clip} {l : List DestNo} (f : DestNo) :
    (f ∈ x.destsWith (fun k => decide (k.state = .verified))
        ∧ (decide (f ≠ d) && s.isActive f && !l.contains f) = true)
      ↔ f ≠ d ∧ f ∉ l ∧ (s.dest f).state = .active ∧ ∃ k, x.copies[f] = some k ∧ k.state = .verified := by
  rw [Clip.mem_destsWith]
  simp [State.isActive]
  tauto

theorem State.verifiedSource_of_next {s : State} {d e : DestNo} {c : Nat} {x : Clip} {out l : List DestNo} (hx : s.clip? c = some x)
    (hl : ∀ f, f ∈ l ↔ f ∈ out) (h : NextSource s d x out e) : s.verifiedSource d c l = some e := by
  obtain ⟨hfits, hleast⟩ := h
  have hiff (f : DestNo) := s.source_fits_iff (d := d) (x := x) (l := l) f
  simp only [hl] at hiff
  simp only [State.verifiedSource, hx]
  obtain ⟨hmem, hok⟩ := (hiff e).2 hfits
  cases hfind : (x.destsWith fun k => decide (k.state = .verified)).find?
      fun e => decide (e ≠ d) && s.isActive e && !l.contains e with
  | none => exact absurd hok (List.find?_eq_none.1 hfind e hmem)
  | some f =>
    obtain ⟨hf, before, after, hsplit, hbefore⟩ := List.find?_eq_some_iff_append.1 hfind
    have hfmem : f ∈ x.destsWith fun k => decide (k.state = .verified) := by rw [hsplit]; simp
    have hnotlt : ¬f < e := fun hlt => hleast f hlt ((hiff f).1 ⟨hfmem, hf⟩)
    rw [hsplit, List.mem_append, List.mem_cons] at hmem
    rcases hmem with hb | rfl | ha
    · have := hbefore e hb
      rw [hok] at this; simp at this
    · rfl
    · have hsorted : (x.destsWith fun k => decide (k.state = .verified)).Pairwise (· < ·) := allDests_pairwise.filter _
      rw [hsplit] at hsorted
      exact absurd ((List.pairwise_cons.1 (List.pairwise_append.1 hsorted).2.1).1 e ha) hnotlt

theorem State.verifiedSource_none {s : State} {d : DestNo} {c : Nat} {x : Clip} {out l : List DestNo} (hx : s.clip? c = some x)
    (hl : ∀ f, f ∈ l ↔ f ∈ out) (h : ∀ e, ¬NextSource s d x out e) : s.verifiedSource d c l = none := by
  by_contra hne
  obtain ⟨e, he⟩ := Option.ne_none_iff_exists'.1 hne
  simp only [State.verifiedSource, hx] at he
  obtain ⟨hok, before, after, hsplit, hbefore⟩ := List.find?_eq_some_iff_append.1 he
  have hiff (f : DestNo) := s.source_fits_iff (d := d) (x := x) (l := l) f
  simp only [hl] at hiff
  refine h e ⟨(hiff e).1 ⟨by rw [hsplit]; simp, hok⟩, fun f hlt hfits => ?_⟩
  obtain ⟨hmem, hf⟩ := (hiff f).2 hfits
  have hsorted : (x.destsWith fun k => decide (k.state = .verified)).Pairwise (· < ·) := allDests_pairwise.filter _
  rw [hsplit] at hmem hsorted
  rcases List.mem_append.1 hmem with hb | ha
  · have := hbefore f hb
    rw [hf] at this; simp at this
  · rcases List.mem_cons.1 ha with rfl | ha
    · exact lt_irrefl f hlt
    · exact absurd ((List.pairwise_cons.1 (List.pairwise_append.1 hsorted).2.1).1 f ha) (lt_asymm hlt)

theorem mem_destInsert (e f : DestNo) (l : List DestNo) : f ∈ destInsert e l ↔ f = e ∨ f ∈ l := by
  simp [destInsert, mem_allDests]

/-! ### The unit's item and slot, with the failed source excluded -/

/-- An item with a source excluded for its unit. -/
def Item.without (i : Item) : Source → Item
  | .card => { i with noCard := true }
  | .dest e => { i with noDests := destInsert e i.noDests }

/-- The state in which lane `d` sources the unit of slot `n` again, its item `i` become `i'`. -/
def State.resourcing (s : State) (d : DestNo) (n : Nat) (i' : Item) : State :=
  ((s.modDest d fun x => { x with cq := x.cq.map fun j => if j.names n then i' else j }).modLane d fun l =>
    { l with cardOnly := false, sum := none }).modSlot n fun x => { x with data := [] }

theorem State.resourcing_blocks (s : State) (d : DestNo) (n : Nat) (i' : Item) :
    (s.resourcing d n i').ports = s.ports ∧ (s.resourcing d n i').jobs = s.jobs ∧ (s.resourcing d n i').clips = s.clips
      ∧ (s.resourcing d n i').plan = s.plan ∧ (s.resourcing d n i').manifest = s.manifest
      ∧ (s.resourcing d n i').faults = s.faults ∧ (s.resourcing d n i').link = s.link
      ∧ (s.resourcing d n i').ring.freeList = s.ring.freeList ∧ (s.resourcing d n i').ring.waitList = s.ring.waitList := by
  simp only [State.resourcing, State.modSlot]
  split <;> exact ⟨rfl, rfl, rfl, rfl, rfl, rfl, rfl, rfl, rfl⟩

theorem Fills.find {s : State} {d : DestNo} {n c k : Nat} {y : Slot} {i : Item} (h : Fills s d n c k y i) :
    (s.dest d).cq.find? (·.names n) = some i := by
  obtain ⟨-, -, -, -, -, before, after, hcq, hi, hothers⟩ := h
  have hbefore : before.find? (·.names n) = none := List.find?_eq_none.2 fun z hz => by
    simpa [Item.names] using hothers z (.inl hz)
  rw [hcq, List.find?_append, hbefore, Option.none_or]
  exact List.find?_cons_of_pos (by simp [Item.names, hi])

theorem Fills.map {s : State} {d : DestNo} {n c k : Nat} {y : Slot} {i : Item} (h : Fills s d n c k y i) (i' : Item) :
    ((s.dest d).cq.map fun j => if j.names n then i' else j) = (s.dest d).cq.map fun z => if z = i then i' else z := by
  obtain ⟨-, -, -, -, -, before, after, hcq, hi, hothers⟩ := h
  refine List.map_congr_left fun z hz => ?_
  by_cases hzi : z = i
  · subst hzi; simp [Item.names, hi]
  · have : z.kind ≠ .data n := hothers z <| by
      rw [hcq, List.mem_append, List.mem_cons] at hz
      exact hz.imp id fun h => h.resolve_left hzi
    simp [Item.names, this, hzi]

section

variable {s : State} {d : DestNo} {n c k : Nat} {y : Slot} {i : Item} (h : Fills s d n c k y i)
include h

theorem Fills.dest_resourcing (i' : Item) (e : DestNo) : (s.resourcing d n i').dest e = if e = d then
    { s.dest d with
      cq := (s.dest d).cq.map fun z => if z = i then i' else z
      lane := { (s.dest d).lane with cardOnly := false, sum := none } } else s.dest e := by
  rw [State.resourcing, State.dest_modSlot, State.modLane, State.modDest_modDest, State.dest_modDest]
  refine ite_congr rfl (fun _ => ?_) fun _ => rfl
  rw [← Fills.map h i']

theorem Fills.slot_resourcing (i' : Item) (m : Nat) : (s.resourcing d n i').slot? m
    = if m = n then some { y with data := [] } else s.slot? m := by
  rw [State.resourcing, State.slot_modSlot]
  exact ite_congr rfl (fun _ => congrArg (Option.map _) h.1) fun _ => rfl

/-- What a failed source sets in motion: the card asked, when it may be, else the next VERIFIED copy, else the copy is
suspended. -/
theorem runCannotSupply_resourcing (src : Source) : runCannotSupply d n c k src s =
    let t := s.resourcing d n (i.without src)
    if (s.portFor c).isSome && !(i.without src).noCard then t.fillForLane d n c k .card
    else match t.verifiedSource d c (i.without src).noDests with
      | some e => t.fillForLane d n c k (.dest e)
      | none => t.andNow [.suspend c d] := by
  have hfind := Fills.find h
  obtain ⟨hy, hfill, hown, hclip, hunit, -⟩ := h
  simp only [runCannotSupply, hfind, hy, Option.any_some, hfill, hown, hclip, hunit, and_self, decide_true, if_true]
  have hport : (s.resourcing d n (i.without src)).portFor c = s.portFor c := by
    obtain ⟨-, hjobs, hclips, -⟩ := s.resourcing_blocks d n (i.without src)
    simp only [State.portFor, State.clip_congr hclips, State.job_congr hjobs]
  rw [← hport]
  cases src <;> rfl

/-- The card, bound and not excluded, is asked again. -/
theorem runCannotSupply_card {src : Source} {x : Clip} {p : PortNo} (hx : s.clip? c = some x)
    (hp : (s.job x.job).boundPort = some p) (hno : (i.without src).noCard = false) :
    runCannotSupply d n c k src s
      = ((s.resourcing d n (i.without src)).queuePieces p (.supply d x.job c k n) (unitPieces x k)).still := by
  obtain ⟨-, hjobs, hclips, -⟩ := s.resourcing_blocks d n (i.without src)
  have hport : s.portFor c = some p := by simp only [State.portFor, hx, Option.bind_some, hp]
  rw [runCannotSupply_resourcing h]
  simp only [hport, hno, Option.isSome_some, Bool.not_false, Bool.and_self, if_true]
  exact State.fillForLane_card ((State.clip_congr hclips c).trans hx) ((congrArg Job.boundPort (State.job_congr hjobs _)).trans hp)

omit h in
theorem Fills.resourcing_source {src : Source} {x : Clip} (hx : s.clip? c = some x) (hcard : (s.job x.job).boundPort = none ∨ (i.without src).noCard = true) :
    ((s.portFor c).isSome && !(i.without src).noCard) = false := by
  have hport : s.portFor c = (s.job x.job).boundPort := by simp only [State.portFor, hx, Option.bind_some]
  rcases hcard with h | h <;> simp [hport, h]

theorem Fills.nextSource_resourcing (i' : Item) (x : Clip) (out : List DestNo) (e : DestNo) :
    NextSource (s.resourcing d n i') d x out e ↔ NextSource s d x out e := by
  have hst (f : DestNo) : ((s.resourcing d n i').dest f).state = (s.dest f).state := by
    rw [Fills.dest_resourcing h]; split_ifs with hf <;> [rw [hf]; rfl]
  simp only [NextSource, hst]

/-- Else the next VERIFIED copy is. -/
theorem runCannotSupply_dest {src : Source} {x : Clip} {out : List DestNo} {e : DestNo} (hx : s.clip? c = some x)
    (hcard : (s.job x.job).boundPort = none ∨ (i.without src).noCard = true) (hout : ∀ f, f ∈ (i.without src).noDests ↔ f ∈ out)
    (he : NextSource s d x out e) :
    runCannotSupply d n c k src s = ((s.resourcing d n (i.without src)).appendRead e (.supply c k n d)).still := by
  obtain ⟨-, -, hclips, -⟩ := s.resourcing_blocks d n (i.without src)
  have hnext := (Fills.nextSource_resourcing h (i.without src) x out e).2 he
  rw [runCannotSupply_resourcing h]
  simp only [Fills.resourcing_source hx hcard, Bool.false_eq_true, if_false,
    State.verifiedSource_of_next ((State.clip_congr hclips c).trans hx) hout hnext]
  exact if_pos (decide_eq_true hnext.1.2.2.1)

/-- With neither, the copy is suspended. -/
theorem runCannotSupply_none {src : Source} {x : Clip} {out : List DestNo} (hx : s.clip? c = some x)
    (hcard : (s.job x.job).boundPort = none ∨ (i.without src).noCard = true) (hout : ∀ f, f ∈ (i.without src).noDests ↔ f ∈ out)
    (he : ∀ e, ¬NextSource s d x out e) :
    runCannotSupply d n c k src s = (s.resourcing d n (i.without src)).andNow [.suspend c d] := by
  obtain ⟨-, -, hclips, -⟩ := s.resourcing_blocks d n (i.without src)
  rw [runCannotSupply_resourcing h]
  simp only [Fills.resourcing_source hx hcard, Bool.false_eq_true, if_false,
    State.verifiedSource_none ((State.clip_congr hclips c).trans hx) hout
      fun e hn => he e ((Fills.nextSource_resourcing h (i.without src) x out e).1 hn)]

end

end Sys2Proof.Machine

/-! Work withdrawn: reads recalled from card ports and read lanes, a copy's items and its place in a lane given up, a
clip's live copies aborted (R70, R110, R126). -/

namespace Sys2Proof.Machine

/-! ### Reads recalled -/

/-- From `s` to `t` the read lane of `e` came to hold `jobs`; the one at its head may have become active, a VERIFY job's
copy VERIFYING with it (R112). -/
structure State.ReadsAt (s : State) (e : DestNo) (jobs : List ReadJob) (t : State) : Prop where
  others : ∀ f, f ≠ e → t.dest f = s.dest f
  dest : ∃ a rl, t.dest e = { s.dest e with rl := rl, abandoned := a } ∧ rl.jobs = jobs
  clip : ∀ b x, s.clip? b = some x → ∃ v, t.clip? b = some { x with copies := v } ∧ (∀ f : DestNo, f ≠ e → v[f] = x.copies[f])
    ∧ (v[e] = x.copies[e] ∨ (.verify b ∈ jobs ∧ v[e] = x.copies[e].map fun k => { k with state := .verifying }))
  free : ∀ b, s.clip? b = none → t.clip? b = none
  ports : t.ports = s.ports
  jobs : t.jobs = s.jobs
  ring : t.ring = s.ring
  plan : t.plan = s.plan
  manifest : t.manifest = s.manifest
  faults : t.faults = s.faults
  link : t.link = s.link

theorem State.activateRead_cases (s : State) (e : DestNo) :
    s.activateRead e = s
      ∨ (∃ c a, .verify c ∈ (s.dest e).rl.jobs
          ∧ s.activateRead e = (s.setActive e a).modCopy c e fun k => { k with state := .verifying })
      ∨ ∃ a, s.activateRead e = s.setActive e a := by
  unfold State.activateRead
  split
  · exact .inl rfl
  · split
    · exact .inl rfl
    · rename_i c rest hjobs
      exact .inr (.inl ⟨c, _, by simp [hjobs], rfl⟩)
    · exact .inr (.inr ⟨_, rfl⟩)

theorem State.clip_modCopy (s : State) (c : Nat) (d : DestNo) (f : Copy → Copy) (b : Nat) :
    (s.modCopy c d f).clip? b = if b = c then (s.clip? c).map fun x => { x with copies := x.copies.set d (x.copies[d].map f) }
      else s.clip? b := by
  unfold State.modCopy
  split
  · rename_i h
    split_ifs with hb
    · subst hb
      cases hx : s.clip? b with
      | none => rfl
      | some x =>
        have hnone : x.copies[d] = none := by simpa [State.copy?, hx] using h
        have hset : x.copies.set d (x.copies[d].map f) = x.copies := by
          rw [hnone, Option.map_none, ← hnone]
          exact Vector.set_getElem_self _
        rw [Option.map_some, hset]
    · rfl
  · rename_i k h
    rw [State.clip_setCopy]
    obtain ⟨x, hx, hk⟩ := State.copy_some_iff.1 h
    split_ifs
    · rw [hx, Option.map_some, Option.map_some, hk, Option.map_some]
    · rfl

theorem State.modDest_congr {s : State} {d : DestNo} {f g : DestPort → DestPort} (h : f (s.dest d) = g (s.dest d)) :
    s.modDest d f = s.modDest d g := by simp only [State.modDest, h]

theorem State.activateRead_readsAt (s : State) (e : DestNo) (rl : ReadLane) (a : Bool) :
    s.ReadsAt e rl.jobs ((s.modDest e fun x => { x with rl := rl, abandoned := a }).activateRead e) := by
  let s' := s.modDest e fun x => { x with rl := rl, abandoned := a }
  have hd (f : DestNo) : s'.dest f = if f = e then { s.dest e with rl := rl, abandoned := a } else s.dest f :=
    s.dest_modDest e _ f
  have hact (a' : Option ActiveRead) (f : DestNo) : (s'.setActive e a').dest f
      = if f = e then { s.dest e with rl := { rl with active := a' }, abandoned := a } else s.dest f := by
    rw [State.setActive, State.dest_modDest, hd, if_pos rfl, hd]
    split_ifs <;> rfl
  rcases s'.activateRead_cases e with h | ⟨c, a', hc, h⟩ | ⟨a', h⟩ <;> rw [h]
  · exact ⟨fun f hf => (hd f).trans (if_neg hf), ⟨a, rl, (hd e).trans (if_pos rfl), rfl⟩,
      fun b x hx => ⟨x.copies, hx, fun _ _ => rfl, .inl rfl⟩, fun _ => id, rfl, rfl, rfl, rfl, rfl, rfl, rfl⟩
  · have hlane : .verify c ∈ rl.jobs := by rwa [hd, if_pos rfl] at hc
    refine ⟨fun f hf => ?_, ⟨a, { rl with active := a' }, ?_, rfl⟩, fun b x hx => ?_, fun b hb => ?_, by simp [s'], by simp [s'],
      by simp [s'], by simp [s'], by simp [s'], by simp [s'], by simp [s']⟩
    · rw [State.dest_modCopy, hact, if_neg hf]
    · rw [State.dest_modCopy, hact, if_pos rfl]
    · rw [State.clip_modCopy]
      split_ifs with hb
      · subst hb
        refine ⟨x.copies.set e (x.copies[e].map fun k => { k with state := .verifying }), ?_, fun f hf => ?_, .inr ⟨hlane, ?_⟩⟩
        · rw [show (s'.setActive e a').clip? b = some x from hx]; rfl
        · rw [Vector.getElem_set_fin, if_neg hf]
        · rw [Vector.getElem_set_fin, if_pos rfl]
      · exact ⟨x.copies, hx, fun _ _ => rfl, .inl rfl⟩
    · rw [State.clip_modCopy]
      split_ifs with hc
      · subst hc; rw [show (s'.setActive e a').clip? b = none from hb]; rfl
      · exact hb
  · exact ⟨fun f hf => (hact a' f).trans (if_neg hf), ⟨a, { rl with active := a' }, (hact a' e).trans (if_pos rfl), rfl⟩,
      fun b x hx => ⟨x.copies, hx, fun _ _ => rfl, .inl rfl⟩, fun _ => id, rfl, rfl, rfl, rfl, rfl, rfl, rfl⟩

theorem State.withdrawJobs_readsAt (s : State) (gone : ReadJob → Bool) (e : DestNo) :
    s.ReadsAt e ((s.dest e).rl.jobs.filter fun r => !gone r) (s.withdrawJobs gone e) := by
  have h := s.activateRead_readsAt e
    { jobs := (s.dest e).rl.jobs.filter fun r => !gone r
      active := if (s.dest e).rl.active.isSome && (s.dest e).rl.jobs.head?.any gone then none else (s.dest e).rl.active
      sum := if (s.dest e).rl.active.isSome && (s.dest e).rl.jobs.head?.any gone then none else (s.dest e).rl.sum }
    ((s.dest e).abandoned || (((s.dest e).rl.active.isSome && (s.dest e).rl.jobs.head?.any gone)
      && (s.dest e).outstanding.any fun r => decide (r.serves = .readLane)))
  unfold State.withdrawJobs
  simp only
  rwa [State.modDest_congr (g := fun x => { x with rl := _, abandoned := _ })]
  rfl

theorem State.appendRead_readsAt (s : State) (e : DestNo) (job : ReadJob) :
    s.ReadsAt e ((s.dest e).rl.jobs ++ [job]) (s.appendRead e job) := by
  have h := s.activateRead_readsAt e { (s.dest e).rl with jobs := (s.dest e).rl.jobs ++ [job] } (s.dest e).abandoned
  unfold State.appendRead
  rwa [State.modDest_congr (g := fun x => { x with rl := _, abandoned := _ })]
  rfl

theorem State.endRead_readsAt (s : State) (e : DestNo) : s.ReadsAt e (s.dest e).rl.jobs.tail (s.endRead e) := by
  have h := s.activateRead_readsAt e { jobs := (s.dest e).rl.jobs.tail, active := none, sum := none } (s.dest e).abandoned
  unfold State.endRead
  rwa [State.modDest_congr (g := fun x => { x with rl := _, abandoned := _ })]
  rfl

/-- With nothing left in the read lane every clip stays as it is. -/
theorem State.ReadsAt.clips_of_nil {s t : State} {e : DestNo} (h : s.ReadsAt e [] t) (b : Nat) : t.clip? b = s.clip? b := by
  cases hb : s.clip? b with
  | none => exact h.free b hb
  | some x =>
    obtain ⟨v, hv, hne, he⟩ := h.clip b x hb
    have hcopies : v = x.copies := by
      refine Vector.ext fun i hi => ?_
      by_cases hie : (⟨i, hi⟩ : DestNo) = e
      · subst hie; simpa using he
      · exact hne ⟨i, hi⟩ hie
    rw [hv, hcopies]

/-- From `s` to `t` the reads of `work` and `gone` were withdrawn from every card port and read lane. -/
structure State.Recalls (s : State) (work : ReaderWork → Bool) (gone : DestNo → ReadJob → Bool) (t : State) : Prop where
  port : ∀ p, t.port p = { s.port p with
    fifo := (s.port p).fifo.filter fun i => !work i.work
    abandoned := (s.port p).abandoned || (s.port p).outstanding.any fun r => work r.item.work }
  dest : ∀ e, ∃ a rl, t.dest e = { s.dest e with rl := rl, abandoned := a }
    ∧ rl.jobs = (s.dest e).rl.jobs.filter fun r => !gone e r
  clip : ∀ b x, s.clip? b = some x → ∃ v, t.clip? b = some { x with copies := v } ∧ ∀ e : DestNo,
    v[e] = x.copies[e] ∨ (.verify b ∈ (t.dest e).rl.jobs ∧ v[e] = x.copies[e].map fun k => { k with state := .verifying })
  free : ∀ b, s.clip? b = none → t.clip? b = none
  jobs : t.jobs = s.jobs
  ring : t.ring = s.ring
  plan : t.plan = s.plan
  manifest : t.manifest = s.manifest
  faults : t.faults = s.faults
  link : t.link = s.link

/-- From `s` to `t` reads were withdrawn from the read lanes of `l`. -/
structure State.RecallsAt (s : State) (gone : DestNo → ReadJob → Bool) (l : List DestNo) (t : State) : Prop where
  dest : ∀ e, ∃ a rl, t.dest e = { s.dest e with rl := rl, abandoned := a }
    ∧ rl.jobs = (s.dest e).rl.jobs.filter fun r => !(decide (e ∈ l) && gone e r)
  others : ∀ e, e ∉ l → t.dest e = s.dest e
  clip : ∀ b x, s.clip? b = some x → ∃ v, t.clip? b = some { x with copies := v } ∧ ∀ e : DestNo, v[e] = x.copies[e]
    ∨ (e ∈ l ∧ .verify b ∈ (t.dest e).rl.jobs ∧ v[e] = x.copies[e].map fun k => { k with state := .verifying })
  free : ∀ b, s.clip? b = none → t.clip? b = none
  ports : t.ports = s.ports
  jobs : t.jobs = s.jobs
  ring : t.ring = s.ring
  plan : t.plan = s.plan
  manifest : t.manifest = s.manifest
  faults : t.faults = s.faults
  link : t.link = s.link

theorem State.RecallsAt.cons {s u t : State} {gone : DestNo → ReadJob → Bool} {d : DestNo} {l : List DestNo} (hd : d ∉ l)
    (h : s.ReadsAt d ((s.dest d).rl.jobs.filter fun r => !gone d r) u) (ih : u.RecallsAt gone l t) : s.RecallsAt gone (d :: l) t := by
  refine ⟨fun e => ?_, fun e he => ?_, fun b x hx => ?_, fun b hb => ih.free b (h.free b hb), ih.ports.trans h.ports,
    ih.jobs.trans h.jobs, ih.ring.trans h.ring, ih.plan.trans h.plan, ih.manifest.trans h.manifest, ih.faults.trans h.faults,
    ih.link.trans h.link⟩
  · by_cases he : e = d
    · subst he
      obtain ⟨a, rl, heq, hrl⟩ := h.dest
      exact ⟨a, rl, (ih.others e hd).trans heq, by simpa using hrl⟩
    · obtain ⟨a, rl, heq, hrl⟩ := ih.dest e
      rw [h.others e he] at heq hrl
      exact ⟨a, rl, heq, by simpa [he] using hrl⟩
  · obtain ⟨he, hel⟩ := not_or.1 (mt List.mem_cons.2 he)
    exact (ih.others e hel).trans (h.others e he)
  · obtain ⟨v, hv, hne, hvd⟩ := h.clip b x hx
    obtain ⟨w, hw, hwe⟩ := ih.clip b _ hv
    refine ⟨w, hw, fun e => ?_⟩
    by_cases he : e = d
    · subst he
      have hwv : w[e] = v[e] := (hwe e).resolve_right fun h => hd h.1
      obtain ⟨a, rl, heq, hrl⟩ := h.dest
      rw [hwv]
      refine hvd.imp_right fun ⟨hm, hmap⟩ => ⟨by simp, ?_, hmap⟩
      rw [ih.others e hd, heq, hrl]; exact hm
    · rcases hwe e with h' | ⟨hm, hv', h'⟩
      · exact .inl (h'.trans (hne e he))
      · exact .inr ⟨by simp [hm], hv', by rw [h']; exact congrArg _ (hne e he)⟩

theorem State.recallsAt (gone : DestNo → ReadJob → Bool) (l : List DestNo) (hl : l.Nodup) (s : State) :
    s.RecallsAt gone l (l.foldl (fun s e => s.withdrawJobs (gone e) e) s) := by
  induction l generalizing s with
  | nil =>
    exact ⟨fun e => ⟨(s.dest e).abandoned, (s.dest e).rl, rfl, by simp⟩, fun _ _ => rfl,
      fun b x hx => ⟨x.copies, hx, fun _ => .inl rfl⟩, fun _ => id, rfl, rfl, rfl, rfl, rfl, rfl, rfl⟩
  | cons d l ih =>
    obtain ⟨hd, hl⟩ := List.nodup_cons.1 hl
    exact State.RecallsAt.cons hd (s.withdrawJobs_readsAt (gone d) d) (ih hl _)

theorem State.RecallsAt.recalls {s u t : State} {work : ReaderWork → Bool} {gone : DestNo → ReadJob → Bool} {v : Vector CardPort 8}
    (hu : u = { s with ports := v }) (hport : ∀ p, u.port p = { s.port p with
      fifo := (s.port p).fifo.filter fun i => !work i.work
      abandoned := (s.port p).abandoned || (s.port p).outstanding.any fun r => work r.item.work })
    (h : u.RecallsAt gone allDests t) : s.Recalls work gone t := by
  obtain ⟨hdest, -, hclip, hfree, hports, hjobs, hring, hplan, hman, hfaults, hlink⟩ := h
  have hb : u.dests = s.dests ∧ u.clips = s.clips ∧ u.jobs = s.jobs ∧ u.ring = s.ring ∧ u.plan = s.plan ∧ u.manifest = s.manifest
      ∧ u.faults = s.faults ∧ u.link = s.link := by rw [hu]; exact ⟨rfl, rfl, rfl, rfl, rfl, rfl, rfl, rfl⟩
  obtain ⟨ud, uc, uj, ur, up, um, uf, ul⟩ := hb
  refine ⟨fun p => (State.port_congr hports p).trans (hport p), fun e => ?_, fun b x hx => ?_,
    fun b hb => hfree b ((State.clip_congr uc b).trans hb), hjobs.trans uj, hring.trans ur, hplan.trans up, hman.trans um,
    hfaults.trans uf, hlink.trans ul⟩
  · obtain ⟨a, rl, heq, hrl⟩ := hdest e
    rw [State.dest_congr ud] at heq hrl
    exact ⟨a, rl, heq, by simpa [mem_allDests] using hrl⟩
  · obtain ⟨w, hw, hwe⟩ := hclip b x ((State.clip_congr uc b).trans hx)
    exact ⟨w, hw, fun e => (hwe e).imp_right fun h => h.2⟩

/-- The reads for a copy withdrawn everywhere (R24, R115, R116). -/
theorem State.leaveReaders_recalls (s : State) (c : Nat) (d : DestNo) :
    s.Recalls (suppliesCopy c d) (readsForCopy c d) (s.leaveReaders c d) := by
  obtain ⟨hport, v, hv⟩ := s.withdrawReads_ports (suppliesCopy c d) allPorts
  exact (State.recallsAt (readsForCopy c d) allDests allDests_nodup _).recalls hv
    fun p => (hport p).trans (if_pos (mem_allPorts p))

end Sys2Proof.Machine

/-! Suspension and the settling check (R124, R131; O43). -/

namespace Sys2Proof.Machine

/-! ### A copy suspended -/

/-- Is an item of clip `c` one whose slot is FILLING? -/
def Item.cutsAt (i : Item) (c : Nat) (filling : Nat → Bool) : Bool :=
  decide (i.clip = c) && match i.kind with
    | .data n => filling n
    | .trailer => false

theorem cutItems_cons (c : Nat) (filling : Nat → Bool) (i : Item) (is : List Item) : cutItems c filling (i :: is)
    = if i.cutsAt c filling then (i :: is.filter (fun i => decide (i.clip = c)), is.filter fun i => decide (i.clip ≠ c))
      else ((cutItems c filling is).1, i :: (cutItems c filling is).2) := rfl

/-- The first item that cuts splits the queue. -/
theorem cutItems_split {c : Nat} {filling : Nat → Bool} {i : Item} (hi : i.cutsAt c filling = true) (after before : List Item) : (∀ z ∈ before, z.cutsAt c filling = false) → cutItems c filling (before ++ i :: after)
      = (i :: after.filter (fun z => decide (z.clip = c)), before ++ after.filter fun z => decide (z.clip ≠ c)) := by
  intro h
  induction before with
  | nil => rw [List.nil_append, cutItems_cons, if_pos hi, List.nil_append]
  | cons z before ih =>
    rw [List.cons_append, cutItems_cons, h z (by simp), ih fun y hy => h y (by simp [hy])]
    rfl

theorem leaveSlotOf_eq (d : DestNo) (s : State) (i : Item) :
    (∃ held, leaveSlotOf d s i = { s with ring := { s.ring with held := held } })
      ∧ ∀ m, (leaveSlotOf d s i).slot? m
        = if i.kind = .data m then (s.slot? m).map fun y => { y with pending := destErase d y.pending } else s.slot? m := by
  unfold leaveSlotOf
  cases hk : i.kind with
  | trailer => exact ⟨⟨_, rfl⟩, fun m => by simp⟩
  | data n =>
    refine ⟨?_, fun m => ?_⟩
    · simp only [State.modSlot]
      split
      · exact ⟨_, rfl⟩
      · exact ⟨_, rfl⟩
    · rw [State.slot_modSlot]
      by_cases hm : m = n
      · subst hm; simp
      · have : ItemKind.data n ≠ .data m := fun h => hm (ItemKind.data.inj h).symm
        rw [if_neg hm, if_neg this]

theorem destErase_idem (d : DestNo) (l : List DestNo) : destErase d (destErase d l) = destErase d l := by
  simp [destErase, List.filter_filter]

/-- A destination leaves the slots that items name. -/
theorem leaveSlotsOf_eq (d : DestNo) (l : List Item) (s : State) :
    (∃ held, l.foldl (leaveSlotOf d) s = { s with ring := { s.ring with held := held } })
      ∧ ∀ m, (l.foldl (leaveSlotOf d) s).slot? m
        = if ∃ z ∈ l, z.kind = .data m then (s.slot? m).map fun y => { y with pending := destErase d y.pending } else s.slot? m := by
  induction l generalizing s with
  | nil => exact ⟨⟨_, rfl⟩, fun m => by simp⟩
  | cons i l ih =>
    obtain ⟨⟨held, h⟩, hs⟩ := leaveSlotOf_eq d s i
    obtain ⟨⟨held', h'⟩, hs'⟩ := ih (leaveSlotOf d s i)
    refine ⟨⟨held', by rw [List.foldl_cons, h', h]⟩, fun m => ?_⟩
    rw [List.foldl_cons, hs', hs]
    simp only [List.mem_cons, exists_eq_or_imp]
    by_cases hi : i.kind = .data m <;> by_cases hl : ∃ z ∈ l, z.kind = .data m
    · simp only [hi, hl, if_true, or_self, Option.map_map, Function.comp_def, destErase_idem]
    · simp only [hi, hl, if_true, if_false, or_false]
    · simp only [hi, hl, if_true, if_false, or_true]
    · simp only [hi, hl, if_false, or_self]

/-- The state in which a copy has been suspended, but for the reads that serve it. -/
def State.suspending (s : State) (c : Nat) (d : DestNo) (cut kept : List Item) : State :=
  cut.foldl (leaveSlotOf d)
    (((s.modCopy c d fun k => { k with suspended := true }).leaveLane c d).modDest d fun x => { x with cq := kept })

theorem State.wf_modSlot {s : State} (h : Table.wf s.ring.held = true) (n : Nat) (f : Slot → Slot) :
    Table.wf (s.modSlot n f).ring.held = true := by
  unfold State.modSlot
  split
  · exact h
  · exact Table.wf_insert h _ _

theorem leaveSlotsOf_wf (d : DestNo) (l : List Item) {s : State} (h : Table.wf s.ring.held = true) :
    Table.wf (l.foldl (leaveSlotOf d) s).ring.held = true := by
  induction l generalizing s with
  | nil => exact h
  | cons i l ih =>
    refine ih ?_
    unfold leaveSlotOf
    split
    · exact State.wf_modSlot h _ _
    · exact h

theorem State.mem_held_iff {s : State} (h : Table.wf s.ring.held = true) {n : Nat} {y : Slot} :
    (n, y) ∈ s.ring.held ↔ s.slot? n = some y := (Table.find_eq_some_iff h n y).symm

/-- A lane's FILLING slot is left when the lane has no item for it. -/
theorem State.mem_orphans_filling {s : State} (h : Table.wf s.ring.held = true) {n : Nat} {y : Slot} {d : DestNo}
    (hy : s.slot? n = some y) (hst : y.state = .filling) (hown : y.owner = .lane d) :
    n ∈ s.orphans ↔ ∀ z ∈ (s.dest d).cq, z.kind ≠ .data n := by
  have hor : s.orphaned n y = true ↔ ∀ z ∈ (s.dest d).cq, z.kind ≠ .data n := by
    simp [State.orphaned, hst, hown, State.laneNames, Item.names]
  rw [State.mem_orphans_iff, ← hor]
  exact ⟨fun ⟨y', hm, ho⟩ => by
    rw [State.mem_held_iff h, hy] at hm
    cases hm; exact ho, fun ho => ⟨y, (State.mem_held_iff h).2 hy, ho⟩⟩

theorem State.dest_suspending (s : State) (c : Nat) (d : DestNo) (cut kept : List Item) (e : DestNo) :
    (s.suspending c d cut kept).dest e = if e = d
      then { s.dest d with lane := (s.dest d).lane.left (onlyCopy c d · d), cq := kept } else s.dest e := by
  obtain ⟨⟨held, hh⟩, -⟩ := leaveSlotsOf_eq d cut
    (((s.modCopy c d fun k => { k with suspended := true }).leaveLane c d).modDest d fun x => { x with cq := kept })
  obtain ⟨w, hw, -⟩ := (s.modCopy c d fun k => { k with suspended := true }).leaveLane_left c d
  rw [State.suspending, hh, hw]
  refine (State.dest_modDest _ d (fun x => { x with cq := kept }) e).trans ?_
  have h (e : DestNo) := State.dest_modDest (s.modCopy c d fun k => { k with suspended := true }) d
    (fun x => { x with lane := x.lane.left (onlyCopy c d · d) }) e
  simp only [State.dest_modCopy] at h
  split_ifs with he
  · exact congrArg (fun x : DestPort => { x with cq := kept }) ((h d).trans (if_pos rfl))
  · exact (h e).trans (if_neg he)

theorem State.suspending_blocks (s : State) (c : Nat) (d : DestNo) (cut kept : List Item) :
    (s.suspending c d cut kept).clips = (s.modCopy c d fun k => { k with suspended := true }).clips
      ∧ (s.suspending c d cut kept).ports = s.ports ∧ (s.suspending c d cut kept).jobs = s.jobs
      ∧ (s.suspending c d cut kept).manifest = s.manifest ∧ (s.suspending c d cut kept).faults = s.faults
      ∧ (s.suspending c d cut kept).ring.freeList = s.ring.freeList
      ∧ (s.suspending c d cut kept).ring.waitList
        = (if (s.dest d).lane.current = some c then s.ring.waitList.filter (· ≠ .lane d) else s.ring.waitList) := by
  obtain ⟨⟨held, hh⟩, -⟩ := leaveSlotsOf_eq d cut
    (((s.modCopy c d fun k => { k with suspended := true }).leaveLane c d).modDest d fun x => { x with cq := kept })
  obtain ⟨w, hw, hwait⟩ := (s.modCopy c d fun k => { k with suspended := true }).leaveLane_left c d
  rw [State.dest_modCopy, State.modCopy_ring] at hwait
  rw [State.suspending, hh, hw]
  refine ⟨rfl, ?_, ?_, ?_, ?_, ?_, hwait⟩
  · exact State.modCopy_ports s c d _
  · exact State.modCopy_jobs s c d _
  · exact State.modCopy_manifest s c d _
  · exact State.modCopy_faults s c d _
  · have h := congrArg Ring.freeList (State.modCopy_ring s c d fun k => { k with suspended := true })
    exact h

theorem State.slot_suspending (s : State) (c : Nat) (d : DestNo) (cut kept : List Item) (m : Nat) :
    (s.suspending c d cut kept).slot? m = if ∃ z ∈ cut, z.kind = .data m
      then (s.slot? m).map fun y => { y with pending := destErase d y.pending } else s.slot? m := by
  obtain ⟨-, hs⟩ := leaveSlotsOf_eq d cut
    (((s.modCopy c d fun k => { k with suspended := true }).leaveLane c d).modDest d fun x => { x with cq := kept })
  obtain ⟨w, hw, -⟩ := (s.modCopy c d fun k => { k with suspended := true }).leaveLane_left c d
  have hslot : State.slot? (((s.modCopy c d fun k => { k with suspended := true }).leaveLane c d).modDest d
      fun x => { x with cq := kept }) m = s.slot? m := by
    rw [hw]
    have h := State.slot_congr (State.modCopy_ring s c d fun k => { k with suspended := true }) m
    exact h
  rw [State.suspending, hs, hslot]

theorem State.wf_suspending {s : State} (h : Table.wf s.ring.held = true) (c : Nat) (d : DestNo) (cut kept : List Item) :
    Table.wf (s.suspending c d cut kept).ring.held = true := by
  obtain ⟨w, hw, -⟩ := (s.modCopy c d fun k => { k with suspended := true }).leaveLane_left c d
  refine leaveSlotsOf_wf d cut ?_
  rw [hw]
  change Table.wf (s.modCopy c d fun k => { k with suspended := true }).ring.held = true
  rw [State.modCopy_ring]
  exact h

/-! ### What the suspension withdraws -/

theorem State.Recalls.mem_fifo {s t : State} {c : Nat} {d : DestNo} {gone : DestNo → ReadJob → Bool}
    (h : s.Recalls (State.suppliesCopy c d) gone t) (p : PortNo) (z : ReaderItem) :
    z ∈ (t.port p).fifo ↔ z ∈ (s.port p).fifo ∧ ∀ j k m, z.work ≠ .supply d j c k m := by
  rw [h.port, List.mem_filter]
  refine and_congr_right fun _ => ?_
  cases hzw : z.work with
  | job a b c' => simp [State.suppliesCopy]
  | sector a b => simp [State.suppliesCopy]
  | supply a b b' k' m =>
    simp only [State.suppliesCopy, Bool.not_eq_true', decide_eq_false_iff_not, ne_eq, ReaderWork.supply.injEq]
    exact ⟨fun h j k n hn => h ⟨hn.1, hn.2.2.1⟩, fun h hn => h b k' m ⟨hn.1, rfl, hn.2, rfl, rfl⟩⟩

theorem State.Recalls.mem_jobs {s t : State} {c : Nat} {d : DestNo} {work : ReaderWork → Bool}
    (h : s.Recalls work (State.readsForCopy c d) t) (e : DestNo) (r : ReadJob) : r ∈ (t.dest e).rl.jobs
      ↔ r ∈ (s.dest e).rl.jobs ∧ (∀ k m, r ≠ .supply c k m d) ∧ ¬(e = d ∧ r = .verify c) := by
  obtain ⟨a, rl, he, hrl⟩ := h.dest e
  rw [he, hrl, List.mem_filter]
  refine and_congr_right fun _ => ?_
  cases r with
  | verify b => simp [State.readsForCopy, and_comm]; exact imp_iff_not_or.symm
  | supply b k' m asker => simp [State.readsForCopy]; exact imp_iff_not_or.symm

/-- The slots a suspension frees of those the lane is filling: the ones no item that stays names. -/
theorem State.mem_freed_suspended {s t : State} {c : Nat} {d : DestNo} {cut kept : List Item} {work : ReaderWork → Bool}
    {gone : DestNo → ReadJob → Bool} (h : (s.suspending c d cut kept).Recalls work gone t) (hwf : Table.wf s.ring.held = true)
    {m : Nat} {y : Slot} (hy : s.slot? m = some y) (hst : y.state = .filling) (hown : y.owner = .lane d)
    (hnamed : ∃ z ∈ (s.dest d).cq, z.kind = .data m) :
    m ∈ t.orphansSince s ↔ ∀ z ∈ kept, z.kind ≠ .data m := by
  have hy2 : ∃ y', t.slot? m = some y' ∧ y'.state = .filling ∧ y'.owner = .lane d := by
    rw [State.slot_congr h.ring, State.slot_suspending, hy]
    split_ifs
    · exact ⟨_, rfl, hst, hown⟩
    · exact ⟨y, rfl, hst, hown⟩
  obtain ⟨y', hy', hst', hown'⟩ := hy2
  have hwf2 : Table.wf t.ring.held = true := by rw [h.ring]; exact State.wf_suspending hwf c d cut kept
  have hcq : (t.dest d).cq = kept := by
    obtain ⟨a, rl, hd, -⟩ := h.dest d
    rw [hd, State.dest_suspending, if_pos rfl]
  rw [State.mem_orphansSince, State.mem_orphans_filling hwf hy hst hown, State.mem_orphans_filling hwf2 hy' hst' hown', hcq]
  obtain ⟨z, hz, hzk⟩ := hnamed
  exact and_iff_left fun hall => hall z hz hzk

/-- The task's work, its items cut. -/
theorem runSuspend_cut {s : State} {c : Nat} {d : DestNo} {x : Clip} {cut kept : List Item} (hx : s.clip? c = some x)
    (hparts : cutItems c s.isFilling (s.dest d).cq = (cut, kept)) : runSuspend c d s
      = ((s.suspending c d cut kept).leaveReaders c d).andNow
        [.freeSlots (((s.suspending c d cut kept).leaveReaders c d).orphansSince s), .settle x.job, .laneGo d] := by
  have hsettle : s.settleOf c = [.settle x.job] := by simp [State.settleOf, State.jobOfClip, hx]
  unfold runSuspend
  rw [hparts, hsettle]
  rfl

/-- The copy suspended, the other reads of its clip as they were. -/
theorem State.copy_suspended {s t : State} {c : Nat} {d : DestNo} {k : Copy} {cut kept : List Item} {work : ReaderWork → Bool}
    (hk : s.copy? c d = some k) (h : (s.suspending c d cut kept).Recalls work (State.readsForCopy c d) t) :
    t.copy? c d = some { k with suspended := true } := by
  obtain ⟨hclips, -⟩ := s.suspending_blocks c d cut kept
  have hcopy1 : (s.suspending c d cut kept).copy? c d = some { k with suspended := true } := by
    rw [State.copy_congr hclips, State.copy_modCopy, if_pos ⟨rfl, rfl⟩, hk]; rfl
  obtain ⟨x1, hx1, hk1⟩ := State.copy_some_iff.1 hcopy1
  obtain ⟨v, hv, hve⟩ := h.clip c x1 hx1
  refine State.copy_some_iff.2 ⟨_, hv, ((hve d).resolve_right fun hd => ?_).trans hk1⟩
  exact ((h.mem_jobs d _).1 hd.1).2.2 ⟨rfl, rfl⟩

theorem suspensionCutsTheItems : SuspensionCutsTheItems := by
  intro s c d x k before after i n filling w l hx hk hcq hi hbefore hcur hwf
  have hcuts (z : Item) : z.cutsAt c s.isFilling = true ↔ filling z := by
    simp only [Item.cutsAt, filling, Bool.and_eq_true, decide_eq_true_eq]
    refine and_congr_right fun _ => ?_
    cases hz : z.kind with
    | trailer => simp
    | data m =>
      simp only [State.isFilling, ItemKind.data.injEq, exists_and_left, exists_eq_left']
      cases hm : s.slot? m <;> simp
  have hparts := cutItems_split ((hcuts i).2 hi) after before fun z hz => Bool.eq_false_iff.2 fun h => hbefore z hz ((hcuts z).1 h)
  rw [← hcq] at hparts
  have hw : w = _ := runSuspend_cut hx hparts
  obtain ⟨cut, hcut⟩ : ∃ cut, i :: after.filter (fun z => decide (z.clip = c)) = cut := ⟨_, rfl⟩
  obtain ⟨kept, hkept⟩ : ∃ kept, before ++ after.filter (fun z => decide (z.clip ≠ c)) = kept := ⟨_, rfl⟩
  rw [hcut, hkept] at hw
  have hrec := (s.suspending c d cut kept).leaveReaders_recalls c d
  obtain ⟨t, ht⟩ : ∃ t, (s.suspending c d cut kept).leaveReaders c d = t := ⟨_, rfl⟩
  rw [ht] at hw hrec
  obtain ⟨-, hports, hjobs, hman, hfaults, hfree, hwait⟩ := s.suspending_blocks c d cut kept
  obtain ⟨a, rl, hd, -⟩ := hrec.dest d
  rw [State.dest_suspending, if_pos rfl] at hd
  rw [hw]
  refine ⟨rfl, ⟨t.orphansSince s, rfl, fun m y hy hst hown hnamed => ?_⟩,
    State.copy_suspended (State.copy_some_iff.2 ⟨x, hx, hk⟩) hrec, ?_, ?_, ?_, ?_, ?_, fun p z => ?_, fun e r => ?_,
    hrec.jobs.trans hjobs, hrec.faults.trans hfaults, hrec.manifest.trans hman⟩
  · rw [State.mem_freed_suspended hrec hwf hy hst hown hnamed, ← hkept]
    simp only [List.mem_append, List.mem_filter, decide_eq_true_eq, or_imp, forall_and, and_imp]
  · exact (congrArg DestPort.cq hd).trans hkept.symm
  · refine (congrArg DestPort.lane hd).trans ?_
    rw [Lane.left_only, if_pos hcur]; rfl
  · change Requester.lane d ∉ t.ring.waitList
    rw [hrec.ring, hwait, if_pos hcur]
    simp
  · exact (congrArg Ring.freeList hrec.ring).trans hfree
  · intro z hz m y hzc hzk hy
    have hin : ∃ z ∈ cut, z.kind = .data m := ⟨z, by
      rw [← hcut]; exact List.mem_cons_of_mem _ (List.mem_filter.2 ⟨hz, decide_eq_true hzc⟩), hzk⟩
    change t.slot? m = _
    rw [State.slot_congr hrec.ring, State.slot_suspending, if_pos hin, hy]
    rfl
  · refine (hrec.mem_fifo p z).trans ?_
    rw [State.port_congr hports]
  · refine (hrec.mem_jobs e r).trans ?_
    rw [show ((s.suspending c d cut kept).dest e).rl = (s.dest e).rl by
      rw [State.dest_suspending]; split_ifs with he <;> [rw [he]; rfl]]

end Sys2Proof.Machine

/-! Units sourced again, the settling check, and O43 (R123, R131). -/

namespace Sys2Proof.Machine

theorem unitsAreSourcedAgain : UnitsAreSourcedAgain := by
  intro s d n c k x y i h hx
  refine ⟨fun e p hp hno => ?_, fun hnone => ?_, fun g hcard hnone => ?_⟩
  · intro w
    have hw : w = _ := runCannotSupply_card (src := .dest e) h hx hp hno
    obtain ⟨hports, -⟩ := s.resourcing_blocks d n (i.without (.dest e))
    rw [hw]
    refine ⟨rfl, rfl, (Fills.slot_resourcing h _ n).trans (if_pos rfl), ?_, ?_⟩
    · exact congrArg DestPort.lane ((Fills.dest_resourcing h _ d).trans (if_pos rfl))
    · refine (congrArg CardPort.fifo (State.port_queuePieces _ _ _ _ p)).trans ?_
      rw [if_pos rfl, State.port_congr hports]
  · exact congrArg Work.now (runCannotSupply_none (src := .card) h hx (.inr rfl) (fun _ => Iff.rfl) hnone)
  · refine congrArg Work.now (runCannotSupply_none (src := .dest g) h hx hcard (fun f => ?_) hnone)
    rw [List.mem_cons]
    exact mem_destInsert g f i.noDests

/-! ### The settling check -/

theorem jobStateCode_eq (st : JobState) : jobStateCode st = st.code := by cases st <;> rfl

/-- A job's record changed together with its state is announced. -/
theorem State.moveJob_noticed (s : State) (j : JobNo) (st : JobState) :
    ∃ link, s.moveJob j (fun x => { x with state := st }) = { s.setJob j { s.job j with state := st } with link := link }
      ∧ Noticed s.link link 0x82
        [BitVec.ofNat 8 j.val, BitVec.ofNat 8 (jobStateCode (s.job j).state), BitVec.ofNat 8 (jobStateCode st),
          orAbsent ((s.job j).resumeTarget.map fun t => match t with
            | .running => 2
            | .paused => 3),
          orAbsent ((s.job j).pauseCause.map fun t => match t with
            | .host => 0
            | .hold => 1)] := by
  have hjob : (s.modJob j fun x => { x with state := st }).job j = { s.job j with state := st } := State.job_modJob_self ..
  have htarget : (fun t : ResumeTarget => match t with
      | .running => 2
      | .paused => 3) = ResumeTarget.code := funext fun t => by cases t <;> rfl
  have hcause : (fun t : PauseCause => match t with
      | .host => 0
      | .hold => 1) = PauseCause.code := funext fun t => by cases t <;> rfl
  refine ⟨_, rfl, ?_⟩
  simp only [htarget, hcause, jobStateCode_eq]
  change Link.queueNotice _ _ = _
  simp only [Link.queueNotice, Notice.frame, Notice.payload, hjob]
  rfl

theorem settlingFollowsItsTable : SettlingFollowsItsTable := by
  intro s j y w settled moving becomes
  have hbecomes (st : JobState) (now : List Task)
      (h : w = ⟨s.moveJob j fun x => { x with state := st }, now, []⟩) : becomes st now := by
    obtain ⟨link, heq, hnoticed⟩ := s.moveJob_noticed j st
    exact ⟨link, by rw [h, heq], hnoticed⟩
  exact ⟨fun hst hall => hbecomes _ _ (runSettle_settled hst hall),
    fun hst hnot hmov => hbecomes _ _ (runSettle_stands hst hnot hmov),
    fun hst hnot hmov => hbecomes _ _ (runSettle_moves hst hnot hmov), fun h => runSettle_still h⟩

theorem exclusionSettlesTheJob : ExclusionSettlesTheJob := by
  intro tag c x s e y others he hc hx hst hmem hjst hidle hrest hsound hwait hroom
  obtain ⟨t, u, ht, hex, hends, -, hans⟩ := clipExclude_excludes (tag := tag) he hc hx
    (hst.elim (fun h => .inr (.inl h)) fun h => .inr (.inr h)) hidle hrest hsound hroom
  obtain ⟨v, hself⟩ := hex.self
  obtain ⟨r, ⟨held, hjob⟩, hclips, hsettled⟩ := hex.settled
  have hclip (b : Nat) : r.clip? b = u.clip? b := State.clip_congr hclips b
  have hstate : (r.job x.job).state = y.state := by rw [hjob]
  have hjclips : (r.job x.job).clips = y.clips := by rw [hjob]
  rw [State.Settled, hstate, if_pos hjst] at hsettled
  obtain ⟨-, hheld, hreporting, -⟩ := hsettled
  have hcstate : r.clipState? c = some .excluded := by rw [State.clipState?, hclip, hself]; rfl
  have hostate {b : Nat} (hb : b ≠ c) : r.clipState? b = s.clipState? b := by
    rw [State.clipState?, hclip, hex.clip b hb]; rfl
  have hall : r.AllSettled x.job ↔ others := by
    rw [State.AllSettled, hjclips]
    refine ⟨fun h b hb hbc => by rw [← hostate hbc]; exact h b hb, fun h b hb => ?_⟩
    by_cases hbc : b = c
    · rw [hbc]; exact .inr hcstate
    · rw [hostate hbc]; exact h b hb hbc
  have hend : (t.job x.job).state = (u.job x.job).state := congrArg Job.state (hends.job x.job)
  refine ⟨t, ht, fun ho => ?_, fun ho hsusp => ?_, hans⟩
  · refine hend.trans (hreporting (hall.2 ho) ⟨c, by rw [hjclips]; exact hmem, _, (hclip c).trans hself, ?_⟩)
    exact fun h => by cases h
  · refine hend.trans (hheld (mt hall.1 ho) ?_)
    rintro ⟨b, hb, d, k, hk, hlive, hmov⟩
    rw [hjclips] at hb
    by_cases hbc : b = c
    · subst hbc
      rw [State.copy?, hclip, show (u.clip? b).bind _ = u.copy? b d from rfl, hex.copy] at hk
      obtain ⟨q, -, hq⟩ := Option.map_eq_some_iff.1 hk
      rw [← hq] at hlive
      split_ifs at hlive with h
      · cases hlive
      · exact h hlive
    · rw [State.copy?, hclip, hex.clip b hbc] at hk
      rw [hsusp b hb hbc d k hk hlive] at hmov
      cases hmov

/-- Settles O43: the items cut, the next source, the settling table, and the exclusion that settles the job. -/
theorem suspensionAndSettling : Obligations.SuspensionAndSettling :=
  ⟨suspensionCutsTheItems, unitsAreSourcedAgain, settlingFollowsItsTable, exclusionSettlesTheJob⟩

end Sys2Proof.Machine

/-! O39 fails: a clip table out of order gains an entry when a VERIFY job behind the new SUPPLY job starts. -/

namespace Sys2Proof.Machine

/-- A clip of ten bytes with a VERIFIED copy on DP1. -/
def verifiedThere : Clip :=
  { job := 0, state := .read, length := 10, extents := [⟨5, 1⟩], token := [], sum := none, unstable := false, mstatus := .none,
    prior := none
    copies := #v[none, some { Copy.fresh .verified .plan 1 with window := some ⟨0, 1⟩, trailer := some 0 }, none, none] }

/-- The supply piece of unit 0 of clip 5 for lane 0, about to fail a fourth time. -/
def lastAttempt : ReaderRequest := ⟨⟨.supply 0 0 5 0 0, 5, 1⟩, 4, none⟩

/-- Lane 0 fills slot 0 from the card in CP0; clip 5 stands before clip 3 in the clip table, and the read lane of DP1 holds a
VERIFY job of clip 3 that is not active. -/
def outOfOrder : State :=
  let s := { State.reset with
    clips := [(5, verifiedThere), (3, verifiedThere)]
    ring := { freeList := [], held := [(0, ⟨.filling, .lane 0, 5, 0, 10, [], []⟩)], waitList := [] } }
  let s := s.setPort 0 { CardPort.idle true with fifo := [lastAttempt.item], outstanding := some lastAttempt }
  let s := s.setDest 0 { DestPort.reset with cq := [Item.new 5 (.data 0)] }
  s.setDest 1 { DestPort.reset with state := .active, rl := { jobs := [.verify 3], active := none, sum := none } }

/-- The numbers of the clips in use after a command. -/
def clipsAfter (o : Host.Outcome State Fault Refusal) : Option (List Nat) :=
  match o with
  | .next t => some (t.clips.map Prod.fst)
  | .fault _ => none
  | .refused _ => none

theorem outOfOrder_fills : Fills outOfOrder 0 0 5 0 ⟨.filling, .lane 0, 5, 0, 10, [], []⟩ (Item.new 5 (.data 0)) :=
  ⟨by decide +kernel, rfl, rfl, rfl, rfl, [], [], by decide +kernel, rfl, by simp⟩

theorem outOfOrder_nextSource : NextSource outOfOrder 0 verifiedThere [] 1 := by
  refine ⟨⟨by decide, by simp, by decide +kernel, _, rfl, rfl⟩, fun f hlt h => ?_⟩
  obtain rfl : f = 0 := (Fin.lt_one_iff f).1 hlt
  exact h.1 rfl

/-- Refutes O39: nothing in the statement says that the clip table stands in order, and with clip 5 before clip 3 in it the
VERIFY job that starts as the SUPPLY job joins its lane enters clip 3 a second time. -/
theorem not_suppliesFillTheLanesSlots : ¬Obligations.SuppliesFillTheLanesSlots := by
  intro h
  obtain ⟨-, h, -, -⟩ := h
  obtain ⟨t, ht, -, -, -, -, hkeys, -⟩ := h outOfOrder 0 lastAttempt [] 0 1 0 5 0 0 verifiedThere _ _ (by decide +kernel)
    (by decide +kernel) (by decide +kernel) rfl rfl (by decide +kernel) (by decide +kernel) outOfOrder_fills
    outOfOrder_nextSource (by decide +kernel)
  have hafter : clipsAfter (exec (.readerError 0) outOfOrder) = some [3, 5, 3] := by decide +kernel
  rw [ht, clipsAfter, hkeys] at hafter
  revert hafter
  decide +kernel

end Sys2Proof.Machine

/-! Notices, what they carry and their order (R148, R155, R162; O45). -/

namespace Sys2Proof.Machine

/-! ### Notices that find room -/

theorem Link.queueNotice_room {l : Link} {f : OutFrame} (h : l.noticesQueued + 1 ≤ 32) :
    l.queueNotice f = { l with outq := l.outq ++ [f] } := if_pos (show l.noticesQueued < noticePlaces from h)

/-- Notices with a place for each of them stand in the queue in order. -/
theorem Link.queueNotices_room (fs : List OutFrame) (hfs : ∀ f ∈ fs, f.owner = .notice) {l : Link} (h : l.noticesQueued + fs.length ≤ 32) :
    fs.foldl (fun l f => l.queueNotice f) l = { l with outq := l.outq ++ fs } := by
  induction fs generalizing l with
  | nil => simp
  | cons f fs ih =>
    rw [List.length_cons] at h
    have hf : f.owner = .notice := hfs f (by simp)
    have hcount : Link.noticesQueued { l with outq := l.outq ++ [f] } = l.noticesQueued + 1 := by
      simp [Link.noticesQueued, List.filter_append, hf]
    rw [List.foldl_cons, Link.queueNotice_room (by omega), ih (fun g hg => hfs g (by simp [hg])) (by omega)]
    simp only [List.append_assoc, List.singleton_append]

/-- A reply to a request taken joins the queue. -/
theorem State.outq_reply {s : State} {e : EntryNo} {tag : Byte} {code : Nat} (h : s.link.table[e] = some ⟨tag, code, false⟩)
    (st : Status) (b : List Byte) : (s.reply e st b).link.outq = s.link.outq ++ [replyFrame (.reply e) tag st b] := by
  simp only [State.reply, Link.queueReply, h, Bool.false_eq_true, if_false]

theorem State.entry_owing (s : State) (e : EntryNo) (tag : Byte) (code : Nat) :
    (s.owing e tag code).link.table[e] = some ⟨tag, code, false⟩ := by simp [State.owing]

/-! ### What the routes send -/

theorem FaultUnit.captures_iff (u : FaultUnit) (o : Occurrence) : u.captures o = true
    ↔ u.capture = none ∨ ∃ h, u.capture = some h ∧ h.cls.severity = .recovered ∧ o.cls.severity = .lasting := by
  unfold FaultUnit.captures
  cases u.capture <;> simp

theorem FaultUnit.take_route (u : FaultUnit) (o : Occurrence) (c : FaultClass) : (u.take o).route c = u.route c := rfl

theorem State.raise_notice {s : State} {o : Occurrence} (h : s.faults.route o.cls = .notice) : s.raise o
    = { s with
        faults := s.faults.take o
        link := s.link.queueNotice ⟨.notice, 0x85, 0, occurrenceReport o ++ [if s.faults.captures o then 1 else 0]⟩ } := by
  simp only [State.raise, State.carryRoute, FaultUnit.take_route, h]
  cases s.faults.captures o <;> rfl

theorem routesSendNotices : RoutesSendNotices := by
  intro s o t taken
  refine ⟨fun h => ?_, fun h => ?_⟩
  · have ht : t = _ := State.raise_notice h
    rw [ht]
    refine ⟨fun hc => ?_, fun hc => ?_, rfl, rfl⟩
    · rw [if_pos ((s.faults.captures_iff o).2 hc)]; rfl
    · rw [if_neg (mt (s.faults.captures_iff o).1 hc)]; rfl
  · have ht : t = { s with faults := s.faults.take o } := by
      simp only [t, State.raise, State.carryRoute, FaultUnit.take_route]
      rcases h with h | h <;> rw [h]
    rw [ht]
    exact ⟨rfl, rfl, rfl⟩

/-! ### JOB_OPEN -/

theorem ruleJobOpen_opens {s : State} {p : PortNo} {card : Identity} {j : JobNo} (hen : (s.port p).enabled = true)
    (hst : (s.port p).state = .present) (hcard : (s.port p).identity = some card) (hnone : ∀ i, ¬Holds s i card)
    (hj : (s.job j).state = .free) (hlow : ∀ l, l < j → (s.job l).state ≠ .free) :
    ruleJobOpen p.val s = .tell [Bytes.u8 j.val] (s.openJob j p) := by
  have hhold : ¬((s.port p).identity.bind s.jobHolding).isSome = true := by
    rw [hcard, Option.bind_some, s.jobHolding_isSome card]
    exact fun ⟨i, hi⟩ => hnone i hi
  rw [ruleJobOpen_val, hen, hst]
  simp only [hhold, State.freeJobRecord_lowest hj hlow, Bool.not_true, Bool.false_eq_true, if_false]

theorem State.openJob_outq (s : State) (j : JobNo) (p : PortNo) (h : s.link.noticesQueued + 2 ≤ 32) : (s.openJob j p).link
    = { s.link with outq := s.link.outq ++ [(Notice.jobChange j (s.job j).state).frame (s.openJob j p),
        (Notice.cardChange p).frame (s.openJob j p)] } :=
  Link.queueNotices_room [(Notice.jobChange j (s.job j).state).frame (s.openJob j p), (Notice.cardChange p).frame (s.openJob j p)]
    (by simp [Notice.frame]) h

theorem jobOpenIsAnnounced : JobOpenIsAnnounced := by
  intro tag p card j s e he hen hst hcard hnone hj hlow hroom
  let s0 := s.quiet.owing e tag 0x20
  obtain ⟨hjob, hport, -⟩ := s0.openJob_spec j p
  have hj0 : (s0.openJob j p).job j = _ := (hjob j).trans (if_pos rfl)
  have hp0 : (s0.openJob j p).port p = _ := (hport p).trans (if_pos rfl)
  have hlamp : (s0.openJob j p).formLamp p = .amber := by
    have htrouble : (s0.openJob j p).jobTroubled j = false := by
      unfold State.jobTroubled State.clipsIn
      rw [hj0]; rfl
    have hen0 : (s0.port p).enabled = true := hen
    unfold State.formLamp
    rw [hp0]
    simp [htrouble, hen0]
  have hjf : (Notice.jobChange j (s0.job j).state).frame (s0.openJob j p) = ⟨.notice, 0x82, 0, [BitVec.ofNat 8 j.val, 0, 1, 255, 255]⟩ := by
    simp only [Notice.frame, Notice.payload, hj0, show (s0.job j).state = .free from hj]
    rfl
  have hcf : (Notice.cardChange p).frame (s0.openJob j p) = ⟨.notice, 0x81, 0,
      [BitVec.ofNat 8 p.val, 3, 1] ++ Bytes.le 8 card.media ++ Bytes.le 6 card.capacity ++ [BitVec.ofNat 8 j.val, 3]⟩ := by
    simp only [Notice.frame, Notice.payload, hp0, hlamp, show (s0.port p).identity = some card from hcard]
    rfl
  have hlink := s0.openJob_outq j p hroom
  rw [hjf, hcf] at hlink
  refine ⟨(s0.openJob j p).reply e .ok [Bytes.u8 j.val], ?_, ?_⟩
  · rw [exec_jobOpen, State.request_of_free (s := s.quiet) he]
    change (ruleJobOpen p.val s0).carry e s0 = _
    rw [ruleJobOpen_opens (s := s0) hen hst hcard hnone hj hlow]
    rfl
  · rw [State.outq_reply (tag := tag) (code := 0x20) (by rw [hlink]; exact State.entry_owing s.quiet e tag 0x20), hlink]
    simp only [List.append_assoc]
    rfl

/-! ### Steps that announce nothing -/

/-- From `s` to `t` nothing was announced or became the cause of an announcement. -/
structure State.Silent (s t : State) : Prop where
  link : t.link = s.link
  clips : t.clips = s.clips
  faults : t.faults = s.faults
  manifest : t.manifest = s.manifest
  port : ∀ p, (s.port p).SameCard (t.port p) ∧ (t.port p).lamp = (s.port p).lamp
  job : ∀ i, ∃ h, t.job i = { s.job i with held := h }
  wait : s.ring.waitList = [] → t.ring.waitList = []

namespace State.Silent

variable {s t u : State}

theorem refl (s : State) : s.Silent s := ⟨rfl, rfl, rfl, rfl, fun _ => ⟨.refl _, rfl⟩, fun i => ⟨(s.job i).held, rfl⟩, id⟩

theorem trans (h : s.Silent t) (g : t.Silent u) : s.Silent u := by
  refine ⟨g.link.trans h.link, g.clips.trans h.clips, g.faults.trans h.faults, g.manifest.trans h.manifest,
    fun p => ⟨(h.port p).1.trans (g.port p).1, (g.port p).2.trans (h.port p).2⟩, fun i => ?_, fun hw => g.wait (h.wait hw)⟩
  obtain ⟨a, ha⟩ := h.job i
  obtain ⟨b, hb⟩ := g.job i
  exact ⟨b, by rw [hb, ha]⟩

theorem serveLinks (s : State) : s.Silent s.serveLinks := by
  obtain ⟨⟨hjobs, hclips, hring, -, hman, hfaults, -⟩, hlink, hport, -⟩ := s.serveLinks_issueOnly
  exact ⟨hlink, hclips, hfaults, hman, hport, fun i => ⟨(s.job i).held, State.job_congr hjobs i⟩, fun h => by rw [hring]; exact h⟩

theorem freeSlot (s : State) (n : Nat) : s.Silent (s.freeSlot n) := by
  unfold State.freeSlot
  split
  · exact .refl s
  · rename_i x _
    cases hx : x.owner with
    | lane d => exact ⟨rfl, rfl, rfl, rfl, fun _ => ⟨.refl _, rfl⟩, fun i => ⟨(s.job i).held, rfl⟩, id⟩
    | job j =>
      refine ⟨rfl, rfl, rfl, rfl, fun _ => ⟨.refl _, rfl⟩, fun i => ?_, id⟩
      by_cases hi : i = j
      · subst hi
        exact ⟨_, State.job_modJob_self _ _ _⟩
      · exact ⟨(s.job i).held, State.job_modJob_of_ne _ (Ne.symm hi) _⟩

/-- The lamps stay as they are formed. -/
theorem lampsFormed (h : s.Silent t) (hs : s.LampsFormed) : t.LampsFormed := fun p => by
  obtain ⟨⟨h1, h2, h3, h4, -, -, h7⟩, hlamp⟩ := h.port p
  have htrouble : t.jobTroubled = s.jobTroubled := by
    funext j
    obtain ⟨a, ha⟩ := h.job j
    simp only [State.jobTroubled, State.clipsIn, State.clipState?, ha, State.clip_congr h.clips]
  rw [hlamp, hs p]
  simp only [State.formLamp, h1, h2, h3, h4, h7, htrouble]

end State.Silent

/-- A task with the lamps as formed behind it. -/
theorem runTasks_step {n : Nat} {a : Task} {ts now later : List Task} {s t : State} (h : a.run s.serveLinks = ⟨t, now, later⟩)
    (hl : t.LampsFormed) : runTasks (n + 1) (a :: ts) s = runTasks n (now ++ ts ++ later) t := by
  rw [runTasks]
  simp only [h, State.refreshLamps_of_formed hl]

/-- A slot of a job without its card freed, with no requester waiting: nothing is announced. -/
theorem runTasks_freeSlots_silent {s : State} {j : JobNo} {n k : Nat} {y : Slot} {ts : List Task} (hl : s.LampsFormed)
    (hy : s.slot? n = some y) (hown : y.owner = .job j) (hport : (s.job j).boundPort = none) (hwait : s.ring.waitList = []) :
    ∃ t m, s.Silent t ∧ m ≤ 4 ∧ runTasks (k + m) (.freeSlots [n] :: ts) s = runTasks k ts t := by
  let s1 := s.serveLinks.freeSlot n
  have h1 : s.Silent s1 := (State.Silent.serveLinks s).trans (.freeSlot _ n)
  have hy1 : s.serveLinks.slot? n = some y := (State.slot_congr s.serveLinks_issueOnly.1.2.2.1 n).trans hy
  have hserve {t : State} (h : s.Silent t) : (Task.serveWaiting).run t.serveLinks = t.serveLinks.still := by
    change runServeWaiting _ = _
    simp only [runServeWaiting, (State.Silent.serveLinks t).wait (h.wait hwait)]
  have hask {t : State} (h : s.Silent t) : (Task.askAgain (.job j)).run t.serveLinks = t.serveLinks.still := by
    obtain ⟨a, ha⟩ := (h.trans (State.Silent.serveLinks t)).job j
    change (t.serveLinks.askForJob j).still = _
    have : t.serveLinks.mayRead j = false := by rw [State.mayRead, ha]; simp [hport]
    simp only [State.askForJob, this, Bool.not_false, if_true]
  have step {t : State} {a : Task} {m : Nat} {ts : List Task} (h : s.Silent t) (hrun : a.run t.serveLinks = t.serveLinks.still) :
      ∃ u, s.Silent u ∧ runTasks (m + 1) (a :: ts) t = runTasks m ts u := by
    have hu := h.trans (State.Silent.serveLinks t)
    refine ⟨_, hu, ?_⟩
    rw [runTasks_step (now := []) (later := []) hrun (hu.lampsFormed hl)]
    simp
  have hlast {t : State} : (Task.freeSlots []).run t = t.still := rfl
  have hrun : (Task.freeSlots [n]).run s.serveLinks = s1.andNow
      (.serveWaiting :: (if s.serveLinks.heldAtLimit y.owner then [.askAgain y.owner] else []) ++ [.freeSlots []]) := by
    change runFreeSlots [n] s.serveLinks = _
    simp only [runFreeSlots, hy1]
    rfl
  rw [hown] at hrun
  by_cases hlimit : s.serveLinks.heldAtLimit (.job j)
  · rw [if_pos hlimit] at hrun
    obtain ⟨u1, hu1, e1⟩ := step (m := k + 2) (ts := .askAgain (.job j) :: .freeSlots [] :: ts) h1 (hserve h1)
    obtain ⟨u2, hu2, e2⟩ := step (m := k + 1) (ts := .freeSlots [] :: ts) hu1 (hask hu1)
    obtain ⟨u3, hu3, e3⟩ := step (m := k) (ts := ts) hu2 hlast
    refine ⟨u3, 4, hu3, le_rfl, ?_⟩
    rw [runTasks_step hrun (h1.lampsFormed hl), List.append_nil]
    exact e1.trans (e2.trans e3)
  · rw [if_neg hlimit] at hrun
    obtain ⟨u1, hu1, e1⟩ := step (m := k + 1) (ts := .freeSlots [] :: ts) h1 (hserve h1)
    obtain ⟨u2, hu2, e2⟩ := step (m := k) (ts := ts) hu1 hlast
    refine ⟨u2, 3, hu2, by decide, ?_⟩
    rw [runTasks_step hrun (h1.lampsFormed hl), List.append_nil]
    exact e1.trans e2

/-! ### The removal of a RUNNING job's card -/

/-- The state in which the card of a BOUND port has been removed. -/
def State.cardGone (s : State) (p : PortNo) (j : JobNo) : State :=
  ((s.modJob j fun x => { x with boundPort := none }).leaveWait (.job j)).movePort p CardPort.emptied

theorem removeBound_running {s : State} {p : PortNo} {j : JobNo} (hb : (s.port p).boundJob = some j)
    (hrun : (s.job j).state = .running) (hfifo : ∀ w ∈ (s.port p).fifo, ∃ c k, w.work = .job j c k) :
    removeBound p s = (s.cardGone p j).andNow [.pull j p] := by
  have hmsg : (((s.port p).fifo.map (·.work)).eraseDups).filterMap removalMessage = [] := by
    rw [List.filterMap_eq_nil_iff]
    intro w hw
    obtain ⟨i, hi, rfl⟩ := List.mem_map.1 (List.mem_eraseDups.1 hw)
    obtain ⟨c, k, h⟩ := hfifo i hi
    rw [h]; rfl
  simp only [removeBound, hb, hmsg, hrun, true_or, if_true]
  rfl

theorem State.cardGone_spec (s : State) (p : PortNo) (j : JobNo) :
    (∀ q, (s.cardGone p j).port q
        = if q = p then { (s.port p).emptied with lamp := (s.cardGone p j).formLamp p } else s.port q)
      ∧ (∀ i, (s.cardGone p j).job i = if i = j then { s.job j with boundPort := none } else s.job i)
      ∧ (s.cardGone p j).clips = s.clips ∧ (s.cardGone p j).faults = s.faults
      ∧ (s.cardGone p j).ring.held = s.ring.held
      ∧ (s.cardGone p j).link = s.link.queueNotice ((Notice.cardChange p).frame (s.cardGone p j)) := by
  refine ⟨fun q => ?_, fun i => ?_, rfl, rfl, rfl, rfl⟩
  · exact State.port_movePort_formed _ p _ q
  · exact State.job_modJob s j (fun x => { x with boundPort := none }) i

theorem State.cardGone_formed {s : State} (h : s.LampsFormed) (p : PortNo) (j : JobNo) : (s.cardGone p j).LampsFormed := by
  obtain ⟨hport, hjob, hclips, -⟩ := s.cardGone_spec p j
  intro q
  rw [hport]
  split_ifs with hq
  · rw [hq]
  · have htrouble : (s.cardGone p j).jobTroubled = s.jobTroubled := by
      funext i
      simp only [State.jobTroubled, State.clipsIn, State.clipState?, hjob, State.clip_congr hclips]
      split_ifs with hi
      · rw [hi]
      · rfl
    rw [h q]
    unfold State.formLamp
    rw [hport, if_neg hq, htrouble]

theorem exec_removal {s : State} {p : PortNo} {i : Instr} (h : IsRemoval p i) :
    exec i s = if (s.port p).enabled then event (removeCard p s.quiet) else .next s.quiet := by
  rcases h with rfl | rfl <;> rfl

theorem State.fillingOf_spec {s : State} {r : Requester} {n : Nat} (hwf : Table.wf s.ring.held = true) (h : s.fillingOf r = some n) :
    ∃ y, s.slot? n = some y ∧ y.state = .filling ∧ y.owner = r := by
  obtain ⟨⟨m, y⟩, hfind, rfl⟩ := Option.map_eq_some_iff.1 h
  have hok := List.find?_some hfind
  simp only [decide_eq_true_eq] at hok
  exact ⟨y, (State.mem_held_iff hwf).1 (List.mem_of_find?_eq_some hfind), hok⟩

/-- The pull's first part: the slot the job was filling is freed without a notice. -/
theorem runTasks_pull {s : State} {p : PortNo} {j : JobNo} (hl : s.LampsFormed) (hwf : Table.wf s.ring.held = true)
    (hport : (s.job j).boundPort = none) (hwait : s.ring.waitList = []) (k : Nat) :
    ∃ t m, s.Silent t ∧ m ≤ 5 ∧ runTasks (k + m) [.pull j p] s = runTasks k [.pulled j p] t := by
  have h1 := State.Silent.serveLinks s
  have hrun : (Task.pull j p).run s.serveLinks
      = s.serveLinks.andNow [.freeSlots (s.serveLinks.fillingOf (.job j)).toList, .pulled j p] := rfl
  have hring := s.serveLinks_issueOnly.1.2.2.1
  cases hfill : s.serveLinks.fillingOf (.job j) with
  | none =>
    rw [hfill] at hrun
    have h2 := h1.trans (State.Silent.serveLinks _)
    refine ⟨s.serveLinks.serveLinks, 2, h2, by decide, ?_⟩
    rw [runTasks_step hrun (h1.lampsFormed hl)]
    exact (runTasks_step (now := []) (later := []) rfl (h2.lampsFormed hl)).trans (by simp)
  | some n =>
    rw [hfill] at hrun
    obtain ⟨y, hy, -, hown⟩ := State.fillingOf_spec (by rw [hring]; exact hwf) hfill
    obtain ⟨a, ha⟩ := h1.job j
    obtain ⟨t, m, ht, hm, hfree⟩ := runTasks_freeSlots_silent (k := k) (ts := [.pulled j p]) (h1.lampsFormed hl) hy hown
      (by rw [ha]; exact hport) (h1.wait hwait)
    refine ⟨t, m + 1, h1.trans ht, by omega, ?_⟩
    rw [← Nat.add_assoc, runTasks_step hrun (h1.lampsFormed hl)]
    exact (congrArg (runTasks (k + m) · _) (by simp)).trans hfree

/-- The state in which a RUNNING job has been rolled back and is PULLED, before its fault is raised. -/
def State.pulledBack (s : State) (j : JobNo) : State :=
  (s.leaveWait (.job j)).moveJob j fun x =>
    { x with
      state := .pulled
      resumeTarget := some (if (s.job j).state = .running ∧ !(s.job j).pausePending then .running else .paused)
      pausePending := false, readPos := x.checkpoint.pos, live := x.checkpoint.sums
      summed := x.checkpoint.pos.unit * unitBytes }

/-- The occurrence of a pulled card. -/
def State.pulledFault (s : State) (j : JobNo) (p : PortNo) : Occurrence :=
  ⟨.cardPulled, some j, (s.job j).clips[(s.job j).checkpoint.pos.clip]?, none, some p, .cardRemoved⟩

theorem State.pulledBack_job (s : State) (j i : JobNo) : (s.pulledBack j).job i = if i = j then
    { s.job j with
      state := .pulled
      resumeTarget := some (if (s.job j).state = .running ∧ !(s.job j).pausePending then .running else .paused)
      pausePending := false, readPos := (s.job j).checkpoint.pos, live := (s.job j).checkpoint.sums
      summed := (s.job j).checkpoint.pos.unit * unitBytes } else s.job i :=
  State.job_moveJob (s.leaveWait (.job j)) j _ i

theorem runPulled_eq (j : JobNo) (p : PortNo) (s : State) : runPulled j p s
    = ((s.pulledBack j).raise (s.pulledFault j p)).still := by
  have hclip : (s.pulledBack j).clipAtRead j = (s.job j).clips[(s.job j).checkpoint.pos.clip]? := by
    rw [State.clipAtRead, State.pulledBack_job, if_pos rfl]
  unfold State.pulledFault
  rw [← hclip]
  rfl

theorem State.pulledBack_formed {s : State} {j : JobNo} (h : s.LampsFormed) (hrun : (s.job j).state = .running) :
    (s.pulledBack j).LampsFormed := fun q => by
  have htrouble : (s.pulledBack j).jobTroubled = s.jobTroubled := by
    funext i
    by_cases hi : i = j
    · subst hi
      simp only [State.jobTroubled, State.clipsIn, State.pulledBack_job, if_true, hrun]
      rfl
    · simp only [State.jobTroubled, State.clipsIn, State.pulledBack_job, if_neg hi]
      rfl
  refine (h q).trans ?_
  unfold State.formLamp
  rw [htrouble]
  rfl

/-- The pull's last part: JOB_CHANGE, then FAULT_RAISED. -/
theorem runTasks_pulled {s : State} {p : PortNo} {j : JobNo} (hl : s.LampsFormed) (hrun : (s.job j).state = .running)
    (hroute : s.faults.route .cardPulled = .notice) (hcap : s.faults.capture = none) :
    ∃ t, runTasks 1 [.pulled j p] s = some t ∧ t.link
      = (s.link.queueNotice ⟨.notice, 0x82, 0, [BitVec.ofNat 8 j.val, 2, 4, if (s.job j).pausePending then 3 else 2,
          match (s.job j).pauseCause with
          | none => 255
          | some .host => 0
          | some .hold => 1]⟩).queueNotice ⟨.notice, 0x85, 0, occurrenceReport (s.pulledFault j p) ++ [1]⟩ := by
  let v := s.serveLinks
  obtain ⟨⟨hjobs, -, -, -, -, hfaults, -⟩, hlink, -⟩ := s.serveLinks_issueOnly
  have hjob : v.job j = s.job j := State.job_congr hjobs j
  have hraise := State.raise_notice (s := v.pulledBack j) (o := v.pulledFault j p)
    (show v.faults.route .cardPulled = .notice by rw [show v.faults = s.faults from hfaults]; exact hroute)
  have hfault : v.pulledFault j p = s.pulledFault j p := by rw [State.pulledFault, hjob]; rfl
  have hcaptures : (v.pulledBack j).faults.captures (s.pulledFault j p) = true :=
    (FaultUnit.captures_iff _ _).2 (.inl ((congrArg FaultUnit.capture hfaults).trans hcap))
  rw [hfault, hcaptures] at hraise
  have hformed : (v.pulledBack j).LampsFormed :=
    State.pulledBack_formed (s.serveLinks_issueOnly.lampsFormed hl) (by rw [hjob]; exact hrun)
  have hframe : (Notice.jobChange j (v.job j).state).frame (v.pulledBack j) = ⟨.notice, 0x82, 0,
      [BitVec.ofNat 8 j.val, 2, 4, if (s.job j).pausePending then 3 else 2,
        match (s.job j).pauseCause with
        | none => 255
        | some .host => 0
        | some .hold => 1]⟩ := by
    simp only [Notice.frame, Notice.payload, State.pulledBack_job, if_true, hjob, hrun]
    cases (s.job j).pausePending <;> rcases (s.job j).pauseCause with _ | _ | _ <;> rfl
  refine ⟨(v.pulledBack j).raise (s.pulledFault j p), ?_, ?_⟩
  · have hstep : (Task.pulled j p).run v = ⟨(v.pulledBack j).raise (s.pulledFault j p), [], []⟩ :=
      (runPulled_eq j p v).trans (by rw [hfault]; rfl)
    refine (runTasks_step hstep ?_).trans rfl
    rw [hraise]
    exact hformed
  · rw [hraise, ← hframe, ← hlink]
    rfl

theorem removalIsAnnounced : RemovalIsAnnounced := by
  intro s p i j hi x y hen hst hb hfifo hrun hwf hwait hroute hl hcap hroom pulled
  let v := s.quiet.cardGone p j
  obtain ⟨hport, hjob, -, hfaults, hheld, hlink⟩ := s.quiet.cardGone_spec p j
  have hv : v.LampsFormed := State.cardGone_formed (s := s.quiet) hl p j
  have hjv : v.job j = { s.job j with boundPort := none } := (hjob j).trans (if_pos rfl)
  obtain ⟨u, m, hu, hm, hpull⟩ := runTasks_pull (s := v) (p := p) (j := j) hv (by rw [hheld]; exact hwf) (by rw [hjv])
    (show s.ring.waitList.filter _ = [] by rw [hwait]; rfl) 1
  obtain ⟨a, ha⟩ := hu.job j
  rw [hjv] at ha
  obtain ⟨t, ht, htlink⟩ := runTasks_pulled (p := p) (hu.lampsFormed hv) (j := j) (by rw [ha]; exact hrun)
    (by rw [hu.faults, hfaults]; exact hroute) (by rw [hu.faults, hfaults]; exact hcap)
  have hcard : (Notice.cardChange p).frame v
      = ⟨.notice, 0x81, 0, [BitVec.ofNat 8 p.val, 0, 0] ++ List.replicate 14 0 ++ [255, 0]⟩ := by
    have hp : v.port p = { (s.port p).emptied with lamp := v.formLamp p } := (hport p).trans (if_pos rfl)
    have hoff : v.formLamp p = .off := by
      unfold State.formLamp
      rw [hp]
      simp [CardPort.emptied]
    rw [hoff] at hp
    simp only [Notice.frame, Notice.payload, hp]
    rfl
  have hfault : u.pulledFault j p = pulled := by rw [State.pulledFault, ha]
  refine ⟨t.serveLinks, ?_, ?_⟩
  · rw [exec_removal hi, if_pos hen, removeCard, show (s.quiet.port p).state = .bound from hst]
    change event (removeBound p s.quiet) = _
    rw [removeBound_running (s := s.quiet) hb hrun hfifo]
    refine event_of_runTasks (n := 1 + m) (by omega) ?_
    rw [show ((s.quiet.cardGone p j).andNow [.pull j p]).state.refreshLamps = v from State.refreshLamps_of_formed hv]
    exact hpull.trans ht
  · have hfinal : t.serveLinks.link = t.link := t.serveLinks_issueOnly.2.1
    rw [hfinal, htlink, hu.link, hlink, hcard, hfault]
    simp only [ha]
    refine (congrArg Link.outq (Link.queueNotices_room [_, _, _] ?_ (l := s.link) hroom))
    simp

/-! ### The first record -/

theorem State.lampsFormed_setClip {s : State} {c : Nat} {x y : Clip} (h : s.LampsFormed) (hx : s.clip? c = some x)
    (hsame : decide (y.state = .sourceFault ∨ y.state = .unstable) = decide (x.state = .sourceFault ∨ x.state = .unstable)) :
    (s.setClip c y).LampsFormed := fun q => by
  have hstate (b : Nat) : ((s.setClip c y).clipState? b).any (fun z => decide (z = .sourceFault ∨ z = .unstable))
      = (s.clipState? b).any fun z => decide (z = .sourceFault ∨ z = .unstable) := by
    simp only [State.clipState?, State.clip_setClip]
    split_ifs with hb
    · rw [hb, hx]; exact hsame
    · rfl
  have htrouble : (s.setClip c y).jobTroubled = s.jobTroubled := by
    funext j
    simp only [State.jobTroubled, State.clipsIn, hstate]
    rfl
  refine (h q).trans ?_
  unfold State.formLamp
  rw [htrouble]
  rfl

theorem State.abortCopies_none {s : State} {c : Nat} (h : ∀ d, s.copy? c d = none) : s.abortCopies c = s :=
  List.foldl_fixed' (fun d => by simp only [State.abortCopy, h d]) allDests

/-- CLIP_EXCLUDE of a clip without copies: its record is emitted, and its job settled. -/
theorem excludeClip_bare {s : State} {c : Nat} {x : Clip} (hcopies : ∀ d : DestNo, x.copies[d] = none) (hidle : s.LanesIdle) :
    excludeClip c x s = (s.setClip c x.excluded).andNow [.freeSlots [], .emit c, .settle x.job] := by
  have hnone : (s.setClip c x.excluded).abortCopies c = s.setClip c x.excluded := State.abortCopies_none fun d => by
    rw [State.copy?, State.clip_setClip, if_pos rfl]
    exact hcopies d
  have horphans : (s.setClip c x.excluded).orphansSince s = [] := by
    rw [State.orphansSince, List.filter_eq_nil_iff]
    intro n hn
    have : n ∈ s.orphans := hn
    simp [this]
  have hlanes : s.lanesWith c = [] := by
    rw [State.lanesWith, List.filter_eq_nil_iff]
    intro d _
    simp [(hidle d).1]
  change (⟨(s.setClip c x.excluded).abortCopies c, [.freeSlots (((s.setClip c x.excluded).abortCopies c).orphansSince s), .emit c,
    .settle x.job], (s.lanesWith c).map .laneGo⟩ : Work) = _
  rw [hnone, horphans, hlanes]
  rfl

/-- A record emitted into a queue with room: the notice it brings about. -/
theorem State.emitRecord_link {s : State} {c : Nat} {x : Clip} (hx : s.clip? c = some x) (hroom : s.manifest.queue.length < 512)
    (hplace : s.link.noticesQueued + 1 ≤ 32) : (s.emitRecord c).link
      = { s.link with outq := s.link.outq ++ if s.manifest.queue = [] then [⟨.notice, 0x84, 0, [1, 0]⟩] else [] } := by
  rw [State.emitRecord, if_pos (show s.manifest.queue.length < manifestPlaces from hroom)]
  simp only [State.enqueueRecord, hx, List.isEmpty_iff]
  split_ifs with hq
  · refine (Link.queueNotice_room (l := s.link) hplace).trans ?_
    have hbytes : Bytes.le 2 ([] ++ [s.formRecord c x]).length = [1, 0] := by
      rw [List.nil_append, List.length_singleton]
      decide
    simp only [Notice.frame, Notice.payload, State.setClip, hq, hbytes]
    rfl
  · rw [List.append_nil]; rfl

theorem State.emitRecord_formed {s : State} {c : Nat} {x : Clip} (hl : s.LampsFormed) (hx : s.clip? c = some x)
    (hroom : s.manifest.queue.length < 512) : (s.emitRecord c).LampsFormed := by
  have h : State.LampsFormed (({ s with manifest := { s.manifest with queue := s.manifest.queue ++ [s.formRecord c x] } } : State).setClip c
      { x with mstatus := .queued }) :=
    State.lampsFormed_setClip (s := { s with manifest := { s.manifest with queue := s.manifest.queue ++ [s.formRecord c x] } }) hl hx rfl
  rw [State.emitRecord, if_pos (show s.manifest.queue.length < manifestPlaces from hroom)]
  simp only [State.enqueueRecord, hx]
  split_ifs
  · exact h
  · exact h

theorem firstRecordIsAnnounced : FirstRecordIsAnnounced := by
  intro tag c x s e he hc hx hst hcopies hload hidle hl hroom hplace
  let s0 := s.quiet.owing e tag 0x29
  let s1 := s0.setClip c x.excluded
  have hl1 : s1.LampsFormed := State.lampsFormed_setClip (s := s0) hl hx (by rw [hst]; rfl)
  let u := s1.serveLinks.serveLinks
  have hu : s1.Silent u := (State.Silent.serveLinks s1).trans (State.Silent.serveLinks _)
  have hclip : u.clip? c = some x.excluded := (State.clip_congr hu.clips c).trans ((State.clip_setClip _ _ _ _).trans (if_pos rfl))
  have hroomu : u.manifest.queue.length < 512 := by rw [hu.manifest]; exact hroom
  let v := u.emitRecord c
  have hv : v.LampsFormed := State.emitRecord_formed (hu.lampsFormed hl1) hclip hroomu
  have hvs := State.Silent.serveLinks v
  have hload' : (v.serveLinks.job x.job).state = .loading := by
    obtain ⟨a, ha⟩ := hu.job x.job
    obtain ⟨b, hb⟩ := hvs.job x.job
    obtain ⟨w, hw, -, -, -, hjobs, -⟩ := State.emitRecord_room hclip hroomu
    rw [hb, show v.job x.job = u.job x.job from State.job_congr (by rw [show v = w from hw]; exact hjobs) _, ha]
    exact hload
  have hrun : runTasks 3 [.freeSlots [], .emit c, .settle x.job] s1 = some v.serveLinks := by
    rw [runTasks_step (now := []) (later := []) rfl ((State.Silent.serveLinks s1).lampsFormed hl1)]
    refine (runTasks_step (n := 1) (now := []) (later := []) (t := v) rfl hv).trans ?_
    exact runTasks_step (n := 0) (now := []) (later := []) (a := .settle x.job)
      (runSettle_still (.inr (.inr (by rw [hload']; exact ⟨by decide, by decide⟩)))) (hvs.lampsFormed hv)
  refine ⟨(v.serveLinks.reply e .ok []).serveLinks, ?_, ?_⟩
  · rw [exec_clipExclude, State.request_of_free (s := s.quiet) he]
    change (ruleClipExclude c s0).carry e s0 = _
    rw [ruleClipExclude_taken (s := s0) hc hx (.inl hst), excludeClip_bare (s := s0) hcopies hidle]
    refine carry_of_runTasks (n := 3) (by omega) ?_
    exact (congrArg (runTasks 3 _) (State.refreshLamps_of_formed hl1)).trans hrun
  · have hlink := State.emitRecord_link (s := u) hclip hroomu (by rw [hu.link]; exact hplace)
    have hentry : v.serveLinks.link.table[e] = some ⟨tag, 0x29, false⟩ := by
      rw [hvs.link, hlink, hu.link]
      exact State.entry_owing s.quiet e tag 0x29
    have hfinal : (v.serveLinks.reply e .ok []).serveLinks.link = (v.serveLinks.reply e .ok []).link :=
      (v.serveLinks.reply e .ok []).serveLinks_issueOnly.2.1
    rw [hfinal, State.outq_reply hentry, hvs.link, hlink, hu.link, hu.manifest]
    rfl

/-- Settles O45: what the routes send, and the notices of three commands in their order. -/
theorem noticesFollowTheirChanges : Obligations.NoticesFollowTheirChanges :=
  ⟨routesSendNotices, jobOpenIsAnnounced, removalIsAnnounced, firstRecordIsAnnounced⟩

end Sys2Proof.Machine

/-! MANIFEST_READ (R145, R147, R149, R182; O56). -/

namespace Sys2Proof.Machine

theorem exec_manifestRead (tag : Byte) (count : Nat) (s : State) :
    exec (.manifestRead tag count) s = s.quiet.request tag 0x30 fun _ s => ruleManifestRead count s := rfl

/-! ### The record as it is reported -/

theorem recordCopyBytes_eq (k : Option RecordCopy) : recordCopyBytes k = recordCopyReport k := by
  cases k with
  | none => rfl
  | some k =>
    have hcode : k.state.code = copyStateCode k.state := by cases k.state <;> rfl
    simp only [recordCopyBytes, recordCopyReport, placeBytes, optField_eq, hcode, List.cons_append, List.nil_append]
    rfl

theorem Record.bytes_eq (r : Record) : r.bytes = recordReport r := by
  have hkind : Bytes.u8 r.kind.code = markByte (decide (r.kind = .excluded)) := by cases r.kind <;> rfl
  have hprior : r.prior.map (·.code) = r.prior.map clipStateCode := by
    cases r.prior with
    | none => rfl
    | some st => cases st <;> rfl
  have hunstable : optByte (r.unstable.map fun b => if b then 1 else 0) = (r.unstable.map markByte).getD 255 := by
    rcases r.unstable with _ | _ | _ <;> rfl
  have hdests (f : DestNo → List Byte) : allDests.flatMap f = f 0 ++ f 1 ++ f 2 ++ f 3 := by simp [allDests, List.append_assoc]
  simp only [Record.bytes, recordReport, tokenBytes, optField_eq, hkind, hprior, hunstable, hdests, recordCopyBytes_eq,
    Identity.bytes, List.append_assoc, List.cons_append, List.nil_append]
  rfl

theorem length_optReport {n : Nat} {x : Option (List Byte)} (h : ∀ b, x = some b → b.length = n) : (optReport n x).length = n + 1 := by
  cases x with
  | none => simp [optReport]
  | some b => simp [optReport, h b rfl]

theorem length_recordCopyReport (k : Option RecordCopy) : (recordCopyReport k).length = 18 := by
  cases k with
  | none => simp [recordCopyReport]
  | some k =>
    have hw : (optReport 10 (k.window.map fun w => Bytes.le 6 w.first ++ Bytes.le 4 w.count)).length = 11 :=
      length_optReport fun b hb => by
        obtain ⟨w, -, rfl⟩ := Option.map_eq_some_iff.1 hb
        simp
    have ht : (optReport 4 (k.trailer.map (Bytes.le 4))).length = 5 := length_optReport fun b hb => by
      obtain ⟨w, -, rfl⟩ := Option.map_eq_some_iff.1 hb
      simp
    simp [recordCopyReport, hw, ht]

theorem length_recordReport {r : Record} (h : r.token.length ≤ 48) : (recordReport r).length = 160 := by
  have hsum : (optReport 12 (r.sum.map sumReport)).length = 13 := length_optReport fun b hb => by
    obtain ⟨w, -, rfl⟩ := Option.map_eq_some_iff.1 hb
    simp [sumReport, Bytes.be]
  simp only [recordReport, List.length_append, List.length_cons, List.length_nil, List.length_replicate, Bytes.le_length, hsum,
    length_recordCopyReport]
  omega

/-! ### Records taken -/

/-- The clips of the records taken, TAKEN but for those of detached records. -/
theorem takeRecords_spec (records : List Record) (s : State) : ∃ cs, records.foldl State.takeRecord s = { s with clips := cs }
    ∧ ∀ c, (records.foldl State.takeRecord s).clip? c = (s.clip? c).map fun x =>
      if ∃ r ∈ records, r.clip = c ∧ r.detached = false then { x with mstatus := .taken } else x := by
  induction records generalizing s with
  | nil => exact ⟨s.clips, rfl, fun c => by simp⟩
  | cons r records ih =>
    obtain ⟨cs, hcs, hclip⟩ := ih (s.takeRecord r)
    have hblocks : ∃ cs', s.takeRecord r = { s with clips := cs' } := by
      unfold State.takeRecord State.modClip
      split
      · exact ⟨s.clips, rfl⟩
      · split
        · exact ⟨s.clips, rfl⟩
        · exact ⟨_, rfl⟩
    have hone (c : Nat) : (s.takeRecord r).clip? c = (s.clip? c).map fun x =>
        if r.clip = c ∧ r.detached = false then { x with mstatus := .taken } else x := by
      unfold State.takeRecord State.modClip
      cases hd : r.detached with
      | true => simp
      | false =>
        simp only [Bool.false_eq_true, if_false, and_true]
        by_cases hc : r.clip = c
        · subst hc
          cases hx : s.clip? r.clip with
          | none => simp [hx]
          | some x => simp [State.clip_setClip]
        · cases hx : s.clip? r.clip with
          | none => simp [hc]
          | some x => simp [State.clip_setClip, Ne.symm hc, hc]
    obtain ⟨cs', hcs'⟩ := hblocks
    refine ⟨cs, by rw [List.foldl_cons, hcs, hcs'], fun c => ?_⟩
    rw [List.foldl_cons, hclip, hone, Option.map_map]
    refine congrArg (fun f => Option.map f (s.clip? c)) (funext fun x => ?_)
    simp only [Function.comp_apply, List.mem_cons, exists_eq_or_imp]
    by_cases h1 : r.clip = c ∧ r.detached = false <;> by_cases h2 : ∃ r ∈ records, r.clip = c ∧ r.detached = false <;>
      simp only [h1, h2, if_true, if_false, or_self, true_or, or_true, and_self]

/-! ### Deferred clips enter the queue -/

/-- From `s` to `t` these deferred clips entered the queue, their records behind those queued. -/
structure State.Enters (s : State) (cs : List Nat) (t : State) : Prop where
  queue : ∃ fresh, t.manifest = { queue := s.manifest.queue ++ fresh, deferred := s.manifest.deferred.drop cs.length }
    ∧ fresh.map (·.clip) = cs ∧ ∀ r ∈ fresh, ∀ x, s.clip? r.clip = some x → r = s.formRecord r.clip x
  clip : ∀ c, t.clip? c = (s.clip? c).map fun x => if c ∈ cs then { x with mstatus := .queued } else x
  blocks : ∃ v m, t = { s with clips := v, manifest := m }

theorem State.enqueueRecord_of_some {s : State} {c : Nat} {x : Clip} (hx : s.clip? c = some x) : s.enqueueRecord c
    = ({ s with manifest := { s.manifest with queue := s.manifest.queue ++ [s.formRecord c x] } } : State).setClip c
      { x with mstatus := .queued } := by
  simp only [State.enqueueRecord, hx]

theorem State.refill_enters (n : Nat) {s : State} (h : ∀ c ∈ s.manifest.deferred.take n, (s.clip? c).isSome) :
    s.Enters (s.manifest.deferred.take n) (State.refill n s) := by
  induction n generalizing s with
  | zero => exact ⟨⟨[], by simp [State.refill], rfl, by simp⟩, fun c => by simp [State.refill], s.clips, s.manifest, rfl⟩
  | succ n ih =>
    cases hd : s.manifest.deferred with
    | nil =>
      have hsame : s.enterDeferred = s := by simp only [State.enterDeferred, hd]
      have := ih (s := s) (by simp [hd])
      rw [hd, List.take_nil] at this
      rw [List.take_nil, State.refill, hsame]
      exact this
    | cons c rest =>
      rw [hd] at h
      obtain ⟨x, hx⟩ := Option.isSome_iff_exists.1 (h c (by simp))
      let s1 : State := { s with manifest := { s.manifest with deferred := rest } }
      let s2 : State := ({ s1 with manifest := { s1.manifest with queue := s.manifest.queue ++ [s.formRecord c x] } } : State).setClip c
        { x with mstatus := .queued }
      have hs2 : s.enterDeferred = s2 := by
        simp only [State.enterDeferred, hd]
        exact State.enqueueRecord_of_some (s := s1) hx
      have hclip (b : Nat) : s2.clip? b = (s.clip? b).map fun x => if b = c then { x with mstatus := .queued } else x := by
        rw [State.clip_setClip]
        split_ifs with hb
        · rw [hb, hx]; rfl
        · exact Option.map_id'.symm
      obtain ⟨⟨fresh, hq, hmap, hrec⟩, hc2, v, m, hv⟩ := ih (s := s2) fun b hb => by
        rw [hclip, Option.isSome_map]
        exact h b (by rw [List.take_succ_cons]; exact List.mem_cons_of_mem _ hb)
      rw [State.refill, hs2, List.take_succ_cons]
      refine ⟨⟨s.formRecord c x :: fresh, ?_, by rw [List.map_cons, hmap]; rfl, ?_⟩, fun b => ?_, v, m, ?_⟩
      · rw [hq, List.length_cons, List.append_cons, hd]
        rfl
      · intro r hr y hy
        rcases List.mem_cons.1 hr with rfl | hr
        · rw [show (s.formRecord c x).clip = c from rfl, hx] at hy
          cases hy; rfl
        · refine (hrec r hr _ ((hclip r.clip).trans (by rw [hy]; rfl))).trans ?_
          split_ifs <;> rfl
      · rw [hc2, hclip, Option.map_map]
        refine congrArg (fun f => Option.map f (s.clip? b)) (funext fun y => ?_)
        simp only [Function.comp_apply, List.mem_cons]
        by_cases h1 : b = c
        · simp only [h1, true_or, if_true]
          split_ifs <;> rfl
        · simp only [h1, false_or, if_false]
          rfl
      · rw [hv]; rfl

/-! ### Jobs released -/

/-- Job `j` is REPORTING and none of its clips is still to be TAKEN. -/
def State.Due (s : State) (j : JobNo) : Prop := (s.job j).state = .reporting ∧ ¬s.Untaken j

/-- From `s` to `t` those of these jobs that are due were RELEASED. -/
structure State.Releases (s : State) (js : List JobNo) (t : State) : Prop where
  due : ∀ i ∈ js, s.Due i → t.job i = { s.job i with state := .released }
  others : ∀ i, ¬(i ∈ js ∧ s.Due i) → t.job i = s.job i
  memory : ∀ j ∈ js, s.Due j → ∀ p, (s.job j).boundPort = some p → (∀ i, i ≠ j → (s.job i).boundPort ≠ some p) →
    (t.port p).released = (s.job j).identity
  port : ∀ p, (∀ i ∈ js, (s.job i).boundPort ≠ some p) → t.port p = s.port p
  dests : t.dests = s.dests
  clips : t.clips = s.clips
  ring : t.ring = s.ring
  manifest : t.manifest = s.manifest
  faults : t.faults = s.faults

theorem State.Releases.refl (s : State) (js : List JobNo) (h : ∀ j ∈ js, ¬s.Due j) : s.Releases js s :=
  ⟨fun i hi g => absurd g (h i hi), fun _ _ => rfl, fun j hj g => absurd g (h j hj), fun _ _ => rfl, rfl, rfl, rfl, rfl, rfl⟩

/-- The release check of a job that is due. -/
theorem runRelease_due {s : State} {j : JobNo} (hdue : s.Due j) : ∃ t, runRelease j s = t.still ∧ s.Releases [j] t := by
  have hrun := runRelease_releases hdue.1 hdue.2
  have hself : (s.moveJob j fun x => { x with state := .released }).job j = { s.job j with state := .released } :=
    (State.job_moveJob s j (fun x => { x with state := .released }) j).trans (if_pos rfl)
  have hother {i : JobNo} (hi : i ≠ j) : (s.moveJob j fun x => { x with state := .released }).job i = s.job i :=
    (State.job_moveJob s j (fun x => { x with state := .released }) i).trans (if_neg hi)
  have hne {i : JobNo} (hi : ¬(i ∈ [j] ∧ s.Due i)) : i ≠ j := fun h => hi (by rw [h]; exact ⟨by simp, hdue⟩)
  cases hp : (s.job j).boundPort with
  | none =>
    rw [hp] at hrun
    refine ⟨_, hrun, fun i hi _ => ?_, fun i hi => hother (hne hi), fun i hi _ p h => ?_, fun _ _ => rfl, rfl, rfl, rfl, rfl, rfl⟩
    · rw [List.mem_singleton.1 hi]; exact hself
    · rw [List.mem_singleton.1 hi, hp] at h; cases h
  | some p =>
    rw [hp] at hrun
    refine ⟨_, hrun, fun i hi _ => ?_, fun i hi => hother (hne hi), fun i hi _ q h _ => ?_, fun q h => ?_, rfl, rfl, rfl, rfl, rfl⟩
    · rw [List.mem_singleton.1 hi]; exact hself
    · rw [List.mem_singleton.1 hi] at h ⊢
      obtain rfl : p = q := Option.some.inj (hp.symm.trans h)
      exact congrArg CardPort.released
        (State.port_modPort_self _ p (fun x : CardPort => { x with released := (s.job j).identity }))
    · exact State.port_modPort_of_ne _ (fun hpq : p = q => h j (by simp) (by rw [hp, hpq]))
        (fun x : CardPort => { x with released := (s.job j).identity })

/-- The release check of one job. -/
theorem runRelease_releasesOne (s : State) (j : JobNo) : ∃ t, runRelease j s = t.still ∧ s.Releases [j] t := by
  by_cases hdue : s.Due j
  · exact runRelease_due hdue
  · refine ⟨s, ?_, .refl s [j] fun i hi => by rw [List.mem_singleton.1 hi]; exact hdue⟩
    by_cases hun : s.Untaken j
    · exact runRelease_waits hun
    · have hst : (s.job j).state ≠ .reporting := fun h => hdue ⟨h, hun⟩
      exact if_neg fun h => hst h.1

theorem State.Releases.job_of_ne {s t : State} {j : JobNo} (h : s.Releases [j] t) {i : JobNo} (hi : i ≠ j) : t.job i = s.job i :=
  h.others i fun g => hi (List.mem_singleton.1 g.1)

theorem State.Releases.due_of_ne {s t : State} {j : JobNo} (h : s.Releases [j] t) {i : JobNo} (hi : i ≠ j) : t.Due i ↔ s.Due i := by
  simp only [State.Due, State.Untaken, h.job_of_ne hi, State.clip_congr h.clips]

theorem State.Releases.boundPort {s t : State} {js : List JobNo} (h : s.Releases js t) (i : JobNo) :
    (t.job i).boundPort = (s.job i).boundPort ∧ (t.job i).identity = (s.job i).identity := by
  by_cases hi : i ∈ js ∧ s.Due i
  · rw [h.due i hi.1 hi.2]; exact ⟨rfl, rfl⟩
  · rw [h.others i hi]; exact ⟨rfl, rfl⟩

theorem State.Releases.cons {s t u : State} {j : JobNo} {js : List JobNo} (hj : j ∉ js) (h : s.Releases [j] t) (g : t.Releases js u) :
    s.Releases (j :: js) u := by
  refine ⟨fun i hi hdue => ?_, fun i hi => ?_, fun i hi hdue p hp hother => ?_, fun p hp => ?_, g.dests.trans h.dests,
    g.clips.trans h.clips, g.ring.trans h.ring, g.manifest.trans h.manifest, g.faults.trans h.faults⟩
  · by_cases hij : i = j
    · subst hij
      rw [g.others i fun g => hj g.1]
      exact h.due i (by simp) hdue
    · rw [g.due i ((List.mem_cons.1 hi).resolve_left hij) ((h.due_of_ne hij).2 hdue), h.job_of_ne hij]
  · by_cases hij : i = j
    · subst hij
      rw [g.others i fun g => hj g.1]
      exact h.others i fun g => hi ⟨by simp, g.2⟩
    · rw [g.others i fun g => hi ⟨List.mem_cons_of_mem _ g.1, (h.due_of_ne hij).1 g.2⟩, h.job_of_ne hij]
  · by_cases hij : i = j
    · subst hij
      have hkept : u.port p = t.port p := g.port p fun l hl hb => hother l (fun hli => hj (hli ▸ hl))
        ((h.boundPort l).1.symm.trans hb)
      rw [hkept]
      exact h.memory i (by simp) hdue p hp hother
    · have hmem : i ∈ js := (List.mem_cons.1 hi).resolve_left hij
      rw [g.memory i hmem ((h.due_of_ne hij).2 hdue) p ((h.boundPort i).1.trans hp) fun l hl hb =>
        hother l hl ((h.boundPort l).1.symm.trans hb)]
      exact (h.boundPort i).2
  · rw [g.port p fun l hl hb => hp l (List.mem_cons_of_mem _ hl) ((h.boundPort l).1.symm.trans hb)]
    exact h.port p fun l hl => by rw [List.mem_singleton.1 hl]; exact hp j (by simp)

theorem effects_release (js : List JobNo) (hjs : js.Nodup) (s : State) :
    ∃ u, s.Releases js u ∧ effects false js.length (js.map .release) s = some u := by
  induction js generalizing s with
  | nil => exact ⟨s, .refl s [] (by simp), effects_nil _ _⟩
  | cons j js ih =>
    obtain ⟨hj, hjs⟩ := List.nodup_cons.1 hjs
    obtain ⟨t, hrun, hone⟩ := runRelease_releasesOne s j
    obtain ⟨u, hrest, heff⟩ := ih hjs t
    refine ⟨u, hone.cons hj hrest, ?_⟩
    rw [List.length_cons, List.map_cons]
    exact (effects_still (answers := false) (a := .release j) hrun rfl).trans heff

/-! ### MANIFEST_READ -/

/-- The state with the records at the head of the queue taken and the deferred clips entered. -/
def State.manifestTaken (s : State) (records : List Record) : State :=
  (records.foldl State.takeRecord { s with manifest := { s.manifest with queue := s.manifest.queue.drop records.length } }).refill
    records.length

/-- The fields of a record formed from a clip (R143, R144). -/
theorem State.formRecord_fields (s : State) (c : Nat) (x : Clip) :
    let r := s.formRecord c x
    r.kind = (if x.state = .secured then .secured else .excluded) ∧ r.job = x.job ∧ r.length = x.length
      ∧ r.token = x.token ∧ r.sum = x.sum ∧ r.detached = false ∧ r.prior = (if x.state = .secured then none else x.prior)
      ∧ r.unstable = (if x.state = .secured then some x.unstable else none)
      ∧ (∀ card, (s.job x.job).identity = some card → r.identity = card)
      ∧ ∀ d : DestNo, r.copies[d] = (x.copies[d]).map fun k => ⟨k.state, k.attempt, k.window, k.trailer⟩ := by
  refine ⟨?_, rfl, rfl, rfl, rfl, rfl, ?_, ?_, fun card h => ?_, fun d => ?_⟩
  · by_cases h : x.state = .secured <;> simp [State.formRecord, h]
  · by_cases h : x.state = .secured <;> simp [State.formRecord, h]
  · by_cases h : x.state = .secured <;> simp [State.formRecord, h]
  · simp [State.formRecord, h]
  · simp [State.formRecord]

/-- From `s` to `t` these records were taken, and deferred clips entered behind what is left. -/
structure State.TakesRecords (s : State) (records : List Record) (t : State) : Prop where
  queue : ∃ fresh, t.manifest = { queue := s.manifest.queue.drop records.length ++ fresh, deferred := s.manifest.deferred.drop records.length }
    ∧ fresh.map (·.clip) = s.manifest.deferred.take records.length
    ∧ ∀ r ∈ fresh, ∀ x, s.clip? r.clip = some x → r = s.formRecord r.clip x
  clip : ∀ c, t.clip? c = (s.clip? c).map fun x =>
    if c ∈ s.manifest.deferred.take records.length then { x with mstatus := .queued }
    else if ∃ r ∈ records, r.clip = c ∧ r.detached = false then { x with mstatus := .taken } else x
  blocks : ∃ v m, t = { s with clips := v, manifest := m }

theorem State.manifestTaken_takes {s : State} {records : List Record}
    (h : ∀ c ∈ s.manifest.deferred.take records.length, (s.clip? c).isSome) : s.TakesRecords records (s.manifestTaken records) := by
  let s1 : State := { s with manifest := { s.manifest with queue := s.manifest.queue.drop records.length } }
  obtain ⟨cs, hcs, hclip⟩ := takeRecords_spec records s1
  have hman : (records.foldl State.takeRecord s1).manifest = s1.manifest := by rw [hcs]
  obtain ⟨⟨fresh, hq, hmap, hrec⟩, hc2, v, m, hv⟩ := State.refill_enters records.length
    (s := records.foldl State.takeRecord s1) fun c hc => by
      rw [hclip, Option.isSome_map]
      exact h c (by rw [hman] at hc; exact hc)
  rw [hman] at hq hmap hc2
  have hlength : (s.manifest.deferred.take records.length).length = min records.length s.manifest.deferred.length := List.length_take
  refine ⟨⟨fresh, hq.trans ?_, hmap, fun r hr x hx => ?_⟩, fun c => ?_, v, m, ?_⟩
  · have hdrop : s.manifest.deferred.drop (s.manifest.deferred.take records.length).length = s.manifest.deferred.drop records.length := by
      rw [hlength]
      rcases Nat.le_total records.length s.manifest.deferred.length with hle | hle
      · rw [Nat.min_eq_left hle]
      · rw [Nat.min_eq_right hle, List.drop_length, List.drop_of_length_le hle]
    change (⟨s.manifest.queue.drop records.length ++ fresh, s.manifest.deferred.drop (s.manifest.deferred.take records.length).length⟩ : Manifest) = _
    rw [hdrop]
  · refine (hrec r hr _ ((hclip r.clip).trans (by rw [show s1.clip? r.clip = some x from hx]; rfl))).trans ?_
    rw [hcs]
    split_ifs <;> rfl
  · refine (hc2 c).trans ?_
    rw [hclip, Option.map_map]
    refine congrArg (fun f => Option.map f (s.clip? c)) (funext fun x => ?_)
    simp only [Function.comp_apply]
    change (if c ∈ s.manifest.deferred.take records.length then _ else _) = _
    by_cases h1 : c ∈ s.manifest.deferred.take records.length
    · simp only [h1, if_true]
      split_ifs <;> rfl
    · simp only [h1, if_false]
  · change State.refill _ _ = _
    rw [hv, hcs]

theorem mem_releasedJobs (records : List Record) (j : JobNo) :
    j ∈ releasedJobs records ↔ ∃ r ∈ records, r.job = j ∧ r.detached = false := by
  simp [releasedJobs, show j ∈ allJobs from List.mem_finRange j]

theorem releasedJobs_nodup (records : List Record) : (releasedJobs records).Nodup :=
  List.Nodup.filter _ (List.nodup_finRange 16)

/-- Settles O56: records taken, deferred clips entered, and jobs released. -/
theorem manifestReadRules : Obligations.ManifestReadRules := by
  intro tag count s e he records entering hentering
  let s0 := s.quiet.owing e tag 0x30
  obtain ⟨⟨fresh, hq, hmap, hrec⟩, hclip, v, m, hv⟩ := State.manifestTaken_takes (s := s0) (records := records) hentering
  let s2 := s0.manifestTaken records
  obtain ⟨u, hrel, heff⟩ := effects_release (releasedJobs records) (releasedJobs_nodup records) s2
  have hs2 : s2.jobs = s.jobs ∧ s2.ports = s.ports ∧ s2.dests = s.dests ∧ s2.ring = s.ring ∧ s2.plan = s.plan ∧ s2.faults = s.faults
      ∧ s2.link = s0.link := by
    rw [show s2 = _ from hv]
    exact ⟨rfl, rfl, rfl, rfl, rfl, rfl, rfl⟩
  obtain ⟨hjobs, hports, hdests, hring, hplan, hfaults, hlink⟩ := hs2
  have hcount : (releasedJobs records).length ≤ 16 := (List.length_filter_le _ _).trans (by simp [allJobs])
  obtain ⟨t, ht, hends, hpt, hans⟩ := State.take_effects (s := s.quiet) (u := u) (tag := tag) (code := 0x30) (n := (releasedJobs records).length)
    (w := s2.andNow ((releasedJobs records).map .release)) (owner := fun _ s => ruleManifestRead count s) (b := s2.manifestBytes records)
    he rfl (by rw [show (s2.andNow _).state.link = s2.link from rfl, hlink]; exact Link.OnlyNotices.refl _) (by omega)
    (by rw [show (s2.andNow _).now ++ (s2.andNow _).later = _ from List.append_nil _]; exact heff)
  have hman : t.manifest = s2.manifest := hends.manifest.trans hrel.manifest
  have htclip (c : Nat) : t.clip? c = s2.clip? c := (hends.clip c).trans (State.clip_congr hrel.clips c)
  have hjob (j : JobNo) : s2.job j = s.job j := State.job_congr hjobs j
  refine ⟨t, fresh, (exec_manifestRead tag count s).trans ht, hman.trans hq, hmap, fun r hr x hx => ?_, fun c => (htclip c).trans (hclip c),
    ?_, fun r _ h => length_recordReport h, fun j => ?_, hends.ring.trans (hrel.ring.trans hring), hpt.trans hplan,
    hends.faults.trans (hrel.faults.trans hfaults), fun d => ?_⟩
  · rw [hrec r hr x hx]
    exact s0.formRecord_fields r.clip x
  · have hbytes : s2.manifestBytes records = BitVec.ofNat 8 records.length
        :: (Bytes.le 2 t.manifest.queue.length ++ Bytes.le 2 t.manifest.deferred.length) ++ records.flatMap recordReport := by
      rw [hman]
      simp only [State.manifestBytes, funext Record.bytes_eq]
      rfl
    rw [← hbytes]
    exact hans
  · intro due
    have hdue : due ↔ j ∈ releasedJobs records ∧ s2.Due j := by
      simp only [due, mem_releasedJobs, State.Due, State.Untaken, hjob]
      refine ⟨fun ⟨h1, h2, h3⟩ => ⟨h2, h1, fun ⟨c, hc, x, hx, hne⟩ => hne (h3 c hc x ((htclip c).trans hx))⟩,
        fun ⟨h2, h1, h3⟩ => ⟨h1, h2, fun c hc x hx => ?_⟩⟩
      by_contra hne
      exact h3 ⟨c, hc, x, (htclip c).symm.trans hx, hne⟩
    refine ⟨fun h => ?_, fun h => ?_⟩
    · obtain ⟨hmem, hd⟩ := hdue.1 h
      refine ⟨(hends.job j).trans ((hrel.due j hmem hd).trans (by rw [hjob])), fun p hp hother => ?_⟩
      obtain ⟨-, -, -, -, -, -, hmemory⟩ := hends.card p
      rw [hmemory, hrel.memory j hmem hd p (by rw [hjob]; exact hp) fun i hi => by rw [hjob]; exact hother i hi, hjob]
    · exact (hends.job j).trans ((hrel.others j (mt hdue.2 h)).trans (hjob j))
  · have := hends.drive d
    rwa [State.dest_congr (hrel.dests.trans hdests)] at this

end Sys2Proof.Machine

/-! JOB_ABANDON (R11; O50). -/

namespace Sys2Proof.Machine

theorem Table.filter_insert {α : Type} {p : Nat × α → Bool} {k : Nat} {v : α} {t : List (Nat × α)} (hv : p (k, v) = false)
    (hk : ∀ y, (k, y) ∈ t → p (k, y) = false) : (Table.insert k v t).filter p = t.filter p := by
  induction t with
  | nil => simp [Table.insert, hv]
  | cons e t ih =>
    obtain ⟨k', v'⟩ := e
    have ih := ih fun y hy => hk y (List.mem_cons_of_mem _ hy)
    simp only [Table.insert]
    split_ifs with hlt heq
    · simp [List.filter_cons, hv]
    · subst heq
      simp [hv, hk v' List.mem_cons_self]
    · simp only [List.filter_cons, ih]

/-! ### The copies of a job's clips aborted -/

/-- The live copies of these clips aborted in turn, each clip's in turn. -/
theorem State.abortClips_aborts {s : State} (h : s.ReadsRest) (cs : List Nat) :
    s.Aborts (fun b e => cs.contains b && s.liveCopy b e) (cs.foldl (fun s c => s.abortCopies c) s) := by
  induction cs generalizing s with
  | nil => exact .refl s
  | cons c cs ih =>
    have h1 := State.abortCopies_aborts h c
    refine (h1.trans (ih (h1.readsRest h))).congr fun b e => ?_
    rw [h1.liveCopy, List.contains_cons]
    cases hb : b == c <;> cases s.liveCopy b e <;> simp

/-- From `s` to `t` the clip records of the other jobs are as they were, and every record under one of these numbers is the
job's. -/
structure State.OnlyClipsOf (s : State) (j : JobNo) (cs : List Nat) (t : State) : Prop where
  others : (t.clips.filter fun e => decide (e.2.job ≠ j)) = s.clips.filter fun e => decide (e.2.job ≠ j)
  own : ∀ c ∈ cs, ∀ x, (c, x) ∈ t.clips → x.job = j

theorem State.modCopy_onlyClipsOf {s : State} {j : JobNo} {cs : List Nat} (h : s.OnlyClipsOf j cs s) {c : Nat} (hc : c ∈ cs)
    (d : DestNo) (f : Copy → Copy) : s.OnlyClipsOf j cs (s.modCopy c d f) := by
  cases hk : s.copy? c d with
  | none =>
    rw [State.modCopy, hk]
    exact h
  | some k =>
    obtain ⟨x, hx, hkx⟩ := State.copy_some_iff.1 hk
    have hjob := h.own c hc x (Table.mem_of_find hx)
    rw [State.modCopy_of_some hx hkx]
    refine ⟨Table.filter_insert (by simp [hjob]) fun y hy => by simp [h.own c hc y hy], fun b hb y hy => ?_⟩
    rcases Table.mem_insert hy with hy | hy
    · obtain ⟨rfl, rfl⟩ := Prod.mk.inj hy
      exact hjob
    · exact h.own b hb y hy

theorem State.abortCopy_onlyClipsOf {s : State} (hrest : s.ReadsRest) {j : JobNo} {cs : List Nat} (h : s.OnlyClipsOf j cs s)
    {c : Nat} (hc : c ∈ cs) (d : DestNo) : s.OnlyClipsOf j cs (s.abortCopy c d) := by
  rw [State.abortCopy]
  split
  · exact h
  · split
    · have hm := State.modCopy_onlyClipsOf h hc d fun k => { k with state := .aborted }
      have hd (e : DestNo) := State.dest_modCopy s c d (fun k => { k with state := .aborted }) e
      obtain ⟨-, hclips⟩ := State.withdrawCopy_leaves (s := s.modCopy c d fun k => { k with state := .aborted })
        (fun e => by rw [hd]; exact hrest e) c d
      exact ⟨by rw [hclips]; exact hm.others, by rw [hclips]; exact hm.own⟩
    · exact h

/-- Aborting copies of a job's clips leaves the clip records of the other jobs as they are. -/
theorem State.abortAll_onlyClipsOf (l : List (Nat × DestNo)) {s : State} (hrest : s.ReadsRest) {j : JobNo} {cs : List Nat}
    (h : s.OnlyClipsOf j cs s) (hl : ∀ p ∈ l, p.1 ∈ cs) : s.OnlyClipsOf j cs (s.abortAll l) := by
  induction l generalizing s with
  | nil => exact h
  | cons p l ih =>
    have h1 := State.abortCopy_onlyClipsOf hrest h (hl p List.mem_cons_self) p.2
    have h2 := ih ((State.abortCopy_aborts hrest p.1 p.2).readsRest hrest) ⟨rfl, h1.own⟩ fun q hq => hl q (List.mem_cons_of_mem _ hq)
    exact ⟨h2.others.trans h1.others, h2.own⟩

theorem State.abortClips_eq (s : State) (cs : List Nat) :
    cs.foldl (fun s c => s.abortCopies c) s = s.abortAll (cs.flatMap fun c => allDests.map fun d => (c, d)) := by
  rw [State.abortAll, List.foldl_flatMap]
  refine congrArg (fun f => cs.foldl f s) (funext fun s => funext fun c => ?_)
  exact State.abortCopies_eq s c

/-! ### The slots it frees -/

@[simp] theorem Slot.left_owner (y : Slot) (gone : Nat → DestNo → Bool) : (y.left gone).owner = y.owner := by
  unfold Slot.left; split <;> rfl

@[simp] theorem Slot.left_clip (y : Slot) (gone : Nat → DestNo → Bool) : (y.left gone).clip = y.clip := by
  unfold Slot.left; split <;> rfl

/-- A slot that stands without a destination since copies were withdrawn was STAGED for one of them, or is a lane's. -/
theorem State.Leaves.orphan_since {s t : State} {gone : Nat → DestNo → Bool} (h : s.Leaves gone t) (hsound : s.ring.Sound) {n : Nat}
    {y : Slot} (hy : s.slot? n = some y) (hn : n ∈ t.orphansSince s) : (∃ d, gone y.clip d = true) ∨ ∃ d, y.owner = .lane d := by
  obtain ⟨ht, hs⟩ := State.mem_orphansSince.1 hn
  obtain ⟨z, hz, ho⟩ := State.mem_orphans_iff.1 ht
  have hz' : t.slot? n = some z := (Table.find_eq_some_iff (h.sound hsound).1 n z).2 hz
  rw [h.slot, hy] at hz'
  obtain rfl : z = y.left gone := (Option.some.inj hz').symm
  cases hst : y.state with
  | staged =>
    left
    by_contra hno
    have hsame : y.left gone = y := by
      rw [Slot.left, if_pos hst]
      have : (y.pending.filter fun d => !gone y.clip d) = y.pending :=
        List.filter_eq_self.2 fun d _ => by simpa using fun hg => hno ⟨d, hg⟩
      rw [this]
    rw [hsame] at ho
    exact hs (State.mem_orphans_iff.2 ⟨y, Table.mem_of_find hy, by simpa only [State.orphaned, hst] using ho⟩)
  | filling =>
    right
    have hsame : y.left gone = y := by rw [Slot.left, if_neg (by rw [hst]; decide)]
    cases hown : y.owner with
    | lane d => exact ⟨d, rfl⟩
    | job j =>
      rw [hsame, State.orphaned, hst, hown] at ho
      cases ho

/-- The manifest without a job's deferred clips, its queued records detached. -/
def State.detachedManifest (s : State) (j : JobNo) : Manifest where
  queue := s.manifest.queue.map fun r => if r.job = j then { r with detached := true } else r
  deferred := s.manifest.deferred.filter fun c => !((s.clip? c).any fun x => decide (x.job = j))

/-- From `s` to `u` job `j` was abandoned: record, clips, slots and its copies' work gone, its port left. -/
structure State.Abandons (s : State) (j : JobNo) (u : State) : Prop where
  job : ∀ l, u.job l = if l = j then Job.free else s.job l
  clips : u.clips = s.clips.filter fun e => decide (e.2.job ≠ j)
  manifest : u.manifest = s.detachedManifest j
  bound : ∀ p, (s.job j).boundPort = some p → (u.port p).state = .present ∧ (u.port p).boundJob = none
    ∧ (u.port p).identity = (s.port p).identity ∧ (u.port p).released = (s.port p).released
  unbound : ∀ p, (s.job j).boundPort ≠ some p → (s.port p).SameCard (u.port p)
  dest : ∀ d, ∃ a h, u.dest d = { (s.dest d).left (fun b => (s.job j).clips.contains b && s.liveCopy b d) a with
    lane := { ((s.dest d).left (fun b => (s.job j).clips.contains b && s.liveCopy b d) a).lane with held := h } }
  held : ∀ n y, (n, y) ∈ u.ring.held → y.owner ≠ .job j ∧ y.clip ∉ (s.job j).clips
  waitList : u.ring.waitList = []
  faults : u.faults = s.faults
  sound : u.ring.Sound

theorem abandonJob_effects {s : State} {j : JobNo} (hidle : s.LanesIdle) (hrest : s.ReadsRest) (hsound : s.ring.Sound)
    (hwait : s.ring.waitList = []) (hclips : ∀ c x, (c, x) ∈ s.clips → (x.job = j ↔ c ∈ (s.job j).clips))
    (hsupply : ∀ p, ∀ i ∈ (s.port p).fifo, ∀ d l b k n, i.work ≠ .supply d l b k n)
    (howner : ∀ n y, (n, y) ∈ s.ring.held → y.clip ∈ (s.job j).clips → y.owner = .job j) :
    ∃ u, s.Abandons j u ∧ s.link.OnlyNotices (abandonJob j s).state.link ∧ (abandonJob j s).state.plan = s.plan
      ∧ effects false 7000 ((abandonJob j s).now ++ (abandonJob j s).later) (abandonJob j s).state = some u := by
  let cs := (s.job j).clips
  let p := (s.job j).boundPort
  let gone : Nat → DestNo → Bool := fun b e => cs.contains b && s.liveCopy b e
  let s1 := cs.foldl (fun s c => s.abortCopies c) s
  have ha : s.Aborts gone s1 := State.abortClips_aborts hrest cs
  have honly : s.OnlyClipsOf j cs s1 := by
    rw [show s1 = _ from State.abortClips_eq s cs]
    refine State.abortAll_onlyClipsOf _ hrest ⟨rfl, fun c hc x hx => (hclips c x hx).2 hc⟩ fun q hq => ?_
    obtain ⟨c, hc, hq⟩ := List.mem_flatMap.1 hq
    obtain ⟨d, -, rfl⟩ := List.mem_map.1 hq
    exact hc
  let s2 := p.elim s1 fun p => s1.withdrawReads (ReaderWork.ofJob j) p
  obtain ⟨v, hv, hport⟩ : ∃ v, s2 = { s1 with ports := v } ∧ ∀ q, ∃ f a, s2.port q = { s1.port q with fifo := f, abandoned := a }
      ∧ (p ≠ some q → f = (s1.port q).fifo) := by
    cases hp : p with
    | none => exact ⟨s1.ports, by simp only [s2, hp]; rfl, fun q => ⟨(s1.port q).fifo, (s1.port q).abandoned, by simp only [s2, hp]; rfl, fun _ => rfl⟩⟩
    | some q0 =>
      have h2 : s2 = s1.withdrawReads (ReaderWork.ofJob j) q0 := by simp only [s2, hp]; rfl
      refine ⟨_, h2, fun q => ?_⟩
      by_cases hq : q0 = q
      · subst hq
        exact ⟨_, _, by rw [h2]; exact State.port_modPort_self _ _ _, fun h => absurd rfl h⟩
      · exact ⟨(s1.port q).fifo, (s1.port q).abandoned, by rw [h2]; exact State.port_modPort_of_ne _ hq _, fun _ => rfl⟩
  let s3 := (s2.leaveWait (.job j)).modJob j fun x => { x with boundPort := none }
  have hs3 : s3 = { s1 with
      ports := v
      ring := { s1.ring with waitList := s1.ring.waitList.filter (· ≠ .job j) }
      jobs := s1.jobs.set j { s1.jobs[j] with boundPort := none } } := by
    simp only [s3, hv]; rfl
  have hring3 : s3.ring = { s1.ring with waitList := s1.ring.waitList.filter (· ≠ .job j) } := by rw [hs3]
  have hjob3 (l : JobNo) : s3.job l = if l = j then { s.job j with boundPort := none } else s.job l := by
    refine (State.job_modJob (s2.leaveWait (.job j)) j (fun x => { x with boundPort := none }) l).trans ?_
    have hj (i : JobNo) : (s2.leaveWait (.job j)).job i = s.job i := by
      refine State.job_congr (Eq.trans ?_ ha.leaves.jobs) i
      simp only [hv]; rfl
    rw [hj, hj]
  have hdest3 (d : DestNo) : s3.dest d = s1.dest d := by rw [hs3]; rfl
  have horphans : s3.orphansSince s = s1.orphansSince s := by rw [hs3]; rfl
  have hidle3 : s3.LanesIdle := fun d => by rw [hdest3]; exact ha.leaves.lanesIdle hidle d
  have hwait3 : s3.ring.waitList = [] := by
    rw [hring3]
    have := ha.leaves.waitList
    rw [hwait] at this
    simp [List.sublist_nil.1 this]
  have hsound3 : s3.ring.Sound := by
    have := ha.leaves.sound hsound
    rw [hring3]; exact this
  let freed := (s3.ring.held.filter fun e => decide (e.2.owner = .job j) || (s3.orphansSince s).contains e.1).map Prod.fst
  have hmem {n : Nat} {y : Slot} (hy : s3.slot? n = some y) : n ∈ freed ↔ y.owner = .job j ∨ n ∈ s1.orphansSince s := by
    rw [← horphans]
    constructor
    · intro hn
      obtain ⟨⟨m, z⟩, hz, rfl⟩ := List.mem_map.1 hn
      obtain ⟨hz, hfreed⟩ := List.mem_filter.1 hz
      obtain rfl : z = y := Option.some.inj (((Table.find_eq_some_iff hsound3.1 m z).2 hz).symm.trans hy)
      simpa using hfreed
    · intro hn
      exact List.mem_map.2 ⟨(n, y), List.mem_filter.2 ⟨Table.mem_of_find hy, by simpa using hn⟩, rfl⟩
  have hnodup : freed.Nodup := hsound3.nodup.sublist (List.filter_sublist.map _)
  have hlength : freed.length ≤ 2048 := by
    refine le_trans ?_ hsound3.length_le
    rw [List.length_map]
    exact List.length_filter_le _ _
  have hslot3 (n : Nat) : s3.slot? n = (s.slot? n).map (·.left gone) := by
    rw [← ha.leaves.slot, State.slot?, State.slot?, hring3]
  have howner3 {n : Nat} {y : Slot} (hy : s3.slot? n = some y) (hn : n ∈ freed) : y.owner = .job j ∨ ∃ d, y.owner = .lane d := by
    rw [hslot3] at hy
    obtain ⟨y, hy0, rfl⟩ := Option.map_eq_some_iff.1 hy
    rw [Slot.left_owner]
    rcases (hmem (by rw [hslot3, hy0]; rfl)).1 hn with h | h
    · exact .inl (by simpa using h)
    · rcases ha.leaves.orphan_since hsound hy0 h with ⟨d, hg⟩ | h
      · have hc : y.clip ∈ cs := by simpa using (Bool.and_eq_true_iff.1 hg).1
        exact .inl (howner n y (Table.mem_of_find hy0) hc)
      · exact .inr h
  have hf := State.freeAll_freed freed hnodup s3
  let t1 := s3.freeAll freed
  let t2 : State := { t1 with manifest := t1.detachedManifest j }
  let u := t2.freeJob j p
  obtain ⟨hring, hdests, -, hman, hfaults, hclipsu, -, hjobu, -⟩ := t2.freeJob_spec j p
  obtain ⟨hbound, hunbound, -⟩ := t2.freeJob_ports j p
  have hclip1 : t1.clips = s1.clips := hf.clips.trans (by rw [hs3])
  have hport1 (q : PortNo) : ∃ f a, t2.port q = { s.port q with fifo := f, abandoned := a } ∧ (p ≠ some q → f = (s.port q).fifo) := by
    obtain ⟨f, a, h2, hfifo⟩ := hport q
    obtain ⟨b, h1⟩ := ha.leaves.port q
    refine ⟨f, a, ?_, fun hq => ?_⟩
    · have : t1.port q = s2.port q := State.port_congr (hf.ports.trans (by rw [hs3, hv])) q
      exact this.trans (by rw [h2, h1])
    · rw [hfifo hq, h1]
      refine List.filter_eq_self.2 fun i hi => ?_
      cases hw : i.work with
      | supply d l b k n => exact absurd hw (hsupply q i hi d l b k n)
      | job => rfl
      | sector => rfl
  have hdestu (d : DestNo) : ∃ a h, u.dest d = { (s.dest d).left (gone · d) a with
      lane := { ((s.dest d).left (gone · d) a).lane with held := h } } := by
    obtain ⟨a, h1⟩ := ha.leaves.dest d
    refine ⟨a, (s1.dest d).lane.held - (s3.ownedIn (.lane d) freed).length, ?_⟩
    have : t2.dest d = _ := hf.dest d
    rw [State.dest_congr hdests, this, hdest3, h1]
  have hidleu : u.LanesIdle := fun d => by
    obtain ⟨a, h, hd⟩ := hdestu d
    obtain ⟨hcopies, hcur⟩ := hidle d
    rw [hd]
    simp [DestPort.left, Lane.left, hcopies, hcur]
  refine ⟨u, ⟨fun l => ?job, ?clips, ?manifest, fun q hq => ?bound, fun q hq => ?unbound, hdestu, fun n y hm => ?held, ?waitList,
    ?faults, ?sound⟩, ?link, ?plan, ?run⟩
  case job =>
    rw [hjobu]
    split_ifs with hl
    · rfl
    · have hnone : s3.ownedIn (.job l) freed = [] := by
        rw [State.ownedIn, List.filter_eq_nil_iff]
        intro n hn
        cases hy : s3.slot? n with
        | none => simp
        | some y =>
          rcases howner3 hy hn with h | ⟨d, h⟩ <;> simp [h, Ne.symm hl]
      have : t2.job l = _ := hf.job l
      rw [this, hnone, hjob3, if_neg hl]
      rfl
  case clips =>
    rw [hclipsu, State.freeClips]
    change t1.clips.filter _ = _
    rw [hclip1]
    exact honly.others
  case manifest =>
    have hman1 : t1.manifest = s.manifest := (hf.manifest.trans (by rw [hs3])).trans ha.leaves.manifest
    have hmine (c : Nat) : ((t1.clip? c).any fun x => decide (x.job = j)) = (s.clip? c).any fun x => decide (x.job = j) := by
      rw [State.clip_congr hclip1]
      cases hx : s.clip? c with
      | none => rw [ha.free c hx]
      | some x =>
        obtain ⟨v, hv⟩ := ha.clip c x hx
        rw [hv]; rfl
    rw [hman]
    change t1.detachedManifest j = _
    simp only [State.detachedManifest, hman1, hmine]
  case bound =>
    obtain ⟨f, a, h1, -⟩ := hport1 q
    rw [hbound q hq, h1]
    exact ⟨rfl, rfl, rfl, rfl⟩
  case unbound =>
    obtain ⟨f, a, h1, hfifo⟩ := hport1 q
    rw [hunbound q hq, h1, hfifo hq]
    exact ⟨rfl, rfl, rfl, rfl, rfl, rfl, rfl⟩
  case held =>
    have hy : t1.slot? n = some y := (Table.find_eq_some_iff (hf.sound hsound3).1 n y).2 (by rw [hring] at hm; exact hm)
    rw [show t1.slot? n = _ from hf.slot n] at hy
    split_ifs at hy with hn
    rw [hmem hy, not_or] at hn
    refine ⟨hn.1, fun hc => hn.1 ?_⟩
    rw [hslot3] at hy
    obtain ⟨z, hz, rfl⟩ := Option.map_eq_some_iff.1 hy
    rw [Slot.left_clip] at hc
    rw [Slot.left_owner]
    exact howner n z (Table.mem_of_find hz) hc
  case waitList =>
    rw [hring]
    exact hf.waitList.trans hwait3
  case faults => exact hfaults.trans ((hf.faults.trans (by rw [hs3])).trans ha.leaves.faults)
  case sound =>
    rw [hring]
    exact hf.sound hsound3
  case link =>
    have : s3.link = s.link := Eq.trans (by rw [hs3]) ha.leaves.link
    change s.link.OnlyNotices s3.link
    rw [this]
    exact .refl _
  case plan =>
    exact Eq.trans (by change s3.plan = s1.plan; rw [hs3]) ha.leaves.plan
  case run =>
    change effects false 7000 (.freeSlots freed :: .abandoned j p :: (allDests.map Task.laneGo ++ [])) s3 = some u
    rw [List.append_nil]
    refine effects_mono (n := (allDests.length + 1) + 1 + 3 * freed.length) (by simp [allDests]; omega) ?_
    refine effects_freeSlots_mute freed hwait3 (fun n hn y hy => ?_) ?_
    · rcases howner3 hy hn with h | ⟨d, h⟩ <;> rw [h]
      · exact .inl (by rw [hjob3, if_pos rfl])
      · exact .inl (hidle3 d).2
    · refine (effects_still (a := .abandoned j p) rfl rfl).trans ?_
      exact effects_lanes_still allDests fun d _ => runLaneGo_idle (hidleu d).1 (hidleu d).2

/-- Settles O50: the job's copies aborted and its slots freed, which no requester waits for, before the record goes. -/
theorem jobAbandonEndsTheJob : Obligations.JobAbandonEndsTheJob := by
  intro tag j s e he hused hidle hrest hsound hwait hclips hsupply howner hport
  obtain ⟨u, hu, hlink, hplan, heff⟩ := abandonJob_effects (s := s.quiet.owing e tag 0x25) (j := j) hidle hrest hsound hwait hclips
    hsupply howner
  obtain ⟨t, ht, hends, htplan, hans⟩ := State.take_effects (s := s.quiet)
    (owner := fun _ s => onJob j.val s fun j => .take [] (abandonJob j s)) he
    (onJob_used (s := s.quiet.owing e tag 0x25) hused _) hlink (by omega) heff
  have hdest (d : DestNo) : (t.dest d).state = (s.dest d).state ∧ (t.dest d).binding = (s.dest d).binding
      ∧ (∀ w, (t.dest d).queue w = ((s.dest d).queue w).filter fun i => !((s.job j).clips.contains i.clip && s.liveCopy i.clip d))
      ∧ (t.dest d).arb.lock = (s.dest d).arb.lock.filter fun l => !((s.job j).clips.contains l.2 && s.liveCopy l.2 d) := by
    obtain ⟨a, h, hd⟩ := hu.dest d
    rw [hends.destState, hends.binding, hends.lock]
    simp only [hends.queue, hd]
    refine ⟨rfl, rfl, fun w => ?_, rfl⟩
    refine Eq.trans ?_ (DestPort.queue_left (s.dest d) (fun b => (s.job j).clips.contains b && s.liveCopy b d) a w)
    cases w <;> rfl
  have hgone {c : Nat} {d : DestNo} (hn : (!((s.job j).clips.contains c && s.liveCopy c d)) = true) :
      c ∉ (s.job j).clips ∨ ∀ k, s.copy? c d = some k → k.state.live = false := by
    refine or_iff_not_imp_left.2 fun hc k hk => ?_
    simpa [not_not.1 hc, State.liveCopy, hk] using hn
  refine ⟨t, (exec_jobAbandon tag j.val s).trans ht, (hends.job j).trans ((hu.job j).trans (if_pos rfl)),
    fun l hl => (hends.job l).trans ((hu.job l).trans (if_neg hl)), hends.clips.trans hu.clips, hends.manifest.trans hu.manifest,
    fun p hp => ?bound, fun p hp => (hu.unbound p hp).trans (hends.card p), fun d w i hi => ?queue, fun d w c hl => ?lock,
    fun d => ⟨(hdest d).1, (hdest d).2.1⟩, ?held, ?wait, htplan.trans hplan, hends.faults.trans hu.faults, ?sound, hans⟩
  case bound =>
    obtain ⟨-, hst, hid, hjob, -, -, hrel⟩ := hends.card p
    obtain ⟨hst', hjob', hid', hrel'⟩ := hu.bound p hp
    exact ⟨hst.trans hst', hjob.trans hjob', hid.trans hid', hrel.trans hrel'⟩
  case queue =>
    obtain ⟨-, -, hq, -⟩ := hdest d
    rw [hq, List.mem_filter] at hi
    exact hgone hi.2
  case lock =>
    obtain ⟨-, -, -, hlock⟩ := hdest d
    rw [hlock, Option.filter_eq_some_iff] at hl
    exact hgone hl.2
  case held => rw [hends.ring]; exact hu.held
  case wait => rw [hends.ring, hu.waitList]; simp
  case sound => rw [hends.ring]; exact hu.sound

end Sys2Proof.Machine

/-! Failed attempts of a copy (R108, R109, R114, R115, R118, R119; O29, O30). -/

namespace Sys2Proof.Machine

/-! ### What fails an attempt -/

/-- The response that failed an attempt is cleared: its VERIFY job gone from the read lane, the readback sum recorded. -/
structure State.AttemptFails (s : State) (d : DestNo) (c : Nat) (x : Clip) (k : Copy) (sum : Option ClosedSum) (u : State) :
    Prop where
  others : ∀ e, e ≠ d → u.dest e = s.dest e
  dest : ∃ a rl, u.dest d = { cleared (s.dest d) with rl := rl, abandoned := a } ∧ rl.jobs = []
  clip : ∀ b, u.clip? b = if b = c then some { x with copies := x.copies.set d (some { k with readback := sum }) } else s.clip? b
  jobs : u.jobs = s.jobs
  ring : u.ring = s.ring
  plan : u.plan = s.plan
  manifest : u.manifest = s.manifest
  faults : u.faults = s.faults

section

variable {s : State} {d : DestNo} {c : Nat} {x : Clip} {k : Copy}

/-- A record set to itself. -/
theorem State.clip_of_same (hx : s.clip? c = some x) (hk : x.copies[d] = some k) (b : Nat) :
    s.clip? b = if b = c then some { x with copies := x.copies.set d (some k) } else s.clip? b := by
  split_ifs with hb
  · have : x.copies.set d (some k) = x.copies := by rw [← hk]; exact Vector.set_getElem_self _
    rw [hb, hx, this]
  · rfl

theorem State.attemptFails_write (hx : s.clip? c = some x) (hk : x.copies[d] = some k) (hjobs : (s.dest d).rl.jobs = []) :
    s.AttemptFails d c x k k.readback (s.quiet.setDest d (cleared (s.dest d))) :=
  ⟨fun _ he => State.dest_setDest_of_ne s.quiet (Ne.symm he) _,
    ⟨false, (s.dest d).rl, State.dest_setDest_self s.quiet d _, hjobs⟩, State.clip_of_same hx hk, rfl, rfl, rfl, rfl, rfl⟩

/-- A VERIFY job that failed ends, when its failure left this readback sum. -/
theorem State.attemptFails_endRead {s1 : State} {sum : Option ClosedSum} (hjobs : (s.dest d).rl.jobs = [.verify c])
    (h : s1 = (s.quiet.setDest d (cleared (s.dest d))).setClip c { x with copies := x.copies.set d (some { k with readback := sum }) }
      ∨ (s1 = s.quiet.setDest d (cleared (s.dest d)) ∧ sum = k.readback ∧ s.clip? c = some x ∧ x.copies[d] = some k)) :
    s.AttemptFails d c x k sum (s1.endRead d) := by
  have hs1 : (∀ e, s1.dest e = (s.quiet.setDest d (cleared (s.dest d))).dest e)
      ∧ (∀ b, s1.clip? b = if b = c then some { x with copies := x.copies.set d (some { k with readback := sum }) } else s.clip? b)
      ∧ s1.jobs = s.jobs ∧ s1.ring = s.ring ∧ s1.plan = s.plan ∧ s1.manifest = s.manifest ∧ s1.faults = s.faults := by
    rcases h with rfl | ⟨rfl, rfl, hx, hk⟩
    · exact ⟨fun _ => rfl, State.clip_setClip _ _ _, rfl, rfl, rfl, rfl, rfl⟩
    · exact ⟨fun _ => rfl, State.clip_of_same hx hk, rfl, rfl, rfl, rfl, rfl⟩
  obtain ⟨hdest, hclip, hj, hr, hp, hm, hf⟩ := hs1
  have hself : s1.dest d = cleared (s.dest d) := (hdest d).trans (State.dest_setDest_self s.quiet d _)
  have hend := s1.endRead_readsAt d
  rw [hself, show (cleared (s.dest d)).rl.jobs = [.verify c] from hjobs] at hend
  obtain ⟨a, rl, hd, hrl⟩ := hend.dest
  rw [hself] at hd
  refine ⟨fun e he => ?_, ⟨a, rl, hd, hrl⟩, fun b => (hend.clips_of_nil b).trans (hclip b), hend.jobs.trans hj,
    hend.ring.trans hr, hend.plan.trans hp, hend.manifest.trans hm, hend.faults.trans hf⟩
  rw [hend.others e he, hdest]
  exact State.dest_setDest_of_ne s.quiet (Ne.symm he) _

/-- A VERIFY job that fails ends, with this readback sum recorded. -/
theorem State.attemptFails_verify (hx : s.clip? c = some x) (hk : x.copies[d] = some k)
    (hjobs : (s.dest d).rl.jobs = [.verify c]) (sum : Option ClosedSum) :
    s.AttemptFails d c x k sum (((s.quiet.setDest d (cleared (s.dest d))).recordReadback c d sum).endRead d) :=
  State.attemptFails_endRead hjobs (.inl (State.modCopy_of_some (s := s.quiet.setDest d (cleared (s.dest d))) hx hk _))

theorem failFor_write {w : Writer} {a : Nat} {serves : Serves} {cmd : DriveCmd} {detail : Detail}
    (h : (∃ n, serves = .data w c a n) ∨ serves = .trailer w c a) (u : State) :
    failFor d detail ⟨cmd, serves⟩ u = runFailAttempt c d detail u := by
  rcases h with ⟨n, rfl⟩ | rfl <;> rfl

/-- A FAIL to a request of a VERIFY job, or what is taken as one. -/
theorem readFailed_verify {step : ReadStep} {r : Nat} (hx : s.clip? c = some x) (hk : x.copies[d] = some k)
    (hjobs : (s.dest d).rl.jobs = [.verify c]) (hact : (s.dest d).rl.active = some ⟨step, none, r⟩) (detail : Detail) :
    ∃ u, s.AttemptFails d c x k (if step = .trailer then (s.dest d).rl.sum.map (·.close) else k.readback) u
      ∧ readFailed d detail (s.quiet.setDest d (cleared (s.dest d))) = runFailAttempt c d detail u := by
  let s0 := s.quiet.setDest d (cleared (s.dest d))
  have hself : s0.dest d = cleared (s.dest d) := State.dest_setDest_self s.quiet d _
  have hrun : readFailed d detail s0 = runFailAttempt c d detail
      ((if step = .trailer then s0.recordReadback c d ((s.dest d).rl.sum.map (·.close)) else s0).endRead d) := by
    simp only [readFailed, hself, show (cleared (s.dest d)).rl = (s.dest d).rl from rfl, hjobs, hact]
  by_cases hstep : step = .trailer
  · rw [if_pos hstep] at hrun ⊢
    exact ⟨_, State.attemptFails_verify hx hk hjobs _, hrun⟩
  · rw [if_neg hstep] at hrun ⊢
    exact ⟨_, State.attemptFails_endRead hjobs (.inr ⟨rfl, rfl, hx, hk⟩), hrun⟩

/-- The commands of `FailsAttempt` fail the attempt of the copy. -/
theorem failsAttempt_exec {i : Instr} {detail : Detail} {sum : Option ClosedSum} (h : FailsAttempt s d c x k i detail sum)
    (hab : (s.dest d).abandoned = false) (hx : s.clip? c = some x) (hk : x.copies[d] = some k) :
    k.state.live = true ∧ ∃ u, s.AttemptFails d c x k sum u ∧ exec i s = event (runFailAttempt c d detail u) := by
  cases h with
  | write cmd w i rest serves _ _ hserves ho hq hst hjobs hcmd =>
    refine ⟨by rw [hst]; rfl, _, State.attemptFails_write hx hk hjobs, ?_⟩
    rcases hcmd with ⟨rfl, rfl⟩ | ⟨rfl, rfl, hr⟩
    · rw [exec_driveFail, onResponse_of_outstanding ho hab, failFor_write hserves]
    · rw [exec_driveRetry, onResponse_of_outstanding ho hab]
      have hw : writeRetry d w ⟨cmd, serves⟩ (s.quiet.setDest d (cleared (s.dest d)))
          = failFor d .driveRetry ⟨cmd, serves⟩ (s.quiet.setDest d (cleared (s.dest d))) := by
        unfold writeRetry State.headRetries
        rw [State.dest_setDest_self, queue_cleared, hq]
        exact if_neg (by simp [hr, retryLimit])
      rw [← failFor_write (cmd := cmd) hserves, ← hw]
      rcases hserves with ⟨n, rfl⟩ | rfl <;> rfl
  | verify cmd step r _ _ ho hjobs hact hst hcmd =>
    obtain ⟨u, hu, hrun⟩ := readFailed_verify hx hk hjobs hact detail
    refine ⟨by rw [hst]; rfl, u, hu, ?_⟩
    rw [← hrun]
    let s0 := s.quiet.setDest d (cleared (s.dest d))
    have hself : s0.dest d = cleared (s.dest d) := State.dest_setDest_self s.quiet d _
    rcases hcmd with ⟨rfl, rfl⟩ | ⟨rfl, rfl, hr⟩ | ⟨bytes, rfl, rfl, hread, hlen⟩
    · rw [exec_driveFail, onResponse_of_outstanding ho hab]; rfl
    · rw [exec_driveRetry, onResponse_of_outstanding ho hab]
      have hretry : readRetry d cmd s0 = readFailed d .driveRetry s0 := by
        simp only [readRetry, hself, show (cleared (s.dest d)).rl = (s.dest d).rl from rfl, hact]
        exact if_neg (by simp [hr, retryLimit])
      rw [← hretry]; rfl
    · rw [exec_driveDone_read ho hab, readDone, if_pos ⟨hread, hlen⟩]
  | readback cmd r u sum win bytes _ ho hjobs hact hst hread hlen hu hsum hwin hdis =>
    refine ⟨by rw [hst]; rfl, _, State.attemptFails_verify hx hk hjobs (some u.close), ?_⟩
    let s0 := s.quiet.setDest d (cleared (s.dest d))
    have hself : s0.dest d = cleared (s.dest d) := State.dest_setDest_self s.quiet d _
    have hdetail : verifyDetail c x k u.close bytes = some detail := by
      simp only [verifyDetail, hsum, hwin]
      rcases hdis with ⟨hno, rfl⟩ | ⟨h1, h2, htr, rfl⟩
      · rw [if_pos (by simpa [ClosedSum.agrees, ← not_and_or] using hno)]
      · rw [if_neg (by simp [ClosedSum.agrees, h1, h2]), if_pos]
        simpa using mt (trailerCheckComparesItsFields bytes c x.length sum win).1 htr
    rw [exec_driveDone_read ho hab, readDone_verify (s := s0) (fun _ => hlen) (by rw [hself]; exact hjobs) (by rw [hself]; exact hact)]
    change event (decideVerify d c bytes s0) = _
    rw [decideVerify, show s0.clip? c = some x from hx, State.copy_some_iff (s := s0).2 ⟨x, hx, hk⟩, hself,
      show (cleared (s.dest d)).rl.sum = some u from hu]
    dsimp only
    rw [hdetail]

/-! ### The failing copy withdrawn -/

/-- From `s` to `u` the copy of clip `c` on `d` became `q` and its work was withdrawn. -/
structure State.FailedCopy (s : State) (d : DestNo) (c : Nat) (x : Clip) (q : Copy) (u : State) : Prop where
  dest : ∀ e, (u.dest e).state = (s.dest e).state ∧ (u.dest e).binding = (s.dest e).binding ∧ (u.dest e).rl.jobs = []
    ∧ (u.dest e).lane = (s.dest e).lane.left (onlyCopy c d · e)
    ∧ (∀ w, (u.dest e).queue w = ((s.dest e).queue w).filter fun i => !onlyCopy c d i.clip e)
    ∧ (u.dest e).arb.lock = (s.dest e).arb.lock.filter fun l => !onlyCopy c d l.2 e
  clip : ∀ b, u.clip? b = if b = c then some { x with copies := x.copies.set d (some q) } else s.clip? b
  jobs : u.jobs = s.jobs
  freeList : u.ring.freeList = s.ring.freeList
  plan : u.plan = s.plan
  manifest : u.manifest = s.manifest
  faults : u.faults = s.faults

theorem State.AttemptFails.rest {sum : Option ClosedSum} {u : State} (h : s.AttemptFails d c x k sum u) (hrest : OthersAtRest s c d) :
    u.ReadsRest := fun e => by
  by_cases he : e = d
  · obtain ⟨a, rl, hd, hrl⟩ := h.dest
    rw [he, hd]; exact hrl
  · rw [h.others e he]; exact hrest.1 e he

/-- With every slot needed elsewhere a copy that leaves frees none. -/
theorem State.Leaves.orphansSince_nil {u t : State} (h : u.Leaves (onlyCopy c d) t)
    (hneed : ∀ m y, (m, y) ∈ u.ring.held →
      (y.state = .staged → y.clip = c → ∃ f ∈ y.pending, f ≠ d)
        ∧ (y.state = .filling → ∀ f, y.owner = .lane f → ∃ i ∈ (u.dest f).cq, i.kind = .data m ∧ ¬(i.clip = c ∧ f = d))) :
    t.orphansSince u = [] := by
  rw [List.eq_nil_iff_forall_not_mem]
  intro n hn
  obtain ⟨ht, hu⟩ := State.mem_orphansSince.1 hn
  obtain ⟨z, hz, ho⟩ := State.mem_orphans_iff.1 ht
  rw [h.held] at hz
  obtain ⟨⟨m, y⟩, hy, hzy⟩ := List.mem_map.1 hz
  obtain ⟨rfl, rfl⟩ := Prod.mk.inj hzy
  obtain ⟨hstaged, hfilling⟩ := hneed m y hy
  cases hst : y.state with
  | staged =>
    have hleft : y.left (onlyCopy c d) = { y with pending := y.pending.filter fun e => !onlyCopy c d y.clip e } := if_pos hst
    have hempty : (y.pending.filter fun e => !onlyCopy c d y.clip e) = [] := by
      simpa [hleft, State.orphaned, hst] using ho
    by_cases hc : y.clip = c
    · obtain ⟨f, hf, hfd⟩ := hstaged hst hc
      have : f ∈ y.pending.filter fun e => !onlyCopy c d y.clip e := List.mem_filter.2 ⟨hf, by simp [onlyCopy, hfd]⟩
      rw [hempty] at this
      cases this
    · rw [List.filter_eq_self.2 fun e _ => by simp [onlyCopy, hc]] at hempty
      exact hu (State.mem_orphans_iff.2 ⟨y, hy, by simp [State.orphaned, hst, hempty]⟩)
  | filling =>
    have hleft : y.left (onlyCopy c d) = y := if_neg (by rw [hst]; decide)
    rw [show (m, y).2.left (onlyCopy c d) = y from hleft] at ho
    cases hown : y.owner with
    | job j => rw [State.orphaned, hst, hown] at ho; cases ho
    | lane f =>
      obtain ⟨i, hi, hkind, hother⟩ := hfilling hst f hown
      obtain ⟨a, hd⟩ := h.dest f
      have hnames : t.laneNames f m = true := by
        rw [State.laneNames, hd, List.any_eq_true]
        exact ⟨i, List.mem_filter.2 ⟨hi, by simpa [onlyCopy, imp_iff_not_or] using hother⟩, by simp [Item.names, hkind]⟩
      rw [State.orphaned, hst, hown] at ho
      simp [hnames] at ho

theorem State.AttemptFails.withdrawn {sum : Option ClosedSum} {u : State} (h : s.AttemptFails d c x k sum u)
    (hrest : OthersAtRest s c d) {u1 : State} {q : Copy} (hd1 : ∀ e, u1.dest e = u.dest e)
    (hclip1 : ∀ b, u1.clip? b = if b = c then some { x with copies := x.copies.set d (some q) } else s.clip? b)
    (hsame : u1.jobs = u.jobs ∧ u1.ring = u.ring ∧ u1.plan = u.plan ∧ u1.manifest = u.manifest ∧ u1.faults = u.faults) :
    s.FailedCopy d c x q (u1.withdrawCopy c d) ∧ (u1.withdrawCopy c d).orphansSince u = [] := by
  obtain ⟨hjobs, hring, hplan, hman, hfaults⟩ := hsame
  have hrest1 : u1.ReadsRest := fun e => by rw [hd1]; exact h.rest hrest e
  obtain ⟨hleaves, hclips⟩ := State.withdrawCopy_leaves hrest1 c d
  have hcq (e : DestNo) : (u1.dest e).cq = (s.dest e).cq := by
    rw [hd1]
    by_cases he : e = d
    · obtain ⟨a, rl, hd, -⟩ := h.dest
      rw [he, hd]; rfl
    · rw [h.others e he]
  have horphans : u1.orphans = u.orphans := by
    have ho (n : Nat) (y : Slot) : u1.orphaned n y = u.orphaned n y := by
      simp only [State.orphaned, State.laneNames, hd1]
    simp only [State.orphans, hring, ho]
  have hnil := hleaves.orphansSince_nil fun m y hy => by
    rw [hring, h.ring] at hy
    obtain ⟨hstaged, hfilling⟩ := hrest.2 m y hy
    exact ⟨hstaged, fun hst f hf => by rw [hcq]; exact hfilling hst f hf⟩
  refine ⟨⟨fun e => ?_, fun b => (State.clip_congr hclips b).trans (hclip1 b), ?_, ?_, ?_, ?_, ?_⟩, ?_⟩
  · obtain ⟨a, hd⟩ := hleaves.dest e
    have hsame : (u1.dest e).state = (s.dest e).state ∧ (u1.dest e).binding = (s.dest e).binding
        ∧ (u1.dest e).lane = (s.dest e).lane ∧ (u1.dest e).wq = (s.dest e).wq ∧ (u1.dest e).cq = (s.dest e).cq
        ∧ (u1.dest e).arb.lock = (s.dest e).arb.lock := by
      rw [hd1]
      by_cases he : e = d
      · obtain ⟨a, rl, hd, -⟩ := h.dest
        rw [he, hd]; exact ⟨rfl, rfl, rfl, rfl, rfl, rfl⟩
      · rw [h.others e he]; exact ⟨rfl, rfl, rfl, rfl, rfl, rfl⟩
    obtain ⟨hst, hb, hl, hwq, hcq, hlock⟩ := hsame
    have hqueue (w : Writer) : (u1.dest e).queue w = (s.dest e).queue w := by cases w <;> simp only [DestPort.queue, hwq, hcq]
    refine ⟨by rw [hd]; exact hst, by rw [hd]; exact hb, by rw [hd]; exact hrest1 e, ?_, fun w => ?_, ?_⟩
    · rw [hd, ← hl]; rfl
    · rw [hd, DestPort.queue_left, hqueue]
    · rw [hd, ← hlock]; rfl
  · exact (hleaves.jobs.trans hjobs).trans h.jobs
  · rw [hleaves.freeList, hring, h.ring]
  · exact (hleaves.plan.trans hplan).trans h.plan
  · exact (hleaves.manifest.trans hman).trans h.manifest
  · exact (hleaves.faults.trans hfaults).trans h.faults
  · rw [State.orphansSince, ← horphans]
    exact hnil

/-- A failed attempt 1: its copy withdrawn, to be queued again. -/
theorem State.AttemptFails.repairs {sum : Option ClosedSum} {u : State} (h : s.AttemptFails d c x k sum u)
    (hrest : OthersAtRest s c d) (hlive : k.state.live = true) (hatt : k.attempt = 1) (detail : Detail) :
    ∃ t, s.FailedCopy d c x { k with readback := sum } t ∧ runFailAttempt c d detail u
      = t.andNow [.freeSlots [], .raise ⟨.copyRepair, some x.job, some c, some d, none, detail⟩, .requeue c d] := by
  obtain ⟨hu, hnil⟩ := h.withdrawn hrest (u1 := u) (q := { k with readback := sum }) (fun _ => rfl) h.clip ⟨rfl, rfl, rfl, rfl, rfl⟩
  refine ⟨_, hu, ?_⟩
  have hx1 := (h.clip c).trans (if_pos rfl)
  have hk1 : u.copy? c d = some { k with readback := sum } := State.copy_some_iff.2 ⟨_, hx1, by simp⟩
  have hfault : copyFault .copyRepair c d detail u = ⟨.copyRepair, some x.job, some c, some d, none, detail⟩ := by
    simp only [copyFault, State.jobOfClip, hx1, Option.map_some]
  simp only [runFailAttempt, hk1, hlive, hatt, if_true, hnil, hfault]
  rfl

/-- A failed attempt 2: its copy FAILED and withdrawn, spares to be enlisted. -/
theorem State.AttemptFails.gives_up {sum : Option ClosedSum} {u : State} (h : s.AttemptFails d c x k sum u)
    (hrest : OthersAtRest s c d) (hlive : k.state.live = true) (hatt : k.attempt = 2) (detail : Detail) :
    ∃ t, s.FailedCopy d c x { k with state := .failed, readback := sum } t ∧ runFailAttempt c d detail u
      = ⟨t, [.freeSlots [], .raise ⟨.copyFailed, some x.job, some c, some d, none, detail⟩, .enlist c], [.laneGo d]⟩ := by
  have hx1 := (h.clip c).trans (if_pos rfl)
  have hk1 : u.copy? c d = some { k with readback := sum } := State.copy_some_iff.2 ⟨_, hx1, by simp⟩
  obtain ⟨hu, hnil⟩ := h.withdrawn hrest (u1 := u.modCopy c d fun k => { k with state := .failed })
    (q := { k with state := .failed, readback := sum }) (fun e => State.dest_modCopy u c d _ e) (fun b => by
      rw [State.modCopy_of_some (k := { k with readback := sum }) hx1 (by simp), State.clip_setClip, h.clip]
      simp only [Vector.set_set]
      split_ifs <;> rfl) ⟨State.modCopy_jobs .., State.modCopy_ring .., State.modCopy_plan .., State.modCopy_manifest ..,
        State.modCopy_faults ..⟩
  refine ⟨_, hu, ?_⟩
  have hfault : copyFault .copyFailed c d detail u = ⟨.copyFailed, some x.job, some c, some d, none, detail⟩ := by
    simp only [copyFault, State.jobOfClip, hx1, Option.map_some]
  have hne : ¬(k.attempt = 1) := by rw [hatt]; decide
  simp only [runFailAttempt, hk1, hlive, hne, if_true, if_false, hnil, hfault]

/-! ### A failed attempt 1 becomes a repair (O29) -/

theorem Lane.left_of_not {l : Lane} {gone : Nat → Bool} (hcur : ∀ b, l.current = some b → gone b = false)
    (hcopies : ∀ b ∈ l.copies, gone b = false) : l.left gone = l := by
  have hc : l.current.any gone = false := by
    cases h : l.current with
    | none => rfl
    | some b => exact hcur b h
  have hf : (l.copies.filter fun b => !gone b) = l.copies := List.filter_eq_self.2 fun b hb => by simp [hcopies b hb]
  simp [Lane.left, hc, hf]

/-- From `s` to `t` the copy of clip `c` on `d` was QUEUED again as a repair, behind the copies of its lane, and `o` taken. -/
structure State.Requeued (s : State) (d : DestNo) (c : Nat) (x : Clip) (o : Occurrence) (t : State) : Prop where
  clip : ∀ b, t.clip? b = if b = c then some { x with copies := x.copies.set d (some (Copy.fresh .queued .repair 2)) } else s.clip? b
  lane : (t.dest d).lane = { (s.dest d).lane with copies := (s.dest d).lane.copies ++ [c] }
  readJobs : (t.dest d).rl.jobs = []
  binding : (t.dest d).binding = (s.dest d).binding
  queue : ∀ w, ∀ i ∈ (t.dest d).queue w, i.clip ≠ c
  lock : ∀ v, (t.dest d).arb.lock ≠ some (v, c)
  faults : t.faults = s.faults.take o
  plan : t.plan = s.plan
  manifest : t.manifest = s.manifest
  freeList : t.ring.freeList = s.ring.freeList

theorem State.FailedCopy.requeued {q : Copy} {t : State} (h : s.FailedCopy d c x q t) (o : Occurrence)
    (hcur : (s.dest d).lane.current ≠ some c) (hnot : c ∉ (s.dest d).lane.copies)
    (hgo : ∀ v : State, (v.dest d).lane = { (s.dest d).lane with copies := (s.dest d).lane.copies ++ [c] } →
      v.clipState? c = some x.state → runLaneGo d v = v.still) :
    ∃ u, event (t.andNow [.freeSlots [], .raise o, .requeue c d]) = .next u ∧ s.Requeued d c x o u := by
  let t1 := t.raise o
  let t2 := (t1.setCopy c d (Copy.fresh .queued .repair 2)).joinLane c d
  have hclip1 (b : Nat) : t1.clip? b = t.clip? b := State.clip_congr (t.raise_clips o) b
  have hx1 : t1.clip? c = some { x with copies := x.copies.set d (some q) } := (hclip1 c).trans ((h.clip c).trans (if_pos rfl))
  have hrequeue : runRequeue c d t1 = ⟨t2, [.settle x.job], [.laneGo d]⟩ := by
    simp only [runRequeue, State.copy_some_iff.2 ⟨_, hx1, Vector.getElem_set_self _⟩, State.settleOf, State.jobOfClip, hx1,
      Option.map_some, Option.toList_some, List.map_cons, List.map_nil, t2]
  have hclip2 (b : Nat) : t2.clip? b = if b = c then
      some { x with copies := x.copies.set d (some (Copy.fresh .queued .repair 2)) } else s.clip? b := by
    change (t1.setCopy c d _).clip? b = _
    rw [State.clip_setCopy, hx1, hclip1, h.clip]
    simp only [Option.map_some, Vector.set_set]
    split_ifs <;> rfl
  obtain ⟨-, hbind, hreads, hlane, hqueue, hlock⟩ := h.dest d
  have hlane' : (t.dest d).lane = (s.dest d).lane := hlane.trans <| Lane.left_of_not
    (fun b hb => by simpa [onlyCopy_here] using fun hc : b = c => hcur (hc ▸ hb)) fun b hb => by
      simpa [onlyCopy_here] using fun hc : b = c => hnot (hc ▸ hb)
  have hdest2 : t2.dest d = { t.dest d with lane := { (s.dest d).lane with copies := (s.dest d).lane.copies ++ [c] } } := by
    have hd1 : (t1.setCopy c d (Copy.fresh .queued .repair 2)).dest d = t.dest d :=
      (State.dest_setCopy ..).trans (t.dest_raise o d)
    simp only [t2, State.joinLane]
    rw [State.dest_modLane, if_pos rfl, hd1, hlane']
    simp [hnot]
  have hbooks2 : t2.faults = t1.faults ∧ t2.manifest = t1.manifest ∧ t2.ring = t1.ring := by simp [t2]
  obtain ⟨hfaults2, hman2, hring2⟩ := hbooks2
  obtain ⟨st, u, -, hto, hsettle⟩ := effects_settle t2 x.job
  have hdestu : u.dest d = t2.dest d := State.dest_congr hto.dests d
  have hclipu (b : Nat) : u.clip? b = t2.clip? b := State.clip_congr hto.clips b
  have hlast : runLaneGo d u = u.still := hgo u (by rw [hdestu, hdest2])
    (by rw [State.clipState?, hclipu, hclip2, if_pos rfl]; rfl)
  have heff : effects false 6 [.freeSlots [], .raise o, .requeue c d] t = some u := by
    refine (effects_still (a := .freeSlots []) (n := 5) rfl rfl).trans ?_
    refine (effects_still (a := .raise o) (n := 4) (t := t1) rfl rfl).trans ?_
    rw [effects_cons (t := .requeue c d) hrequeue rfl]
    exact hsettle (n := 1) ((effects_still (a := .laneGo d) hlast rfl).trans (effects_nil _ _))
  obtain ⟨w, hw, halike, -⟩ := event_of_effects (w := t.andNow [.freeSlots [], .raise o, .requeue c d]) (answers := false) (n := 6)
    (by omega) heff
  have hends : u.Ends w := halike.ends
  have hclipw (b : Nat) := (hends.clip b).trans ((hclipu b).trans (hclip2 b))
  have hqueue2 (v : Writer) : (w.dest d).queue v = ((s.dest d).queue v).filter fun i => !onlyCopy c d i.clip d := by
    rw [hends.queue, hdestu, hdest2, ← hqueue]
    cases v <;> rfl
  refine ⟨w, hw, hclipw, ?_, ?_, ?_, fun v i hi => ?_, fun v hv => ?_, ?_, ?_, ?_, ?_⟩
  · rw [hends.lane, hdestu, hdest2]
  · rw [hends.readJobs, hdestu, hdest2]; exact hreads
  · rw [hends.binding, hdestu, hdest2]; exact hbind
  · rw [hqueue2, List.mem_filter, onlyCopy_here] at hi
    simpa using hi.2
  · rw [hends.lock, hdestu, hdest2] at hv
    rw [hlock, Option.filter_eq_some_iff, onlyCopy_here] at hv
    simp at hv
  · exact hends.faults.trans (hto.faults.trans (hfaults2.trans ((t.raise_faults o).trans (by rw [h.faults]))))
  · exact halike.plan.2.trans h.plan
  · exact hends.manifest.trans (hto.manifest.trans (hman2.trans ((t.raise_manifest o).trans h.manifest)))
  · rw [hends.ring, hto.ring, hring2]
    exact (t.raise_freeList o).trans h.freeList

end

theorem failedWriteBecomesARepair : FailedWriteBecomesARepair := by
  intro s d cmd w c n x k ho hab hx hk hst hatt hreading hrun hidle hjobs hrest
  obtain ⟨hcopies, hcur⟩ := hidle d
  obtain ⟨t, ht, hfail⟩ := (State.attemptFails_write hx hk hjobs).repairs hrest (by rw [hst]; rfl) hatt .driveFail
  obtain ⟨u, hu, hre⟩ := ht.requeued ⟨.copyRepair, some x.job, some c, some d, none, .driveFail⟩ (by rw [hcur]; simp) (by rw [hcopies]; simp)
    fun v hlane hclip => by
      rw [hcopies] at hlane
      have : ([c].find? fun b => (v.clipState? b).any ClipState.supplied) = none := by simp [hclip, hreading, ClipState.supplied]
      simp only [runLaneGo, hlane, hcur, List.nil_append, this]
      split <;> rfl
  have hexec : exec (.driveFail d) s = .next u := by
    rw [exec_driveFail, onResponse_of_outstanding ho hab, failFor_write (.inl ⟨n, rfl⟩), hfail, hu]
  refine ⟨u, hexec, State.copy_some_iff.2 ⟨_, (hre.clip c).trans (if_pos rfl), Vector.getElem_set_self _⟩, ?_, hre.binding, hre.queue,
    hre.lock, hre.faults, fun b hb => (hre.clip b).trans (if_neg hb), hre.plan, hre.manifest, hre.freeList⟩
  rw [hre.lane, hcopies]; rfl

theorem failedAttemptBecomesARepair : FailedAttemptBecomesARepair := by
  intro s d c x k i detail sum hfails hab hx hk hatt hwaits hrest
  obtain ⟨b, hcur, hbc, -, hstand, hnot⟩ := hwaits
  obtain ⟨hlive, u, hu, hexec⟩ := failsAttempt_exec hfails hab hx hk
  obtain ⟨t, ht, hfail⟩ := hu.repairs hrest hlive hatt detail
  obtain ⟨v, hv, hre⟩ := ht.requeued ⟨.copyRepair, some x.job, some c, some d, none, detail⟩ (by rw [hcur]; simpa using hbc) hnot
    fun v hlane _ => runLaneGo_standing (c := b) (by rw [hlane]; exact hcur) (by rw [hlane]; exact hstand)
  refine ⟨v, by rw [hexec, hfail, hv], State.copy_some_iff.2 ⟨_, (hre.clip c).trans (if_pos rfl), Vector.getElem_set_self _⟩, hre.lane,
    hre.readJobs, hre.binding, hre.queue, hre.lock, hre.faults, fun b e hbe => ?_, hre.plan, hre.manifest, hre.freeList⟩
  rw [State.copy?, hre.clip]
  split_ifs with hb
  · subst hb
    have hed : e ≠ d := fun he => hbe ⟨rfl, he⟩
    rw [State.copy?, hx]
    exact (Vector.getElem_set_fin x.copies d e _).trans (if_neg hed)
  · rfl

/-- Settles O29: what fails the attempt, the copy withdrawn without a slot to free, and the repair at its lane's tail. -/
theorem failedAttemptsBecomeRepairs : Obligations.FailedAttemptsBecomeRepairs :=
  ⟨failedWriteBecomesARepair, failedAttemptBecomesARepair⟩

end Sys2Proof.Machine

/-! Spares enlisted, and the end of a failed repair (R119, R128; O30). -/

namespace Sys2Proof.Machine

/-! ### Spare enlistment -/

theorem mayEnlist_iff (s : State) (x : Clip) (e : DestNo) : mayEnlist s x e = true ↔ Qualifies s x e := by
  simp only [mayEnlist, Qualifies, State.isActive, Bool.and_eq_true, decide_eq_true_eq]
  refine and_congr_right fun _ => ?_
  cases hk : x.copies[e] with
  | none => simp
  | some k => simp

theorem Clip.liveOrVerified_eq (x : Clip) : x.liveOrVerified = (allDests.filter fun e => match x.copies[e] with
    | some k => decide (k.state ≠ .noSpace ∧ k.state ≠ .failed ∧ k.state ≠ .aborted)
    | none => false).length := by
  refine congrArg List.length (List.filter_congr fun e _ => ?_)
  cases x.copies[e] with
  | none => rfl
  | some k => cases hst : k.state <;> simp [hst, CopyState.live]

/-- A copy that comes to count. -/
theorem Clip.length_destsWith_set {x : Clip} {e : DestNo} {p : Copy → Bool} {q : Copy} (hno : (x.copies[e]).any p = false)
    (hq : p q = true) : (x.destsWith p).length + 1 ≤ (({ x with copies := x.copies.set e (some q) } : Clip).destsWith p).length := by
  have he : e ∉ x.destsWith p := fun h => by
    obtain ⟨k, hk, hp⟩ := Clip.mem_destsWith.1 h
    rw [hk, Option.any_some, hp] at hno
    cases hno
  refine (List.subperm_of_subset (List.nodup_cons.2 ⟨he, x.destsWith_nodup _⟩) fun f hf => ?_).length_le
  rw [Clip.mem_destsWith, Vector.getElem_set_fin]
  rcases List.mem_cons.1 hf with rfl | hold
  · exact ⟨q, if_pos rfl, hq⟩
  · obtain ⟨k, hk, hp⟩ := Clip.mem_destsWith.1 hold
    exact ⟨k, (if_neg fun h : f = e => he (h ▸ hold)).trans hk, hp⟩

section

variable {s : State} {c r : Nat} {x : Clip} {e : DestNo}

theorem enlistAt_still (hx : s.clip? c = some x) (h : ¬(x.liveOrVerified < r ∧ Qualifies s x e)) : enlistAt c r s e = s := by
  rw [← mayEnlist_iff] at h
  simp only [enlistAt, hx]
  exact if_neg (by simpa using h)

/-- From `s` to `t` the clip (record `x`) got a copy on `e`, QUEUED as a spare behind the copies of its lane. -/
structure State.EnlistsAt (s : State) (c : Nat) (x : Clip) (e : DestNo) (t : State) : Prop where
  clip : ∀ b, t.clip? b = if b = c then some { x with copies := x.copies.set e (some (Copy.fresh .queued .spare 1)) } else s.clip? b
  dest : ∀ f, t.dest f = if f = e then { s.dest e with lane := { (s.dest e).lane with
    copies := if c ∈ (s.dest e).lane.copies then (s.dest e).lane.copies else (s.dest e).lane.copies ++ [c] } } else s.dest f
  ports : t.ports = s.ports
  jobs : t.jobs = s.jobs
  ring : t.ring = s.ring
  plan : t.plan = s.plan
  manifest : t.manifest = s.manifest
  faults : t.faults = s.faults

theorem enlistAt_taken (hx : s.clip? c = some x) (hlt : x.liveOrVerified < r) (hq : Qualifies s x e) :
    s.EnlistsAt c x e (enlistAt c r s e) := by
  have hrun : enlistAt c r s e = (s.setCopy c e (Copy.fresh .queued .spare 1)).joinLane c e := by
    simp only [enlistAt, hx]
    exact if_pos (by simpa using ⟨hlt, (mayEnlist_iff s x e).2 hq⟩)
  rw [hrun]
  refine ⟨fun b => ?_, fun f => ?_, by simp, by simp, by simp, by simp, by simp, by simp⟩
  · change (s.setCopy c e _).clip? b = _
    rw [State.clip_setCopy, hx]; rfl
  · simp only [State.joinLane]
    rw [State.dest_modLane, State.dest_setCopy, State.dest_setCopy]
    simp only [List.contains_iff_mem]
    split_ifs <;> rfl

/-- What enlistment at these spares may do. -/
structure State.Enlists (s : State) (c r : Nat) (x : Clip) (l : List DestNo) (t : State) : Prop where
  changed : ∀ b f, t.copy? b f ≠ s.copy? b f → b = c ∧ f ∈ l ∧ Qualifies s x f ∧ x.liveOrVerified < r
    ∧ t.copy? b f = some (Copy.fresh .queued .spare 1)
  clip : ∀ b, b ≠ c → t.clip? b = s.clip? b
  dest : ∀ f, ∃ copies, t.dest f = { s.dest f with lane := { (s.dest f).lane with copies := copies } }
  ports : t.ports = s.ports
  jobs : t.jobs = s.jobs
  ring : t.ring = s.ring
  plan : t.plan = s.plan
  manifest : t.manifest = s.manifest
  faults : t.faults = s.faults

theorem State.Enlists.refl (s : State) (c r : Nat) (x : Clip) (l : List DestNo) : s.Enlists c r x l s :=
  ⟨fun _ _ h => absurd rfl h, fun _ _ => rfl, fun _ => ⟨_, rfl⟩, rfl, rfl, rfl, rfl, rfl, rfl⟩

/-- A copy just enlisted does not qualify again. -/
theorem not_qualifies_enlisted (t : State) (x : Clip) (e : DestNo) :
    ¬Qualifies t { x with copies := x.copies.set e (some (Copy.fresh .queued .spare 1)) } e := fun hq => by
  have := hq.2 (Copy.fresh .queued .spare 1) ((Vector.getElem_set_fin x.copies e e _).trans (if_pos rfl))
  simp [Copy.fresh] at this

theorem State.EnlistsAt.copy {t : State} (h : s.EnlistsAt c x e t) (hx : s.clip? c = some x) (b : Nat) (f : DestNo) :
    t.copy? b f = if b = c ∧ f = e then some (Copy.fresh .queued .spare 1) else s.copy? b f := by
  rw [State.copy?, h.clip]
  by_cases hb : b = c
  · subst hb
    rw [if_pos rfl, State.copy?, hx]
    refine (Vector.getElem_set_fin x.copies e f _).trans ?_
    simp
  · rw [if_neg hb, if_neg fun h => hb h.1]; rfl

theorem foldl_enlistAt (l : List DestNo) (hx : s.clip? c = some x) : s.Enlists c r x l (l.foldl (enlistAt c r) s) := by
  induction l generalizing s x with
  | nil => exact .refl s c r x []
  | cons e l ih =>
    rw [List.foldl_cons]
    by_cases htake : x.liveOrVerified < r ∧ Qualifies s x e
    · obtain ⟨hlt, hq⟩ := htake
      have h1 := enlistAt_taken hx hlt hq
      have h2 := ih ((h1.clip c).trans (if_pos rfl))
      refine ⟨fun b f hne => ?_, fun b hb => (h2.clip b hb).trans ((h1.clip b).trans (if_neg hb)), fun f => ?_,
        h2.ports.trans h1.ports, h2.jobs.trans h1.jobs, h2.ring.trans h1.ring, h2.plan.trans h1.plan, h2.manifest.trans h1.manifest,
        h2.faults.trans h1.faults⟩
      · by_cases hsame : ((l.foldl (enlistAt c r) (enlistAt c r s e)).copy? b f = (enlistAt c r s e).copy? b f)
        · rw [hsame, h1.copy hx] at hne ⊢
          by_cases hbf : b = c ∧ f = e
          · obtain ⟨rfl, rfl⟩ := hbf
            exact ⟨rfl, List.mem_cons_self, hq, hlt, if_pos ⟨rfl, rfl⟩⟩
          · rw [if_neg hbf] at hne
            exact absurd rfl hne
        · obtain ⟨rfl, hf, hqf, -, hfresh⟩ := h2.changed b f hsame
          have hfe : f ≠ e := by rintro rfl; exact not_qualifies_enlisted _ _ _ hqf
          refine ⟨rfl, List.mem_cons_of_mem _ hf, ⟨?_, fun k hk => hqf.2 k ?_⟩, hlt, hfresh⟩
          · have := hqf.1
            rwa [h1.dest, if_neg hfe] at this
          · exact (Vector.getElem_set_fin x.copies e f _).trans ((if_neg hfe).trans hk)
      · obtain ⟨cs, hcs⟩ := h2.dest f
        by_cases hf : f = e
        · subst hf
          exact ⟨cs, by rw [hcs, h1.dest, if_pos rfl]⟩
        · exact ⟨cs, by rw [hcs, h1.dest, if_neg hf]⟩
    · rw [enlistAt_still hx htake]
      have h2 := ih hx
      refine { h2 with changed := fun b f hne => ?_ }
      obtain ⟨hb, hf, h⟩ := h2.changed b f hne
      exact ⟨hb, List.mem_cons_of_mem _ hf, h⟩

/-- Where no spare is wanted, or none qualifies, none is enlisted. -/
theorem foldl_enlistAt_still {l : List DestNo} (hx : s.clip? c = some x) (h : r ≤ x.liveOrVerified ∨ ∀ e ∈ l, ¬Qualifies s x e) :
    l.foldl (enlistAt c r) s = s := by
  induction l with
  | nil => rfl
  | cons e l ih =>
    rw [List.foldl_cons, enlistAt_still hx (fun ⟨hlt, hq⟩ => h.elim (fun hr => absurd hlt (Nat.not_lt.2 hr))
      fun hno => hno e List.mem_cons_self hq)]
    exact ih (h.imp_right fun hno f hf => hno f (List.mem_cons_of_mem _ hf))

end

theorem enlistmentTakesQualifyingSpares : EnlistmentTakesQualifyingSpares := by
  intro s c x snap hx hsnap
  have hcount := x.liveOrVerified_eq
  intro t count
  change x.liveOrVerified = count at hcount
  rw [← hcount]
  by_cases hst : x.state = .reading ∨ x.state = .read
  · have ht : t = snap.spares.foldl (enlistAt c snap.r) s := by
      change (runEnlist c s).state = _
      simp only [runEnlist, hx, hsnap, if_pos hst]
    have h := foldl_enlistAt (r := snap.r) snap.spares hx
    rw [← ht] at h
    refine ⟨fun b e hne => ?_, fun _ hlt e before after hl hq hbefore => ?_, h.ring, h.jobs, h.ports, h.faults⟩
    · obtain ⟨hb, he, hq, hlt, hfresh⟩ := h.changed b e hne
      exact ⟨hb, he, hq, hst, hlt, hfresh⟩
    · have h1 := enlistAt_taken hx hlt hq
      have h2 := foldl_enlistAt (r := snap.r) after ((h1.clip c).trans (if_pos rfl))
      have hfold : t = after.foldl (enlistAt c snap.r) (enlistAt c snap.r s e) := by
        rw [ht, hl, List.foldl_append, List.foldl_cons, foldl_enlistAt_still hx (.inr hbefore)]
      rw [← hfold] at h2
      have hfresh : t.copy? c e = some (Copy.fresh .queued .spare 1) := by
        by_contra hne
        have h1e := (h1.copy hx c e).trans (if_pos ⟨rfl, rfl⟩)
        exact not_qualifies_enlisted _ _ _ (h2.changed c e fun h => hne (h.trans h1e)).2.2.1
      rw [hfresh]
      intro hsame
      obtain ⟨y, hy, hk⟩ := State.copy_some_iff.1 hsame.symm
      obtain rfl := Option.some.inj (hx.symm.trans hy)
      simpa [Copy.fresh] using hq.2 _ hk
  · have ht : t = s := by
      change (runEnlist c s).state = _
      simp only [runEnlist, hx, hsnap, if_neg hst]
      rfl
    rw [ht]
    exact ⟨fun _ _ h => absurd rfl h, fun h => absurd h hst, rfl, rfl, rfl, rfl⟩

/-! ### A failed attempt 2 -/

/-- Raising a fault leaves every job's snapshot. -/
theorem State.raise_snapshot (s : State) (o : Occurrence) (j : JobNo) : ((s.raise o).job j).snapshot = (s.job j).snapshot := by
  by_cases hroute : s.faults.route o.cls = .hold
  · rw [State.raise_of_hold hroute, State.holdJobs_job, State.heldRecord]
    split_ifs <;> rfl
  · rw [State.job_congr (State.raise_of_not_hold hroute).1]

/-- The copies that count once the one on `d` is FAILED. -/
theorem Clip.liveOrVerified_failed (x : Clip) (d : DestNo) {q : Copy} (hq : q.state = .failed) :
    ({ x with copies := x.copies.set d (some q) } : Clip).liveOrVerified = liveOrVerifiedBeside x d := by
  rw [Clip.liveOrVerified_eq]
  refine congrArg List.length (List.filter_congr fun e _ => ?_)
  rw [show (x.copies.set d (some q))[e] = _ from Vector.getElem_set_fin x.copies d e _]
  by_cases he : e = d
  · simp [he, hq]
  · rw [if_neg he]
    cases x.copies[(e : Nat)] <;> simp [he]

/-- What is left by a failed attempt 2 before spares are enlisted. -/
structure State.GivenUp (s : State) (d : DestNo) (c : Nat) (x : Clip) (q : Copy) (o : Occurrence) (t : State) : Prop where
  clip : ∀ b, t.clip? b = if b = c then some { x with copies := x.copies.set d (some q) } else s.clip? b
  dest : ∀ e, (t.dest e).state = (s.dest e).state ∧ (t.dest e).rl.jobs = [] ∧ (t.dest e).lane = (s.dest e).lane
    ∧ ∀ w, (t.dest e).queue w = ((s.dest e).queue w).filter fun i => !onlyCopy c d i.clip e
  snapshot : ∀ j, (t.job j).snapshot = (s.job j).snapshot
  freeList : t.ring.freeList = s.ring.freeList
  plan : t.plan = s.plan
  manifest : t.manifest = s.manifest
  faults : t.faults = s.faults.take o

section

variable {s t : State} {d : DestNo} {c : Nat} {x : Clip} {q : Copy} {o : Occurrence}

theorem State.FailedCopy.givenUp (h : s.FailedCopy d c x q t) (hwaits : ∀ f, LaneWaits s c f) : s.GivenUp d c x q o (t.raise o) := by
  refine ⟨fun b => (State.clip_congr (t.raise_clips o) b).trans (h.clip b), fun e => ?_, fun j => ?_,
    (t.raise_freeList o).trans h.freeList, (t.raise_plan o).trans h.plan, (t.raise_manifest o).trans h.manifest,
    (t.raise_faults o).trans (by rw [h.faults])⟩
  · obtain ⟨hst, -, hreads, hlane, hqueue, -⟩ := h.dest e
    obtain ⟨b, hcur, hbc, -, -, hnot⟩ := hwaits e
    rw [t.dest_raise]
    refine ⟨hst, hreads, hlane.trans (Lane.left_of_not (fun b' hb => ?_) fun b' hb => ?_), hqueue⟩
    · obtain rfl := Option.some.inj (hcur.symm.trans hb)
      simp [onlyCopy, hbc]
    · have : b' ≠ c := by rintro rfl; exact hnot hb
      simp [onlyCopy, this]
  · rw [t.raise_snapshot, State.job_congr h.jobs]

theorem State.GivenUp.qualifies_iff (h : s.GivenUp d c x q o t) {e : DestNo} (he : e ≠ d) :
    Qualifies t { x with copies := x.copies.set d (some q) } e ↔ Qualifies s x e := by
  obtain ⟨hst, -⟩ := h.dest e
  rw [Qualifies, Qualifies, hst, show (x.copies.set d (some q))[e] = x.copies[e] from
    (Vector.getElem_set_fin x.copies d e _).trans (if_neg he)]

theorem State.GivenUp.copy (h : s.GivenUp d c x q o t) (f : DestNo) :
    t.copy? c f = if f = d then some q else x.copies[f] := by
  rw [State.copy?, h.clip, if_pos rfl]
  exact Vector.getElem_set_fin x.copies d f _

/-- Spares enlisted with every lane waiting for a slot. -/
theorem State.GivenUp.effects_enlist (h : s.GivenUp d c x q o t) (hstate : x.state = .read) {snap : Snapshot}
    (hsnap : (s.job x.job).snapshot = some snap) (hwaits : ∀ f, LaneWaits s c f) (hlen : snap.spares.length ≤ 4) :
    ∃ u, effects false 8 [.enlist c, .laneGo d] t = some u
      ∧ (snap.spares.foldl (enlistAt c snap.r) t).SettlesTo x.job (u.job x.job).state u := by
  have hx1 := (h.clip c).trans (if_pos rfl)
  let v := snap.spares.foldl (enlistAt c snap.r) t
  have hv : t.Enlists c snap.r _ snap.spares v := foldl_enlistAt snap.spares hx1
  have hrun : runEnlist c t = ⟨v, [.settle x.job], snap.spares.map .laneGo⟩ := by
    have hsnap1 : (t.job x.job).snapshot = some snap := (h.snapshot _).trans hsnap
    simp only [runEnlist, hx1, hsnap1]
    exact if_pos (.inr hstate)
  obtain ⟨st, u, -, hto, hsettle⟩ := effects_settle v x.job
  have hst : (u.job x.job).state = st := by rw [hto.job, if_pos rfl]
  refine ⟨u, ?_, by rw [hst]; exact hto⟩
  rw [effects_cons (t := .enlist c) hrun rfl]
  refine effects_mono (n := (d :: snap.spares).length + 2) (by simp; omega) ?_
  refine hsettle (effects_lanes_still (d :: snap.spares) fun f _ => ?_)
  obtain ⟨b, hcur, -, -, hstand, -⟩ := hwaits f
  obtain ⟨cs, hcs⟩ := hv.dest f
  obtain ⟨-, -, hlane, -⟩ := h.dest f
  have hlaneu : (u.dest f).lane = { (s.dest f).lane with copies := cs } := by
    rw [State.dest_congr hto.dests, hcs, hlane]
  exact runLaneGo_standing (c := b) (by rw [hlaneu]; exact hcur) (by rw [hlaneu]; exact hstand)

end

theorem failedRepairEnlistsASpare : FailedRepairEnlistsASpare := by
  intro s d c x k i detail sum snap hfails hab hx hk hatt hstate hsnap hwaits hrest hd hlen failed
  let o : Occurrence := ⟨.copyFailed, some x.job, some c, some d, none, detail⟩
  obtain ⟨hlive, s1, hs1, hexec⟩ := failsAttempt_exec hfails hab hx hk
  obtain ⟨s2, hs2, hfail⟩ := hs1.gives_up hrest hlive hatt detail
  let t := s2.raise o
  have ht : s.GivenUp d c x failed o t := hs2.givenUp hwaits
  obtain ⟨u, heff, hto⟩ := ht.effects_enlist hstate hsnap hwaits hlen
  let v := snap.spares.foldl (enlistAt c snap.r) t
  have hx1 := (ht.clip c).trans (if_pos rfl)
  have hv : t.Enlists c snap.r _ snap.spares v := foldl_enlistAt snap.spares hx1
  obtain ⟨w, hw, halike, -⟩ := event_of_effects (w := ⟨s2, [.freeSlots [], .raise o, .enlist c], [.laneGo d]⟩) (answers := false)
    (n := 10) (u := u) (by omega) (by
      refine (effects_still (a := .freeSlots []) (n := 9) rfl rfl).trans ?_
      exact (effects_still (a := .raise o) (n := 8) (t := t) rfl rfl).trans heff)
  have hends : u.Ends w := halike.ends
  have hclip (b : Nat) : w.clip? b = v.clip? b := (hends.clip b).trans (State.clip_congr hto.clips b)
  have hcopy (b : Nat) (f : DestNo) : w.copy? b f = v.copy? b f := by rw [State.copy?, hclip]; rfl
  have hlane (f : DestNo) : (w.dest f).lane = (v.dest f).lane := by rw [hends.lane, State.dest_congr hto.dests]
  have hbeside : ({ x with copies := x.copies.set d (some failed) } : Clip).liveOrVerified = liveOrVerifiedBeside x d :=
    x.liveOrVerified_failed d rfl
  have hspare {e : DestNo} (he : e ∈ snap.spares) : e ≠ d := by rintro rfl; exact hd he
  refine ⟨w, by rw [hexec, hfail, hw], ?self, ?faults, fun q z hz => ?queue, ?reads, ?free, fun b hb => ?clips, ?plan, ?manifest,
    fun e before after hshort hl hq hbefore => ?one, fun hnone => ?none⟩
  case self =>
    rw [hcopy]
    have hsame : v.copy? c d = t.copy? c d := by
      by_contra hne
      exact hd (hv.changed c d hne).2.1
    rw [hsame, ht.copy, if_pos rfl]
  case faults => exact hends.faults.trans (hto.faults.trans (hv.faults.trans ht.faults))
  case queue =>
    obtain ⟨cs, hcs⟩ := hv.dest d
    obtain ⟨-, -, -, hqueue⟩ := ht.dest d
    have hwq : (w.dest d).queue q = (t.dest d).queue q := by
      rw [hends.queue, State.dest_congr hto.dests, hcs]
      cases q <;> rfl
    rw [hwq, hqueue, List.mem_filter, onlyCopy_here] at hz
    simpa using hz.2
  case reads =>
    obtain ⟨cs, hcs⟩ := hv.dest d
    obtain ⟨-, hreads, -⟩ := ht.dest d
    rw [hends.readJobs, State.dest_congr hto.dests, hcs]
    exact hreads
  case free =>
    rw [hends.ring, hto.ring, hv.ring]
    exact ht.freeList
  case clips => exact (hclip b).trans ((hv.clip b hb).trans ((ht.clip b).trans (if_neg hb)))
  case plan => exact halike.plan.2.trans hs2.plan
  case manifest => exact hends.manifest.trans (hto.manifest.trans (hv.manifest.trans ht.manifest))
  case one =>
    have hed : e ≠ d := hspare (by rw [hl]; simp)
    have h1 : t.EnlistsAt c _ e (enlistAt c snap.r t e) :=
      enlistAt_taken hx1 (by rw [hbeside]; omega) ((ht.qualifies_iff hed).2 hq)
    have henough := Clip.length_destsWith_set (x := { x with copies := x.copies.set d (some failed) }) (e := e)
      (p := fun k => k.state.live || decide (k.state = .verified)) (q := Copy.fresh .queued .spare 1) (by
        rw [show (x.copies.set d (some failed))[e] = x.copies[e] from
          (Vector.getElem_set_fin x.copies d e _).trans (if_neg hed)]
        cases hk : x.copies[e] with
        | none => rfl
        | some k => rcases hq.2 k hk with h | h | h <;> simp [h, CopyState.live]) rfl
    have hvone : v = enlistAt c snap.r t e := by
      simp only [v]
      rw [hl, List.foldl_append, List.foldl_cons,
        foldl_enlistAt_still hx1 (.inr fun f hf => mt (ht.qualifies_iff (hspare (by rw [hl]; simp [hf]))).1 (hbefore f hf))]
      exact foldl_enlistAt_still ((h1.clip c).trans (if_pos rfl)) (.inl (le_trans (by
        rw [← hshort, ← hbeside]; exact le_rfl) henough))
    rw [← hvone] at h1
    obtain ⟨-, -, hlanee, -⟩ := ht.dest e
    obtain ⟨-, -, -, -, -, hnot⟩ := hwaits e
    refine ⟨?_, ?_, fun f hfd hfe => ?_⟩
    · rw [hcopy, h1.copy hx1, if_pos ⟨rfl, rfl⟩]; rfl
    · rw [hlane, h1.dest, if_pos rfl, hlanee, if_neg hnot]
    · rw [hcopy, h1.copy hx1, if_neg fun h => hfe h.2, ht.copy, if_neg hfd]
  case none =>
    have hvnone : v = t := foldl_enlistAt_still hx1 (by
      rw [hbeside]
      exact hnone.imp_right fun h e he => mt (ht.qualifies_iff (hspare he)).1 (h e he))
    refine ⟨fun f hf => ?_, fun f => ?_⟩
    · rw [hcopy, hvnone, ht.copy, if_neg hf]
    · obtain ⟨-, -, hlanef, -⟩ := ht.dest f
      rw [hlane, hvnone, hlanef]

/-- Settles O30: the copy given up, the one spare its clip is short of enlisted, and enlistment by itself. -/
theorem failedRepairsEnlistSpares : Obligations.FailedRepairsEnlistSpares :=
  ⟨failedRepairEnlistsASpare, enlistmentTakesQualifyingSpares⟩

end Sys2Proof.Machine

/-! The moves of a catch-up lane (R71, R87, R88, R120–R122, R125, R127; O42). -/

namespace Sys2Proof.Machine

/-! ### Which move it is -/

theorem supplied_iff (s : State) (c : Nat) : (s.clipState? c).any ClipState.supplied = true ↔ Supplied s c := by
  unfold Supplied
  cases hst : s.clipState? c with
  | none => simp
  | some st => cases st <;> simp [ClipState.supplied]

section

variable {s : State} {d : DestNo} {c : Nat} {x : Clip}

theorem runLaneGo_none (hcur : (s.dest d).lane.current = none) (hno : ∀ a ∈ (s.dest d).lane.copies, ¬Supplied s a) :
    runLaneGo d s = s.still := by
  have hfind : ((s.dest d).lane.copies.find? fun c => (s.clipState? c).any ClipState.supplied) = none :=
    List.find?_eq_none.2 fun a ha => mt (supplied_iff s a).1 (hno a ha)
  simp only [runLaneGo, hcur, hfind]
  split <;> rfl

theorem runLaneGo_takes (hu : InUse (s.dest d)) (hcur : (s.dest d).lane.current = none) {before after : List Nat}
    (hcopies : (s.dest d).lane.copies = before ++ c :: after) (hno : ∀ a ∈ before, ¬Supplied s a) (hc : Supplied s c) :
    runLaneGo d s = takeCopy d c s := by
  have hfind : ((s.dest d).lane.copies.find? fun c => (s.clipState? c).any ClipState.supplied) = some c :=
    List.find?_eq_some_iff_append.2 ⟨(supplied_iff s c).2 hc, before, after, hcopies, fun a ha => by
      simpa using mt (supplied_iff s a).1 (hno a ha)⟩
  simp only [runLaneGo, if_pos ((s.isServing_iff d).2 hu), hcur, hfind]

theorem runLaneGo_chooses (hu : InUse (s.dest d)) (hcur : (s.dest d).lane.current = some c) (hx : s.clip? c = some x)
    (hstand : (s.dest d).lane.standing = none) (hlt : (s.dest d).lane.nextUnit < clipUnits x.length) :
    runLaneGo d s = chooseSource d c (s.dest d).lane.nextUnit s := by
  rw [← unitCount_eq] at hlt
  simp only [runLaneGo, if_pos ((s.isServing_iff d).2 hu), hcur, hx, hstand, Option.isSome_none, Bool.false_eq_true, if_false,
    if_pos hlt]

/-- Does a slot of the current copy's items stand FILLING? -/
def State.laneFills (s : State) (d : DestNo) (c : Nat) : Prop :=
  ∃ i ∈ (s.dest d).cq, i.clip = c ∧ ∃ n y, i.kind = .data n ∧ s.slot? n = some y ∧ y.state = .filling

theorem State.laneFills_iff (s : State) (d : DestNo) (c : Nat) :
    ((s.dest d).cq.any fun i => i.cutsAt c s.isFilling) = true ↔ s.laneFills d c := by
  simp only [List.any_eq_true, Item.cutsAt, State.laneFills, Bool.and_eq_true, decide_eq_true_eq]
  refine exists_congr fun i => and_congr_right fun _ => and_congr_right fun _ => ?_
  cases hk : i.kind with
  | trailer => simp
  | data n =>
    simp only [State.isFilling, ItemKind.data.injEq, exists_and_left, exists_eq_left']
    cases hn : s.slot? n <;> simp

theorem runLaneGo_last (hu : InUse (s.dest d)) (hcur : (s.dest d).lane.current = some c) (hx : s.clip? c = some x)
    (hstand : (s.dest d).lane.standing = none) (hle : clipUnits x.length ≤ (s.dest d).lane.nextUnit) :
    (s.laneFills d c → runLaneGo d s = s.still) ∧ (¬s.laneFills d c → runLaneGo d s = endWalk d c x s) := by
  rw [← unitCount_eq] at hle
  have hrun : runLaneGo d s = if ((s.dest d).cq.any fun i => i.cutsAt c s.isFilling) = true then s.still else endWalk d c x s := by
    simp only [runLaneGo, if_pos ((s.isServing_iff d).2 hu), hcur, hx, hstand, Option.isSome_none, Bool.false_eq_true, if_false,
      if_neg (Nat.not_lt.2 hle)]
    rfl
  rw [← s.laneFills_iff]
  exact ⟨fun h => hrun.trans (if_pos h), fun h => hrun.trans (if_neg h)⟩

/-! ### A copy taken -/

theorem takeCopy_resumes {k : Copy} (hx : s.clip? c = some x) (hk : x.copies[d] = some k) (hw : k.window.isSome) :
    takeCopy d c s = (s.modLane d fun l =>
      { l with
        current := some c, cardOnly := false, sum := none
        nextUnit := k.written + ((s.dest d).cq.filter fun i => decide (i.clip = c)).length }).andNow [.laneGo d] := by
  obtain ⟨w, hw⟩ := Option.isSome_iff_exists.1 hw
  simp only [takeCopy, hx, State.copy_some_iff.2 ⟨x, hx, hk⟩, hw]

theorem takeCopy_placed {k : Copy} {w : Window} {t : Nat} (hx : s.clip? c = some x) (hk : x.copies[d] = some k)
    (hw : k.window = none) (ha : (s.dest d).allocate k.attempt (clipUnits x.length) = .placed w t) :
    takeCopy d c s = ((s.place d c w t).modLane d fun l =>
      { l with current := some c, nextUnit := 0, cardOnly := true, sum := some (SumUnit.start x.length) }).andNow [.laneGo d] := by
  simp only [takeCopy, hx, State.copy_some_iff.2 ⟨x, hx, hk⟩, hw, unitCount_eq, ha]

theorem takeCopy_noRoom {k : Copy} {fills : Bool} (hx : s.clip? c = some x) (hk : x.copies[d] = some k)
    (hw : k.window = none) (ha : (s.dest d).allocate k.attempt (clipUnits x.length) = .noRoom fills) :
    (k.attempt = 1 → takeCopy d c s = ((s.modCopy c d fun k => { k with state := .noSpace }).leaveLane c d).andNow
        ((if fills then [.fillDest d c] else []) ++ [.enlist c, .laneGo d]))
      ∧ (k.attempt = 2 → takeCopy d c s = s.andNow [.failRepair c d fills, .laneGo d]) := by
  have hrun : takeCopy d c s = if k.attempt = 1 then
      ((s.modCopy c d fun k => { k with state := .noSpace }).leaveLane c d).andNow
        ((if fills then [.fillDest d c] else []) ++ [.enlist c, .laneGo d])
      else s.andNow [.failRepair c d fills, .laneGo d] := by
    simp only [takeCopy, hx, State.copy_some_iff.2 ⟨x, hx, hk⟩, hw, unitCount_eq, ha]
  exact ⟨fun h => hrun.trans (if_pos h), fun h => hrun.trans (if_neg (by rw [h]; decide))⟩

/-- What the lane's turn leaves of a copy that is placed. -/
theorem State.place_lane {k : Copy} {b : Binding} {w : Window} {t : Nat} (hk : s.copy? c d = some k) (hb : (s.dest d).binding = some b)
    (f : Lane → Lane) :
    ((s.place d c w t).modLane d f).copy? c d = some { k with state := .writing, window := some w, trailer := some t, written := 0 }
      ∧ ((s.place d c w t).modLane d f).dest d = { s.dest d with
          binding := some { b with nextUnit := b.nextUnit + w.count, nextTrailer := b.nextTrailer + 1 }
          lane := f (s.dest d).lane } := by
  refine ⟨?_, ?_⟩
  · refine (State.copy_modCopy _ c d (fun k => { k with state := .writing, window := some w, trailer := some t, written := 0 }) c d).trans ?_
    rw [if_pos ⟨rfl, rfl⟩]
    exact congrArg (Option.map _) hk
  · rw [State.dest_modLane, if_pos rfl, State.place, State.dest_modCopy, State.dest_modDest, if_pos rfl, hb]
    rfl

end

theorem laneTakesItsOldestCopy : LaneTakesItsOldestCopy := by
  intro s d c x k b before after l w n D fits hu hcur hb
  have hw : w = runLaneGo d s := rfl
  refine ⟨fun hno => hw.trans (runLaneGo_none hcur hno), fun hcopies hno hc hx hk hatt => ?_⟩
  rw [runLaneGo_takes hu hcur hcopies hno hc] at hw
  have hcopy : s.copy? c d = some k := State.copy_some_iff.2 ⟨x, hx, hk⟩
  obtain ⟨hactive, hfull, htwo⟩ := allocationRules (s.dest d) b n hb
  have hplaced (hfits : fits) : (s.dest d).allocate k.attempt n = .placed ⟨b.nextUnit, n⟩ b.nextTrailer := by
    obtain ⟨ht, ⟨h1, hact, hroom⟩ | ⟨h2, hroom⟩⟩ := hfits
    · rw [h1]; exact (hactive hact).1 ⟨hroom, ht⟩
    · rw [h2]; exact (htwo hu).2.1 hroom ht
  refine ⟨?later, fun hwin => ?resume, fun hwin hfits => ?place, fun hwin hno h1 => ?noSpace, fun hwin hno h2 => ?repair⟩
  case later =>
    rw [hw]
    cases hwin : k.window with
    | some win => rw [takeCopy_resumes hx hk (by rw [hwin]; rfl)]; rfl
    | none =>
      cases ha : (s.dest d).allocate k.attempt (clipUnits x.length) with
      | placed win t => rw [takeCopy_placed hx hk hwin ha]; rfl
      | noRoom fills =>
        obtain ⟨hone, htwo⟩ := takeCopy_noRoom hx hk hwin ha
        rcases hatt with h | h
        · rw [hone h]; rfl
        · rw [htwo h]; rfl
  case resume =>
    rw [hw, takeCopy_resumes hx hk hwin]
    refine ⟨rfl, rfl, ?_⟩
    exact congrArg DestPort.lane ((State.dest_modLane _ _ _ d).trans (if_pos rfl))
  case place =>
    rw [hw, takeCopy_placed hx hk hwin (hplaced hfits)]
    exact ⟨rfl, State.place_lane hcopy hb _⟩
  case noSpace =>
    have hnoroom : (s.dest d).allocate 1 n = .noRoom (decide ((s.dest d).state = .active)) := by
      rcases hu with hact | hfu
      · rw [hact]
        refine (hactive hact).2 ?_
        by_contra hroom
        rw [not_or, Nat.not_lt, Nat.not_le] at hroom
        exact hno ⟨hroom.2, .inl ⟨h1, hact, hroom.1⟩⟩
      · rw [hfu]; exact hfull hfu
    rw [← h1] at hnoroom
    rw [hw, (takeCopy_noRoom hx hk hwin hnoroom).1 h1]
    obtain ⟨wait, hleave, -⟩ := (s.modCopy c d fun k => { k with state := .noSpace }).leaveLane_left c d
    refine ⟨?_, ?_, fun hact => by rw [hact]; rfl, fun hfu => by rw [hfu]; rfl⟩
    · rw [hleave]
      refine (State.copy_modCopy s c d (fun k => { k with state := .noSpace }) c d).trans ?_
      rw [if_pos ⟨rfl, rfl⟩, hcopy]; rfl
    · rw [hleave]
      refine (congrArg DestPort.lane (State.dest_modDest (s.modCopy c d fun k => { k with state := .noSpace }) d
        (fun x => { x with lane := x.lane.left (onlyCopy c d · d) }) d)).trans ?_
      rw [if_pos rfl, State.dest_modCopy]
      refine (Lane.left_only (s.dest d).lane c d).trans ?_
      rw [if_neg (by rw [hcur]; simp)]
  case repair =>
    have hnoroom : (s.dest d).allocate 2 n = .noRoom (decide ((s.dest d).state = .active ∧ b.nextUnit + n ≤ D)) := by
      obtain ⟨hdata, -, htrailer⟩ := htwo hu
      by_cases hroom : b.nextUnit + n ≤ D
      · rw [htrailer hroom (Nat.not_lt.1 fun ht => hno ⟨ht, .inr ⟨h2, hroom⟩⟩)]
        simp [hroom]
      · rw [hdata (Nat.not_le.1 hroom)]
        simp [hroom]
    rw [← h2] at hnoroom
    rw [hw, (takeCopy_noRoom hx hk hwin hnoroom).2 h2]
    exact ⟨rfl, _, rfl, by simp⟩

/-! ### The source of a unit -/

theorem Table.find?_eq_first {α : Type} {p : Nat × α → Bool} {n : Nat} {y : α} {t : List (Nat × α)} (hwf : Table.wf t = true)
    (hn : (n, y) ∈ t) (hp : p (n, y) = true) (hleast : ∀ m z, (m, z) ∈ t → m < n → p (m, z) = false) :
    t.find? p = some (n, y) := by
  cases hfind : t.find? p with
  | none => exact absurd hp (List.find?_eq_none.1 hfind _ hn)
  | some e =>
    obtain ⟨he, before, after, hsplit, hbefore⟩ := List.find?_eq_some_iff_append.1 hfind
    rw [Table.wf_iff, Table.keys, List.pairwise_map, hsplit] at hwf
    rw [hsplit, List.mem_append, List.mem_cons] at hn
    rcases hn with hb | rfl | ha
    · have := hbefore _ hb
      rw [hp] at this; simp at this
    · rfl
    · have hlt : e.1 < n := (List.pairwise_cons.1 (List.pairwise_append.1 hwf).2.1).1 _ ha
      rw [hleast e.1 e.2 (by rw [hsplit]; simp) hlt] at he
      cases he

/-- Does a slot hold unit `k` of clip `c` for `d` to join? -/
def Slot.joins (y : Slot) (d : DestNo) (c k : Nat) : Bool :=
  decide (y.state = .staged ∧ y.clip = c ∧ y.unit = k) && !y.pending.isEmpty && !y.pending.contains d

theorem Slot.joins_iff (y : Slot) (d : DestNo) (c k : Nat) : y.joins d c k = true
    ↔ y.state = .staged ∧ y.clip = c ∧ y.unit = k ∧ y.pending ≠ [] ∧ d ∉ y.pending := by
  simp [Slot.joins, and_assoc]

theorem State.stagedFor_eq (s : State) (d : DestNo) (c k : Nat) :
    s.stagedFor d c k = (s.ring.held.find? fun e => e.2.joins d c k).map Prod.fst := rfl

theorem State.stagedFor_of_joinable {s : State} {d : DestNo} {c k n : Nat} {y : Slot} (hwf : Table.wf s.ring.held = true)
    (h : Joinable s d c k n y) : s.stagedFor d c k = some n := by
  obtain ⟨hy, hholds, hleast⟩ := h
  rw [State.stagedFor_eq, Table.find?_eq_first hwf (Table.mem_of_find hy) ((y.joins_iff d c k).2 hholds)
    fun m z hm hlt => Bool.eq_false_iff.2 fun hz => hleast m z hm hlt ((z.joins_iff d c k).1 hz)]
  rfl

theorem State.stagedFor_none {s : State} {d : DestNo} {c k : Nat} (hwf : Table.wf s.ring.held = true)
    (h : NoneJoinable s d c k) : s.stagedFor d c k = none := by
  rw [State.stagedFor_eq, Option.map_eq_none_iff]
  by_contra hne
  obtain ⟨⟨n, y⟩, hfind⟩ := Option.ne_none_iff_exists'.1 hne
  obtain ⟨he, before, after, hsplit, hbefore⟩ := List.find?_eq_some_iff_append.1 hfind
  refine h n y ⟨(State.mem_held_iff hwf).1 (by rw [hsplit]; simp), (y.joins_iff d c k).1 he, fun m z hm hlt hz => ?_⟩
  rw [Table.wf_iff, Table.keys, List.pairwise_map, hsplit] at hwf
  rw [hsplit, List.mem_append, List.mem_cons] at hm
  rcases hm with hb | hm | ha
  · have := hbefore _ hb
    rw [(z.joins_iff d c k).2 hz] at this; simp at this
  · obtain ⟨rfl, -⟩ := Prod.mk.inj hm
    exact lt_irrefl m hlt
  · exact lt_asymm hlt ((List.pairwise_cons.1 (List.pairwise_append.1 hwf).2.1).1 _ ha)

section

variable {s : State} {d : DestNo} {c k : Nat} {x : Clip}

/-- From `s` to `t` lane `d` joined slot `n` with unit `k` of its current copy, of clip `c`. -/
structure State.Joins (s : State) (d : DestNo) (c k n : Nat) (t : State) : Prop where
  slot : ∀ m, t.slot? m = if m = n then (s.slot? n).map fun y => { y with pending := destInsert d y.pending } else s.slot? m
  dest : ∀ e, t.dest e = if e = d then { s.dest d with
    cq := (s.dest d).cq ++ [Item.new c (.data n)]
    lane := { (s.dest d).lane with nextUnit := k + 1, cardOnly := false, sum := none } } else s.dest e
  ports : t.ports = s.ports
  jobs : t.jobs = s.jobs
  clips : t.clips = s.clips
  freeList : t.ring.freeList = s.ring.freeList
  waitList : t.ring.waitList = s.ring.waitList
  plan : t.plan = s.plan
  manifest : t.manifest = s.manifest
  faults : t.faults = s.faults

theorem chooseSource_joins {n : Nat} (hn : s.stagedFor d c k = some n) :
    ∃ t, chooseSource d c k s = t.andNow [.laneGo d] ∧ s.Joins d c k n t := by
  let s1 := s.modSlot n fun y => { y with pending := destInsert d y.pending }
  refine ⟨(((clearMark d s1).queueItem d .cq (Item.new c (.data n))).modLane d fun l => { l with nextUnit := k + 1 }), by
    simp only [chooseSource, hn]; rfl, ?_⟩
  have heq : (((clearMark d s1).queueItem d .cq (Item.new c (.data n))).modLane d fun l => { l with nextUnit := k + 1 })
      = s1.modDest d fun x => { x with
          cq := x.cq ++ [Item.new c (.data n)]
          lane := { x.lane with nextUnit := k + 1, cardOnly := false, sum := none } } := by
    rw [clearMark, State.modLane, State.queueItem, State.modLane, State.modDest_modDest, State.modDest_modDest]
    rfl
  have hblocks : s1.ports = s.ports ∧ s1.jobs = s.jobs ∧ s1.clips = s.clips ∧ s1.ring.freeList = s.ring.freeList
      ∧ s1.ring.waitList = s.ring.waitList ∧ s1.plan = s.plan ∧ s1.manifest = s.manifest ∧ s1.faults = s.faults := by
    simp only [s1, State.modSlot]
    split <;> exact ⟨rfl, rfl, rfl, rfl, rfl, rfl, rfl, rfl⟩
  obtain ⟨hports, hjobs, hclips, hfree, hwait, hplan, hman, hfaults⟩ := hblocks
  rw [heq]
  refine ⟨fun m => State.slot_modSlot s n _ m, fun e => ?_, hports, hjobs, hclips, hfree, hwait, hplan, hman, hfaults⟩
  rw [State.dest_modDest, State.dest_modSlot, State.dest_modSlot]

/-- From `s` to `t` lane `d` was given slot `n` for unit `k` of its copy of clip `c` (record `x`), to be filled from `src`. -/
structure State.LaneServed (s : State) (d : DestNo) (n c k : Nat) (x : Clip) (src : Source) (t : State) : Prop where
  slot : ∀ m, t.slot? m = if m = n then some (freshSlot (.lane d) c x k) else s.slot? m
  freeList : t.ring.freeList = s.ring.freeList.tail
  waitList : t.ring.waitList = s.ring.waitList
  dest : (t.dest d).cq = (s.dest d).cq ++ [Item.new c (.data n)] ∧ (t.dest d).state = (s.dest d).state
    ∧ (t.dest d).lane = { (s.dest d).lane with standing := none, nextUnit := k + 1, held := (s.dest d).lane.held + 1 }
  card : ∀ p, src = .card → (s.job x.job).boundPort = some p →
    (t.port p).fifo = (s.port p).fifo ++ (unitPieces x k).map fun r => ⟨.supply d x.job c k n, r.1, r.2⟩
  source : ∀ e, src = .dest e → (t.dest e).rl.jobs = (s.dest e).rl.jobs ++ [.supply c k n d]
  clip : ∀ b, (∀ e, src = .dest e → (s.dest e).rl.active = none → (s.dest e).rl.jobs = []) → t.clip? b = s.clip? b
  jobs : t.jobs = s.jobs
  plan : t.plan = s.plan
  manifest : t.manifest = s.manifest
  faults : t.faults = s.faults

/-- A source that can be asked: the card bound, or an ACTIVE destination. -/
def State.Sources (s : State) (d : DestNo) (x : Clip) : Source → Prop
  | .card => (s.job x.job).boundPort.isSome
  | .dest e => e ≠ d ∧ (s.dest e).state = .active

/-- A read job that joins a read lane at rest, or behind an active one, changes no clip but a VERIFY job's. -/
theorem State.appendRead_supply_clips {s : State} {e : DestNo} (h : (s.dest e).rl.active = none → (s.dest e).rl.jobs = [])
    (c k n : Nat) (d : DestNo) : (s.appendRead e (.supply c k n d)).clips = s.clips := by
  let s1 := s.modDest e fun x => { x with rl := { x.rl with jobs := x.rl.jobs ++ [.supply c k n d] } }
  have hd : s1.dest e = _ := s.dest_modDest_self e _
  change (s1.activateRead e).clips = s1.clips
  unfold State.activateRead
  rw [hd]
  split
  · rfl
  · rename_i hact
    rw [Bool.not_eq_true, Option.isSome_eq_false_iff, Option.isNone_iff_eq_none] at hact
    simp only [h hact]
    rfl

theorem askForLane_served {src : Source} {n : Nat} {rest : List Nat} (hx : s.clip? c = some x) (hsrc : s.Sources d x src)
    (hheld : (s.dest d).lane.held < 8) (hfree : s.ring.freeList = n :: rest) :
    ∃ t, s.askForLane d c k src = t.still ∧ s.LaneServed d n c k x src t := by
  rw [State.askForLane_given hheld hfree hx]
  let g := s.laneGiven d n rest c k x
  have hslot := s.slot_laneGiven d n rest c k x
  have hdest := s.dest_laneGiven d n rest c k x
  cases src with
  | card =>
    obtain ⟨p, hp⟩ := Option.isSome_iff_exists.1 (show (s.job x.job).boundPort.isSome from hsrc)
    refine ⟨_, State.fillForLane_card (s := g) hx hp, hslot, by rw [hfree]; rfl, rfl, ⟨?_, ?_, ?_⟩, fun q _ hq => ?_, nofun,
      fun b _ => rfl, rfl, rfl, rfl, rfl⟩
    · exact congrArg DestPort.cq ((hdest d).trans (if_pos rfl))
    · exact (congrArg DestPort.state ((hdest d).trans (if_pos rfl))).trans rfl
    · exact congrArg DestPort.lane ((hdest d).trans (if_pos rfl))
    · obtain rfl := Option.some.inj (hp.symm.trans hq)
      exact congrArg CardPort.fifo ((State.port_queuePieces g p (.supply d x.job c k n) (unitPieces x k) p).trans (if_pos rfl))
  | dest e =>
    obtain ⟨hed, hact⟩ := hsrc
    have hge : g.dest e = s.dest e := (hdest e).trans (if_neg hed)
    have hread := g.appendRead_readsAt e (.supply c k n d)
    have hd : (g.appendRead e (.supply c k n d)).dest d = g.dest d := hread.others d (Ne.symm hed)
    have hactive : g.isActive e = true := decide_eq_true (by rw [hge]; exact hact)
    refine ⟨g.appendRead e (.supply c k n d), if_pos hactive, fun m => (State.slot_congr hread.ring m).trans (hslot m), ?_, ?_,
      ⟨?_, ?_, ?_⟩, nofun, fun f hf => ?_, fun b hidle => ?_, hread.jobs, hread.plan, hread.manifest, hread.faults⟩
    · rw [hread.ring, hfree]; rfl
    · rw [hread.ring]; rfl
    · rw [hd]; exact congrArg DestPort.cq ((hdest d).trans (if_pos rfl))
    · rw [hd]; exact (congrArg DestPort.state ((hdest d).trans (if_pos rfl))).trans rfl
    · rw [hd]; exact congrArg DestPort.lane ((hdest d).trans (if_pos rfl))
    · obtain rfl := Source.dest.inj hf
      obtain ⟨a, rl, h, hrl⟩ := hread.dest
      rw [h, ← hge]
      exact hrl
    · exact State.clip_congr (State.appendRead_supply_clips (s := g) (by rw [hge]; exact hidle e rfl) c k n d) b

/-- A lane that asks: at its limit it waits, with no slot free it joins the wait list, else it is given the slot. -/
theorem askAndGo_rules {src : Source} (hx : s.clip? c = some x) :
    (8 ≤ (s.dest d).lane.held → askAndGo d c k src s
        = (s.modLane d fun l => { l with standing := some (k, src) }).andNow [.laneGo d])
      ∧ ((s.dest d).lane.held < 8 → s.ring.freeList = [] → askAndGo d c k src s
        = ((s.modLane d fun l => { l with standing := some (k, src) }).joinWait (.lane d)).andNow [.laneGo d])
      ∧ (s.Sources d x src → (s.dest d).lane.held < 8 → ∀ n rest, s.ring.freeList = n :: rest →
        ∃ t, askAndGo d c k src s = t.andNow [.laneGo d] ∧ s.LaneServed d n c k x src t) := by
  refine ⟨fun h => ?_, fun h hfree => ?_, fun hsrc h n rest hfree => ?_⟩
  · have hask : s.askForLane d c k src = (s.modLane d fun l => { l with standing := some (k, src) }).still := if_pos h
    simp only [askAndGo, hask]
    rfl
  · have hgive : s.giveToLane d c k = none := by simp only [State.giveToLane, State.giveSlot, hfree]
    have hask : s.askForLane d c k src
        = ((s.modLane d fun l => { l with standing := some (k, src) }).joinWait (.lane d)).still := by
      simp only [State.askForLane, laneLimit, if_neg (Nat.not_le.2 h), hgive]
    simp only [askAndGo, hask]
    rfl
  · obtain ⟨t, ht, hserved⟩ := askForLane_served (k := k) hx hsrc h hfree
    refine ⟨t, ?_, hserved⟩
    simp only [askAndGo, ht]
    rfl

/-- With nothing to join, the lane asks for a slot with the card as source, else the next VERIFIED copy, else the copy is
suspended. -/
theorem chooseSource_rules (hx : s.clip? c = some x) (hno : s.stagedFor d c k = none) :
    ((s.job x.job).boundPort.isSome → chooseSource d c k s = askAndGo d c k .card s)
      ∧ ((s.job x.job).boundPort = none →
        (∀ e, NextSource s d x [] e → chooseSource d c k s = askAndGo d c k (.dest e) (clearMark d s))
        ∧ ((∀ e, ¬NextSource s d x [] e) → chooseSource d c k s = s.andNow [.suspend c d])) := by
  have hport : s.portFor c = (s.job x.job).boundPort := by simp only [State.portFor, hx, Option.bind_some]
  refine ⟨fun h => ?_, fun h => ⟨fun e he => ?_, fun hnone => ?_⟩⟩
  · simp only [chooseSource, hno, hport, h, if_true]
  · simp only [chooseSource, hno, hport, h, Option.isSome_none, Bool.false_eq_true, if_false,
      State.verifiedSource_of_next (out := []) hx (fun _ => Iff.rfl) he]
  · simp only [chooseSource, hno, hport, h, Option.isSome_none, Bool.false_eq_true, if_false,
      State.verifiedSource_none (out := []) hx (fun _ => Iff.rfl) hnone]

theorem State.dest_clearMark (s : State) (d e : DestNo) : (clearMark d s).dest e
    = if e = d then { s.dest d with lane := { (s.dest d).lane with cardOnly := false, sum := none } } else s.dest e :=
  State.dest_modLane s d _ e

end

theorem laneChoosesItsSource : LaneChoosesItsSource := by
  intro s d c k x l w asks hu hwf hcur hstand hx hnext hlt
  have hw : w = chooseSource d c k s := by
    have := runLaneGo_chooses hu hcur hx hstand (by rw [hnext]; exact hlt)
    rwa [hnext] at this
  have hasks {s0 : State} {l0 : Lane} {src : Source} (h0 : w = askAndGo d c k src s0) (hx0 : s0.clip? c = some x)
      (hsrc : s0.Sources d x src) (hring : s0.ring = s.ring) (hjobs : s0.jobs = s.jobs) (hports : s0.ports = s.ports)
      (hcq : (s0.dest d).cq = (s.dest d).cq) (hlane : (s0.dest d).lane = l0) (hl0 : l0.standing = none)
      (hothers : ∀ e, e ≠ d → s0.dest e = s.dest e) : asks l0 src := by
    obtain ⟨hlimit, hempty, hgiven⟩ := askAndGo_rules (d := d) (k := k) (src := src) hx0
    rw [hlane] at hlimit hempty hgiven
    have hstanding : ((s0.modLane d fun l => { l with standing := some (k, src) }).dest d).lane
        = { l0 with standing := some (k, src) } := by
      rw [State.dest_modLane, if_pos rfl, hlane]
    refine ⟨?_, fun h => ?_, fun h hfree hnot => ?_, fun n more h hfree => ?_⟩
    · rw [h0]
      rcases Nat.lt_or_ge l0.held 8 with hh | hh
      · cases hfree : s0.ring.freeList with
        | nil => rw [hempty hh hfree]; rfl
        | cons n rest =>
          obtain ⟨t, ht, -⟩ := hgiven hsrc hh n rest hfree
          rw [ht]; rfl
      · rw [hlimit hh]; rfl
    · rw [h0, hlimit h]
      exact ⟨rfl, hring, hstanding⟩
    · rw [h0, hempty h (by rw [hring]; exact hfree), State.joinWait_of_not_mem (by
        rw [show (s0.modLane d _).ring = s0.ring from rfl, hring]; exact hnot)]
      exact ⟨rfl, by rw [← hring]; rfl, hstanding⟩
    · obtain ⟨t, ht, hserved⟩ := hgiven hsrc h n more (by rw [hring]; exact hfree)
      obtain ⟨hcqt, -, hlanet⟩ := hserved.dest
      rw [h0, ht]
      refine ⟨rfl, ?_, (hserved.slot n).trans (if_pos rfl), ?_, ?_, fun p hp hport => ?_, fun e he => ?_⟩
      · exact hserved.freeList.trans (by rw [hring, hfree]; rfl)
      · exact hcqt.trans (by rw [hcq])
      · rw [show (t.andNow [.laneGo d]).state = t from rfl, hlanet, hlane, ← hl0]
      · exact (hserved.card p hp (by rw [State.job_congr hjobs]; exact hport)).trans (by rw [State.port_congr hports])
      · have hne : e ≠ d := by subst he; exact hsrc.1
        exact (hserved.source e he).trans (by rw [hothers e hne])
  refine ⟨fun n y hj => ?_, fun hno => ?_⟩
  · obtain ⟨t, ht, hjoins⟩ := chooseSource_joins (State.stagedFor_of_joinable hwf hj)
    rw [hw, ht]
    refine ⟨rfl, rfl, hjoins.freeList, ⟨destInsert d y.pending, ?_, fun e => mem_destInsert d e y.pending⟩,
      fun m hm => (hjoins.slot m).trans (if_neg hm), (hjoins.dest d).trans (if_pos rfl)⟩
    refine (hjoins.slot n).trans ?_
    rw [if_pos rfl, hj.1]; rfl
  · obtain ⟨hcard, hnone⟩ := chooseSource_rules hx (State.stagedFor_none hwf hno)
    refine ⟨fun h => ?_, fun h => ⟨fun e he => ?_, fun hno => hw.trans ((hnone h).2 hno)⟩⟩
    · exact hasks (hw.trans (hcard h)) hx h rfl rfl rfl rfl rfl hstand fun _ _ => rfl
    · have hdest := s.dest_clearMark d
      refine hasks (s0 := clearMark d s) (hw.trans ((hnone h).1 e he)) hx ⟨he.1.1, ?_⟩ rfl rfl rfl ?_ ?_ hstand
        fun f hf => (hdest f).trans (if_neg hf)
      · rw [hdest, if_neg he.1.1]; exact he.1.2.2.1
      · rw [hdest, if_pos rfl]
      · rw [hdest, if_pos rfl]

/-! ### The end of a walk -/

/-- The lane's supply sum, taken wholly from the card, differs from the clip's source sum. -/
def Lane.Differs (l : Lane) (x : Clip) : Prop :=
  l.cardOnly = true ∧ 0 < x.length ∧ ∃ u sum, l.sum = some u ∧ x.sum = some sum
    ∧ ¬(u.close.s1 = sum.s1 ∧ u.close.s2 = sum.s2)

theorem supplyDisagrees_iff (l : Lane) (x : Clip) : supplyDisagrees l x = true ↔ l.Differs x := by
  simp only [supplyDisagrees, Lane.Differs, Bool.and_eq_true, decide_eq_true_eq, and_assoc]
  refine and_congr_right fun _ => and_congr_right fun _ => ?_
  cases hu : l.sum with
  | none => simp
  | some u =>
    cases hs : x.sum with
    | none => simp
    | some sum => simp [ClosedSum.agrees, imp_iff_not_or]

/-- From `s` to `t` the copy of clip `c` that is current in lane `d` ended its walk: its trailer item joined CQ. -/
structure State.WalkEnds (s : State) (d : DestNo) (c : Nat) (t : State) : Prop where
  dest : ∀ e, t.dest e = if e = d then { s.dest d with
    cq := (s.dest d).cq ++ [Item.new c .trailer]
    lane := { (s.dest d).lane with
      copies := (s.dest d).lane.copies.filter (· ≠ c), current := none, standing := none, sum := none, cardOnly := false } }
    else s.dest e
  ports : t.ports = s.ports
  jobs : t.jobs = s.jobs
  held : t.ring.held = s.ring.held
  freeList : t.ring.freeList = s.ring.freeList
  plan : t.plan = s.plan
  manifest : t.manifest = s.manifest

section

variable {s : State} {d : DestNo} {c : Nat} {x : Clip}

theorem State.walkEnds (hcur : (s.dest d).lane.current = some c) :
    s.WalkEnds d c ((s.queueItem d .cq (Item.new c .trailer)).leaveLane c d)
      ∧ ((s.queueItem d .cq (Item.new c .trailer)).leaveLane c d).clips = s.clips
      ∧ ((s.queueItem d .cq (Item.new c .trailer)).leaveLane c d).faults = s.faults := by
  let s1 := s.queueItem d .cq (Item.new c .trailer)
  have h1 (e : DestNo) : s1.dest e = if e = d then { s.dest d with cq := (s.dest d).cq ++ [Item.new c .trailer] } else s.dest e :=
    s.dest_modDest d _ e
  obtain ⟨w, hw, -⟩ := s1.leaveLane_left c d
  rw [hw]
  refine ⟨⟨fun e => ?_, rfl, rfl, rfl, rfl, rfl, rfl⟩, rfl, rfl⟩
  refine (State.dest_modDest s1 d (fun x => { x with lane := x.lane.left (onlyCopy c d · d) }) e).trans ?_
  by_cases he : e = d
  · rw [if_pos he, if_pos he, h1, if_pos rfl]
    refine congrArg (fun l => { s.dest d with cq := (s.dest d).cq ++ [Item.new c .trailer], lane := l }) ?_
    rw [Lane.left_only, if_pos hcur]
    rfl
  · rw [if_neg he, if_neg he, h1, if_neg he]

/-- A walk that ends without a disagreement. -/
theorem endWalk_agrees (hcur : (s.dest d).lane.current = some c) (h : ¬(s.dest d).lane.Differs x) :
    ∃ t, endWalk d c x s = t.andNow [.laneGo d] ∧ s.WalkEnds d c t ∧ t.clips = s.clips ∧ t.faults = s.faults := by
  rw [← supplyDisagrees_iff] at h
  refine ⟨_, ?_, State.walkEnds hcur⟩
  simp only [endWalk, if_neg h]

/-- The clip whose supply sum differs. -/
def Clip.markUnstable (x : Clip) : Clip :=
  match x.state with
  | .read => { x with state := .unstable }
  | .secured => { x with unstable := true }
  | .unstable => x
  | .listed => x
  | .reading => x
  | .excluded => x
  | .sourceFault => x

/-- A walk that ends with a disagreement, SOURCE_UNSTABLE not routed HOLD. -/
theorem endWalk_differs (hx : s.clip? c = some x) (hcur : (s.dest d).lane.current = some c) (h : (s.dest d).lane.Differs x)
    (hroute : s.faults.route .sourceUnstable ≠ .hold) :
    ∃ t, endWalk d c x s = t.andNow [.laneGo d] ∧ s.WalkEnds d c t
      ∧ (∀ b, t.clip? b = if b = c then some x.markUnstable else s.clip? b)
      ∧ t.faults = s.faults.take ⟨.sourceUnstable, some x.job, some c, some d, (s.job x.job).boundPort, .sumMismatch⟩ := by
  rw [← supplyDisagrees_iff] at h
  obtain ⟨l, -, hraise⟩ := State.raise_alone (s := s)
    (o := ⟨.sourceUnstable, some x.job, some c, some d, (s.job x.job).boundPort, .sumMismatch⟩) hroute
  obtain ⟨u, hu⟩ : ∃ u, s.raise ⟨.sourceUnstable, some x.job, some c, some d, (s.job x.job).boundPort, .sumMismatch⟩ = u := ⟨_, rfl⟩
  have hclip : u.clip? c = some x := by rw [← hu, hraise]; exact hx
  let s1 := u.setClip c x.markUnstable
  have hs1 : sourceUnstable d c x s = s1 := by
    simp only [sourceUnstable, hu, State.modClip, hclip]
    rfl
  have hd (e : DestNo) : s1.dest e = s.dest e := by
    change u.dest e = _
    rw [← hu, hraise]; rfl
  obtain ⟨hends, hclips, hfaults⟩ := State.walkEnds (s := s1) (by rw [hd]; exact hcur)
  have hb : s1.ports = s.ports ∧ s1.jobs = s.jobs ∧ s1.ring = s.ring ∧ s1.plan = s.plan ∧ s1.manifest = s.manifest
      ∧ s1.faults = s.faults.take ⟨.sourceUnstable, some x.job, some c, some d, (s.job x.job).boundPort, .sumMismatch⟩ := by
    rw [hraise] at hu
    subst hu
    exact ⟨rfl, rfl, rfl, rfl, rfl, rfl⟩
  obtain ⟨hports, hjobs, hring, hplan, hman, hf⟩ := hb
  refine ⟨_, ?_, ⟨fun e => ?_, hends.ports.trans hports, hends.jobs.trans hjobs, ?_, ?_, hends.plan.trans hplan,
    hends.manifest.trans hman⟩, fun b => ?_, hfaults.trans hf⟩
  · simp only [endWalk, if_pos h, hs1]
  · rw [hends.dest, hd, hd]
  · rw [hends.held, hring]
  · rw [hends.freeList, hring]
  · rw [State.clip_congr hclips, State.clip_setClip]
    rw [← hu, hraise]
    rfl

end

theorem laneEndsItsWalk : LaneEndsItsWalk := by
  intro s d c x l w waits differs hu hcur hx
  have hw : w = runLaneGo d s := rfl
  refine ⟨fun hstand => hw.trans (runLaneGo_standing hcur hstand), fun hstand hle => ?_⟩
  obtain ⟨hwaits, hends⟩ := runLaneGo_last hu hcur hx hstand hle
  refine ⟨fun h => hw.trans (hwaits h), fun h hroute => ?_⟩
  rw [hends h] at hw
  have hresult {t : State} (ht : endWalk d c x s = t.andNow [.laneGo d]) (hwalk : s.WalkEnds d c t)
      (hagree : ¬differs → t.clips = s.clips ∧ t.faults = s.faults)
      (hdiffer : differs → (∀ b, t.clip? b = if b = c then some x.markUnstable else s.clip? b)
        ∧ t.faults = s.faults.take ⟨.sourceUnstable, some x.job, some c, some d, (s.job x.job).boundPort, .sumMismatch⟩) :
      w.now = [.laneGo d] ∧ w.later = []
        ∧ (w.state.dest d).cq = (s.dest d).cq ++ [Item.new c .trailer]
        ∧ (w.state.dest d).lane =
          { l with
            copies := l.copies.filter (· ≠ c), current := none, standing := none, sum := none, cardOnly := false }
        ∧ w.state.jobs = s.jobs ∧ w.state.ring.held = s.ring.held
        ∧ (¬differs → w.state.clips = s.clips ∧ w.state.faults = s.faults)
        ∧ (differs →
            w.state.faults = s.faults.take
              ⟨.sourceUnstable, some x.job, some c, some d, (s.job x.job).boundPort, .sumMismatch⟩
            ∧ (∀ b, b ≠ c → w.state.clip? b = s.clip? b)
            ∧ (x.state = .read → w.state.clip? c = some { x with state := .unstable })
            ∧ (x.state = .secured → w.state.clip? c = some { x with unstable := true })
            ∧ (x.state = .unstable → w.state.clip? c = some x)) := by
    rw [hw, ht]
    refine ⟨rfl, rfl, congrArg DestPort.cq ((hwalk.dest d).trans (if_pos rfl)),
      congrArg DestPort.lane ((hwalk.dest d).trans (if_pos rfl)), hwalk.jobs, hwalk.held, hagree, fun hd => ?_⟩
    obtain ⟨hclip, hfaults⟩ := hdiffer hd
    have hself : t.clip? c = some x.markUnstable := (hclip c).trans (if_pos rfl)
    refine ⟨hfaults, fun b hb => (hclip b).trans (if_neg hb), fun hst => hself.trans ?_, fun hst => hself.trans ?_,
      fun hst => hself.trans ?_⟩ <;> rw [Clip.markUnstable, hst]
  by_cases hd : differs
  · obtain ⟨t, ht, hwalk, hclip, hfaults⟩ := endWalk_differs hx hcur hd hroute
    exact hresult ht hwalk (fun hno => absurd hd hno) fun _ => ⟨hclip, hfaults⟩
  · obtain ⟨t, ht, hwalk, hclips, hfaults⟩ := endWalk_agrees hcur hd
    exact hresult ht hwalk (fun _ => ⟨hclips, hfaults⟩) fun h => absurd h hd

end Sys2Proof.Machine

/-! COPY_ADD of a clip of at most one unit, walked at once (R120–R125, R129; O42). -/

namespace Sys2Proof.Machine

/-- The copy COPY_ADD places, of a clip of `units` units. -/
def walkedCopy (b : Binding) (units : Nat) (suspended : Bool) : Copy where
  state := .writing
  origin := .host
  attempt := 1
  window := some ⟨b.nextUnit, units⟩
  trailer := some b.nextTrailer
  written := 0
  suspended := suspended
  readback := none

/-- From `s` to `t` clip `c` (record `x`) got its copy on `d`, which is current in the lane and placed. -/
structure State.WalkStarts (s : State) (c : Nat) (d : DestNo) (x : Clip) (b : Binding) (t : State) : Prop where
  clip : ∀ a, t.clip? a = if a = c
    then some { x with copies := x.copies.set d (some (walkedCopy b (clipUnits x.length) false)) } else s.clip? a
  dest : ∀ e, t.dest e = if e = d then { s.dest d with
    binding := some { b with nextUnit := b.nextUnit + clipUnits x.length, nextTrailer := b.nextTrailer + 1 }
    lane := { (s.dest d).lane with
      copies := [c], current := some c, nextUnit := 0, cardOnly := true, sum := some (SumUnit.start x.length) } } else s.dest e
  fifo : ∀ p, (t.port p).fifo = (s.port p).fifo
  boundPort : (t.job x.job).boundPort = (s.job x.job).boundPort
  ring : t.ring = s.ring
  manifest : t.manifest = s.manifest
  faults : t.faults = s.faults

theorem State.place_blocks (s : State) (d : DestNo) (c : Nat) (w : Window) (t : Nat) :
    (s.place d c w t).ports = s.ports ∧ (s.place d c w t).jobs = s.jobs ∧ (s.place d c w t).ring = s.ring
      ∧ (s.place d c w t).manifest = s.manifest ∧ (s.place d c w t).faults = s.faults := by
  unfold State.place
  refine ⟨?_, ?_, ?_, ?_, ?_⟩
  · exact State.modCopy_ports _ c d _
  · exact State.modCopy_jobs _ c d _
  · exact State.modCopy_ring _ c d _
  · exact State.modCopy_manifest _ c d _
  · exact State.modCopy_faults _ c d _

section

variable {s t : State} {c : Nat} {d : DestNo} {x : Clip} {b : Binding}

/-- The request's first effects: the copy QUEUED, its job's settling check, and the lane's turn, with room for it. -/
theorem addCopy_walkStarts (hx : s.clip? c = some x) (hsup : Supplied s c) (hact : (s.dest d).state = .active)
    (hb : (s.dest d).binding = some b) (hroom : b.nextUnit + clipUnits x.length ≤ (b.area - b.strip) / 2048 - b.spare)
    (htrailer : b.nextTrailer < b.strip) (hcopies : (s.dest d).lane.copies = []) (hcur : (s.dest d).lane.current = none) :
    ∃ t, s.WalkStarts c d x b t ∧ ∀ {n u}, effects false n [.laneGo d] t = some u →
      effects false (n + 3) ((addCopy c d x s).now ++ (addCopy c d x s).later) (addCopy c d x s).state = some u := by
  let s1 := (s.setCopy c d (Copy.fresh .queued .host 1)).joinLane c d
  have hclip1 (a : Nat) : s1.clip? a = if a = c then
      some { x with copies := x.copies.set d (some (Copy.fresh .queued .host 1)) } else s.clip? a := by
    change (s.setCopy c d _).clip? a = _
    rw [State.clip_setCopy, hx]
    rfl
  have hdest1 (e : DestNo) : s1.dest e = if e = d then { s.dest d with lane := { (s.dest d).lane with copies := [c] } } else s.dest e := by
    simp only [s1, State.joinLane]
    rw [State.dest_modLane, State.dest_setCopy, State.dest_setCopy]
    simp [hcopies]
  have hsame1 : s1.ports = s.ports ∧ s1.jobs = s.jobs ∧ s1.ring = s.ring ∧ s1.manifest = s.manifest ∧ s1.faults = s.faults := by simp [s1]
  obtain ⟨hports1, hjobs1, hring1, hman1, hfaults1⟩ := hsame1
  obtain ⟨st, s2, -, hto, hsettle⟩ := effects_settle s1 x.job
  have hclip2 (a : Nat) := (State.clip_congr hto.clips a).trans (hclip1 a)
  have hdest2 (e : DestNo) := (State.dest_congr hto.dests e).trans (hdest1 e)
  let k0 := Copy.fresh .queued .host 1
  have hx2 := (hclip2 c).trans (if_pos rfl)
  have hk2 : (x.copies.set d (some k0))[d] = some k0 := Vector.getElem_set_self _
  have hd2 := (hdest2 d).trans (if_pos rfl)
  have hsup2 : Supplied s2 c := by
    have hst : s2.clipState? c = s.clipState? c := by rw [State.clipState?, State.clipState?, hx2, hx]; rfl
    rwa [Supplied, hst]
  have halloc : (s2.dest d).allocate k0.attempt (clipUnits x.length) = .placed ⟨b.nextUnit, clipUnits x.length⟩ b.nextTrailer := by
    obtain ⟨hactive, -⟩ := allocationRules (s2.dest d) b (clipUnits x.length) (by rw [hd2]; exact hb)
    exact (hactive (by rw [hd2]; exact hact)).1 ⟨hroom, htrailer⟩
  have hgo := (runLaneGo_takes (s := s2) (d := d) (c := c) (before := []) (after := []) (by rw [hd2]; exact .inl hact)
    (by rw [hd2]; exact hcur) (by rw [hd2]; rfl) nofun hsup2).trans (takeCopy_placed hx2 hk2 rfl halloc)
  obtain ⟨t, ht⟩ : ∃ t, ((s2.place d c ⟨b.nextUnit, clipUnits x.length⟩ b.nextTrailer).modLane d fun l =>
      { l with current := some c, nextUnit := 0, cardOnly := true, sum := some (SumUnit.start x.length) }) = t := ⟨_, rfl⟩
  rw [ht] at hgo
  obtain ⟨hports3, hjobs3, hring3, hman3, hfaults3⟩ := s2.place_blocks d c ⟨b.nextUnit, clipUnits x.length⟩ b.nextTrailer
  refine ⟨t, ⟨fun a => ?_, fun e => ?_, fun p => ?_, ?_, ?_, ?_, ?_⟩, fun {n u} h => ?_⟩
  · rw [← ht]
    refine (State.clip_modCopy _ c d (fun k => { k with
      state := .writing, window := some ⟨b.nextUnit, clipUnits x.length⟩, trailer := some b.nextTrailer, written := 0 }) a).trans ?_
    rw [show (s2.modDest d _).clip? c = _ from hx2, show (s2.modDest d _).clip? a = s2.clip? a from rfl, hclip2]
    by_cases ha : a = c
    · rw [if_pos ha, if_pos ha, Option.map_some]
      simp only [Fin.getElem_fin, Vector.getElem_set_self, Vector.set_set, Option.map_some]
      rfl
    · rw [if_neg ha, if_neg ha, if_neg ha]
  · have hplace := State.place_lane (s := s2) (w := ⟨b.nextUnit, clipUnits x.length⟩) (t := b.nextTrailer) (State.copy_some_iff.2 ⟨_, hx2, hk2⟩)
      (by rw [hd2]; exact hb) fun l => { l with current := some c, nextUnit := 0, cardOnly := true, sum := some (SumUnit.start x.length) }
    rw [ht, hd2] at hplace
    by_cases he : e = d
    · rw [he, if_pos rfl]; exact hplace.2
    · rw [if_neg he, ← ht, State.dest_modLane, if_neg he, State.place, State.dest_modCopy, State.dest_modDest, if_neg he, hdest2,
        if_neg he]
  · rw [← ht]
    change ((s2.place d c ⟨b.nextUnit, clipUnits x.length⟩ b.nextTrailer).port p).fifo = _
    rw [State.port_congr hports3, hto.port, State.port_congr hports1]
    split_ifs <;> rfl
  · rw [← ht]
    change ((s2.place d c ⟨b.nextUnit, clipUnits x.length⟩ b.nextTrailer).job x.job).boundPort = _
    rw [State.job_congr hjobs3, hto.job, if_pos rfl, State.job_congr hjobs1]
  · rw [← ht]
    exact (hring3.trans hto.ring).trans hring1
  · rw [← ht]
    exact (hman3.trans hto.manifest).trans hman1
  · rw [← ht]
    exact (hfaults3.trans hto.faults).trans hfaults1
  · change effects false (n + 1 + 2) [.settle x.job, .laneGo d] s1 = some u
    refine hsettle ?_
    rw [effects_andNow (a := .laneGo d) hgo rfl]
    exact h

/-- The only copy of a lane ends its walk, and the lane is idle. -/
theorem effects_walkEnds {y : Clip} (hu : InUse (t.dest d)) (hcur : (t.dest d).lane.current = some c) (hx : t.clip? c = some y)
    (hstand : (t.dest d).lane.standing = none) (hle : clipUnits y.length ≤ (t.dest d).lane.nextUnit)
    (hcopies : (t.dest d).lane.copies = [c]) (hfills : ¬t.laneFills d c) (hdiffers : ¬(t.dest d).lane.Differs y) :
    ∃ u, effects false 2 [.laneGo d] t = some u ∧ t.WalkEnds d c u ∧ u.clips = t.clips ∧ u.faults = t.faults := by
  obtain ⟨u, hend, hwalk, hclips, hfaults⟩ := endWalk_agrees (x := y) hcur hdiffers
  have hgo := ((runLaneGo_last hu hcur hx hstand hle).2 hfills).trans hend
  have hd := (hwalk.dest d).trans (if_pos rfl)
  refine ⟨u, ?_, hwalk, hclips, hfaults⟩
  rw [effects_andNow (a := .laneGo d) hgo rfl]
  refine (effects_still (a := .laneGo d) (n := 0) (runLaneGo_idle ?_ ?_) rfl).trans (effects_nil _ _)
  · rw [hd, hcopies]; simp
  · rw [hd]

/-- What the request finds: the clip, the lane at rest, and nothing of the clip's copy on `d` left anywhere. -/
structure State.WalkReady (s : State) (c : Nat) (d : DestNo) (x : Clip) : Prop where
  clip : s.clip? c = some x
  active : (s.dest d).state = .active
  standing : (s.dest d).lane.standing = none
  held : (s.dest d).lane.held < 8
  items : ∀ i ∈ (s.dest d).cq, i.clip ≠ c
  reads : ∀ e, ∀ job ∈ (s.dest e).rl.jobs, job ≠ .verify c ∧ ∀ k n, job ≠ .supply c k n d
  idle : ∀ e, (s.dest e).rl.active = none → (s.dest e).rl.jobs = []
  wf : Table.wf s.ring.held = true
  waits : Requester.lane d ∉ s.ring.waitList

/-- What the walk leaves alone. -/
structure State.WalkedOnly (t u : State) (c : Nat) (d : DestNo) : Prop where
  clip : ∀ a, a ≠ c → u.clip? a = t.clip? a
  copy : ∀ e, e ≠ d → u.copy? c e = t.copy? c e
  manifest : u.manifest = t.manifest
  faults : u.faults = t.faults

/-- A lane that asks for the only unit of its copy: served, or waiting for a slot. -/
theorem effects_askAndGo {v : State} {y : Clip} {src : Source} (hgo : runLaneGo d t = askAndGo d c 0 src v) (hx : v.clip? c = some y)
    (hone : clipUnits y.length = 1) (hcur : (v.dest d).lane.current = some c) (hheld : (v.dest d).lane.held < 8)
    (hsrc : v.Sources d y src) (hnot : Requester.lane d ∉ v.ring.waitList)
    (hidle : ∀ e, src = .dest e → (v.dest e).rl.active = none → (v.dest e).rl.jobs = []) :
    ∃ u, effects false 2 [.laneGo d] t = some u ∧ (∀ a, u.clip? a = v.clip? a) ∧ u.manifest = v.manifest ∧ u.faults = v.faults
      ∧ ∀ n rest, v.ring.freeList = n :: rest → v.LaneServed d n c 0 y src u := by
  obtain ⟨-, hempty, hgiven⟩ := askAndGo_rules (d := d) (k := 0) (src := src) hx
  cases hfree : v.ring.freeList with
  | nil =>
    have hask := hgo.trans (hempty hheld hfree)
    rw [State.joinWait_of_not_mem (by exact hnot)] at hask
    let u : State := { (v.modLane d fun l => { l with standing := some (0, src) }) with
      ring := { v.ring with waitList := v.ring.waitList ++ [.lane d] } }
    have hd : (u.dest d).lane = { (v.dest d).lane with standing := some (0, src) } :=
      congrArg DestPort.lane ((State.dest_modLane v d (fun l => { l with standing := some (0, src) }) d).trans (if_pos rfl))
    refine ⟨u, ?_, fun _ => rfl, rfl, rfl, nofun⟩
    rw [effects_andNow (a := .laneGo d) hask rfl]
    refine (effects_still (a := .laneGo d) (n := 0) (runLaneGo_standing (c := c) ?_ ?_) rfl).trans (effects_nil _ _)
    · exact (congrArg Lane.current hd).trans hcur
    · exact (congrArg (fun l => l.standing.isSome) hd).trans rfl
  | cons n rest =>
    obtain ⟨u, hu, hserved⟩ := hgiven hsrc hheld n rest hfree
    have hask := hgo.trans hu
    obtain ⟨hcq, -, hlane⟩ := hserved.dest
    refine ⟨u, ?_, fun a => hserved.clip a hidle, hserved.manifest, hserved.faults, fun m rest' h => ?_⟩
    · rw [effects_andNow (a := .laneGo d) hask rfl]
      refine (effects_still (a := .laneGo d) (n := 0) (runLaneGo_filling (c := c) (n := n) (x := y) ?_ ?_ ?_ ?_ ?_) rfl).trans (effects_nil _ _)
      · rw [hlane]; exact hcur
      · rw [hserved.clip c hidle]; exact hx
      · rw [hlane, unitCount_eq, hone]
      · rw [hcq]; simp
      · rw [State.isFilling, hserved.slot, if_pos rfl]; rfl
    · obtain ⟨rfl, -⟩ := List.cons.inj h
      exact hserved

/-- A read lane from which nothing is withdrawn. -/
theorem State.withdrawJobs_none {s : State} {e : DestNo} {gone : ReadJob → Bool} (hno : ∀ job ∈ (s.dest e).rl.jobs, gone job = false)
    (hidle : (s.dest e).rl.active = none → (s.dest e).rl.jobs = []) : s.withdrawJobs gone e = s := by
  have hhead : (s.dest e).rl.jobs.head?.any gone = false := by
    cases hj : (s.dest e).rl.jobs with
    | nil => rfl
    | cons job rest => exact hno job (by rw [hj]; exact List.mem_cons_self)
  have hfilter : ((s.dest e).rl.jobs.filter fun r => !gone r) = (s.dest e).rl.jobs :=
    List.filter_eq_self.2 fun job hjob => by simp [hno job hjob]
  unfold State.withdrawJobs
  simp only [hhead, Bool.and_false, Bool.false_and, Bool.or_false, Bool.false_eq_true, if_false]
  rw [State.modDest_fixed (by simp only [hfilter]), State.activateRead]
  split
  · rfl
  · rename_i hact
    rw [Bool.not_eq_true, Option.isSome_eq_false_iff, Option.isNone_iff_eq_none] at hact
    rw [hidle hact]

theorem cutItems_none {filling : Nat → Bool} {l : List Item} (h : ∀ z ∈ l, z.cutsAt c filling = false) :
    cutItems c filling l = ([], l) := by
  induction l with
  | nil => rfl
  | cons z l ih =>
    rw [cutItems_cons, h z List.mem_cons_self, ih fun y hy => h y (List.mem_cons_of_mem _ hy)]
    rfl

theorem State.leaveReaders_of_none {s : State} (hno : ∀ e, ∀ job ∈ (s.dest e).rl.jobs, job ≠ .verify c ∧ ∀ k n, job ≠ .supply c k n d)
    (hidle : ∀ e, (s.dest e).rl.active = none → (s.dest e).rl.jobs = []) :
    s.leaveReaders c d = allPorts.foldl (fun s p => s.withdrawReads (suppliesCopy c d) p) s := by
  obtain ⟨-, v, hv⟩ := s.withdrawReads_ports (suppliesCopy c d) allPorts
  rw [State.leaveReaders, hv]
  refine List.foldl_fixed' (fun e => State.withdrawJobs_none (s := { s with ports := v }) (fun job hjob => ?_) (hidle e)) allDests
  obtain ⟨hverify, hsupply⟩ := hno e job hjob
  cases job with
  | verify a =>
    have : a ≠ c := fun h => hverify (by rw [h])
    simp [State.readsForCopy, this]
  | supply a k n f =>
    have : ¬(a = c ∧ f = d) := fun h => hsupply k n (by rw [h.1, h.2])
    simpa [State.readsForCopy] using this

theorem State.orphans_congr {s t : State} (hheld : t.ring.held = s.ring.held) (hcq : ∀ e, (t.dest e).cq = (s.dest e).cq) :
    t.orphans = s.orphans := by
  have ho (n : Nat) (y : Slot) : t.orphaned n y = s.orphaned n y := by simp only [State.orphaned, State.laneNames, hcq]
  simp only [State.orphans, hheld, ho]

/-- A copy without an item that waits for its slot is suspended, and no slot is freed. -/
theorem runSuspend_idle {k : Copy} {y : Clip} (hx : t.clip? c = some y) (hk : y.copies[d] = some k)
    (hitems : ∀ i ∈ (t.dest d).cq, i.clip ≠ c) (hcur : (t.dest d).lane.current = some c)
    (hreads : ∀ e, ∀ job ∈ (t.dest e).rl.jobs, job ≠ .verify c ∧ ∀ k n, job ≠ .supply c k n d)
    (hidle : ∀ e, (t.dest e).rl.active = none → (t.dest e).rl.jobs = []) (hwait : Requester.lane d ∉ t.ring.waitList) :
    ∃ v : State, runSuspend c d t = v.andNow [.freeSlots [], .settle y.job, .laneGo d]
      ∧ (∀ a, v.clip? a = if a = c then some { y with copies := y.copies.set d (some { k with suspended := true }) } else t.clip? a)
      ∧ (∀ e, v.dest e = if e = d then { t.dest d with lane := (t.dest d).lane.left (onlyCopy c d · d) } else t.dest e)
      ∧ v.ring = t.ring ∧ v.manifest = t.manifest ∧ v.faults = t.faults := by
  have hcut : cutItems c t.isFilling (t.dest d).cq = ([], (t.dest d).cq) := cutItems_none fun i hi => by
    simp [Item.cutsAt, hitems i hi]
  have hrun := runSuspend_cut hx hcut
  let t1 := t.suspending c d [] (t.dest d).cq
  obtain ⟨hclips, -, -, hman, hfaults, -, -⟩ := t.suspending_blocks c d [] (t.dest d).cq
  have hdest := t.dest_suspending c d [] (t.dest d).cq
  obtain ⟨w, hw, hwaits⟩ := (t.modCopy c d fun k => { k with suspended := true }).leaveLane_left c d
  have hring : t1.ring = t.ring := by
    rw [State.dest_modCopy, if_pos hcur, State.modCopy_ring] at hwaits
    have hfilter : (t.ring.waitList.filter (· ≠ .lane d)) = t.ring.waitList :=
      List.filter_eq_self.2 fun r hr => by simpa using fun h : r = Requester.lane d => hwait (h ▸ hr)
    rw [hfilter] at hwaits
    change ((t.modCopy c d fun k => { k with suspended := true }).leaveLane c d).ring = t.ring
    rw [hw, hwaits, State.modCopy_ring]
  have hrl (e : DestNo) : (t1.dest e).rl = (t.dest e).rl := by
    rw [hdest]
    split_ifs with he <;> [rw [he]; rfl]
  have hleave : t1.leaveReaders c d = _ := State.leaveReaders_of_none (fun e => by rw [hrl]; exact hreads e)
    fun e => by rw [hrl]; exact hidle e
  obtain ⟨-, v, hv⟩ := t1.withdrawReads_ports (State.suppliesCopy c d) allPorts
  rw [hv] at hleave
  obtain ⟨u, hu⟩ : ∃ u, t1.leaveReaders c d = u := ⟨_, rfl⟩
  rw [show (t.suspending c d [] (t.dest d).cq).leaveReaders c d = u from hu] at hrun
  rw [hu] at hleave
  have hdu (e : DestNo) : u.dest e = t1.dest e := by rw [hleave]; rfl
  have hcq (e : DestNo) : (u.dest e).cq = (t.dest e).cq := by
    rw [hdu, hdest]
    split_ifs with he <;> [rw [he]; rfl]
  have hru : u.ring = t.ring := by rw [hleave]; exact hring
  have hnone : u.orphansSince t = [] := by
    rw [State.orphansSince, State.orphans_congr (by rw [hru]) hcq]
    exact List.filter_eq_nil_iff.2 fun n hn => by simpa using hn
  rw [hnone] at hrun
  refine ⟨u, hrun, fun a => ?_, fun e => (hdu e).trans (hdest e), hru, by rw [hleave]; exact hman, by rw [hleave]; exact hfaults⟩
  have : u.clips = (t.modCopy c d fun k => { k with suspended := true }).clips := by rw [hleave]; exact hclips
  rw [State.clip_congr this, State.modCopy_of_some hx hk, State.clip_setClip]

namespace State.WalkStarts

variable (h : s.WalkStarts c d x b t)
include h

theorem dest_self : t.dest d = { s.dest d with
    binding := some { b with nextUnit := b.nextUnit + clipUnits x.length, nextTrailer := b.nextTrailer + 1 }
    lane := { (s.dest d).lane with
      copies := [c], current := some c, nextUnit := 0, cardOnly := true, sum := some (SumUnit.start x.length) } } :=
  (h.dest d).trans (if_pos rfl)

theorem clip_self : t.clip? c = some { x with copies := x.copies.set d (some (walkedCopy b (clipUnits x.length) false)) } :=
  (h.clip c).trans (if_pos rfl)

theorem copy_self : t.copy? c d = some (walkedCopy b (clipUnits x.length) false) :=
  State.copy_some_iff.2 ⟨_, clip_self h, Vector.getElem_set_self _⟩

theorem nextSource_iff (e : DestNo) : NextSource t d
    { x with copies := x.copies.set d (some (walkedCopy b (clipUnits x.length) false)) } [] e ↔ NextSource s d x [] e := by
  have hfits (f : DestNo) : (f ≠ d ∧ f ∉ ([] : List DestNo) ∧ (t.dest f).state = .active ∧ ∃ k,
        (x.copies.set d (some (walkedCopy b (clipUnits x.length) false)))[f] = some k ∧ k.state = .verified)
      ↔ f ≠ d ∧ f ∉ ([] : List DestNo) ∧ (s.dest f).state = .active ∧ ∃ k, x.copies[f] = some k ∧ k.state = .verified := by
    refine and_congr_right fun hf => ?_
    rw [h.dest, if_neg hf, show (x.copies.set d (some (walkedCopy b (clipUnits x.length) false)))[f] = x.copies[f] from
      (Vector.getElem_set_fin x.copies d f _).trans (if_neg hf)]
  exact and_congr (hfits e) (forall_congr' fun f => imp_congr_right fun _ => not_congr (hfits f))

variable (r : s.WalkReady c d x)
include r

theorem inUse : InUse (t.dest d) := by rw [dest_self h]; exact .inl r.active

/-- A clip without units: its trailer item at once. -/
theorem effects_noUnits (hzero : clipUnits x.length = 0) :
    ∃ u, effects false 2 [.laneGo d] t = some u ∧ t.WalkedOnly u c d ∧ u.copy? c d = t.copy? c d
      ∧ (u.dest d).cq = (s.dest d).cq ++ [Item.new c .trailer] ∧ (u.dest d).lane.current = none ∧ (u.dest d).lane.copies = [] := by
  have hd := dest_self h
  have hlen : x.length = 0 := by rw [clipUnits] at hzero; omega
  obtain ⟨u, heff, hwalk, hclips, hfaults⟩ := effects_walkEnds (inUse h r) (by rw [hd]) (clip_self h) (by rw [hd]; exact r.standing)
    (by rw [hd, hzero]) (by rw [hd]) (by rintro ⟨i, hi, hc, -⟩; rw [hd] at hi; exact r.items i hi hc)
    (by rintro ⟨-, hpos, -⟩; dsimp only at hpos; omega)
  have hdu := (hwalk.dest d).trans (if_pos rfl)
  refine ⟨u, heff, ⟨fun a _ => State.clip_congr hclips a, fun e _ => State.copy_congr hclips c e, hwalk.manifest, hfaults⟩,
    State.copy_congr hclips c d, ?_, ?_, ?_⟩ <;> rw [hdu, hd]
  simp

/-- The one unit's choice. -/
theorem runLaneGo_first (hone : clipUnits x.length = 1) : runLaneGo d t = chooseSource d c 0 t := by
  have hd := dest_self h
  have := runLaneGo_chooses (inUse h r) (by rw [hd]) (clip_self h) (by rw [hd]; exact r.standing) (by rw [hd, hone]; exact Nat.one_pos)
  rwa [hd] at this

/-- The one unit joins a STAGED slot, with its trailer behind it. -/
theorem effects_joined (hone : clipUnits x.length = 1) {n : Nat} {y : Slot} (hj : Joinable s d c 0 n y) :
    ∃ u, effects false 3 [.laneGo d] t = some u ∧ t.WalkedOnly u c d ∧ u.copy? c d = t.copy? c d
      ∧ (u.dest d).cq = (s.dest d).cq ++ [Item.new c (.data n), Item.new c .trailer]
      ∧ u.slot? n = some { y with pending := destInsert d y.pending }
      ∧ (u.dest d).lane.current = none ∧ (u.dest d).lane.copies = [] := by
  have hd := dest_self h
  have hj' : Joinable t d c 0 n y := by rw [Joinable, h.ring, State.slot_congr h.ring]; exact hj
  obtain ⟨v, hv, hjoins⟩ := chooseSource_joins (State.stagedFor_of_joinable (by rw [h.ring]; exact r.wf) hj')
  have hgo := (runLaneGo_first h r hone).trans hv
  have hdv := (hjoins.dest d).trans (if_pos rfl)
  rw [hd] at hdv
  have hslot : v.slot? n = some { y with pending := destInsert d y.pending } := by
    rw [hjoins.slot, if_pos rfl, hj'.1]; rfl
  obtain ⟨u, heff, hwalk, hclips, hfaults⟩ := effects_walkEnds (t := v) (c := c) (d := d) (by rw [hdv]; exact .inl r.active)
    (by rw [hdv]) ((State.clip_congr hjoins.clips c).trans (clip_self h)) (by rw [hdv]; exact r.standing) (by rw [hdv]; exact hone.le)
    (by rw [hdv]) (by
      rintro ⟨i, hi, hc, m, z, hk, hz, hst⟩
      rw [hdv, List.mem_append, List.mem_singleton] at hi
      rcases hi with hi | rfl
      · exact r.items i hi hc
      · obtain rfl : n = m := ItemKind.data.inj hk
        rw [hslot] at hz
        obtain rfl := Option.some.inj hz
        rw [hj.2.1.1] at hst; cases hst) (by rintro ⟨hcard, -⟩; rw [hdv] at hcard; cases hcard)
  have hdu := (hwalk.dest d).trans (if_pos rfl)
  have hclipsu := hclips.trans hjoins.clips
  refine ⟨u, ?_, ⟨fun a _ => State.clip_congr hclipsu a, fun e _ => State.copy_congr hclipsu c e, hwalk.manifest.trans hjoins.manifest,
    hfaults.trans hjoins.faults⟩, State.copy_congr hclipsu c d, ?_, ?_, ?_, ?_⟩
  · rw [effects_andNow (a := .laneGo d) hgo rfl]
    exact heff
  · rw [hdu, hdv]; simp
  · rw [State.slot?, hwalk.held]; exact hslot
  · rw [hdu]
  · rw [hdu, hdv]; simp

/-- The one unit is asked for at the card. -/
theorem effects_fromCard (hone : clipUnits x.length = 1) (hno : NoneJoinable s d c 0) (hport : (s.job x.job).boundPort.isSome) :
    ∃ u, effects false 2 [.laneGo d] t = some u ∧ t.WalkedOnly u c d ∧ u.copy? c d = t.copy? c d
      ∧ ∀ n rest, s.ring.freeList = n :: rest →
        t.LaneServed d n c 0 { x with copies := x.copies.set d (some (walkedCopy b (clipUnits x.length) false)) } .card u := by
  have hd := dest_self h
  have hno' : NoneJoinable t d c 0 := fun n y hj => hno n y (by rwa [Joinable, h.ring, State.slot_congr h.ring] at hj)
  have hrule := (chooseSource_rules (clip_self h) (State.stagedFor_none (by rw [h.ring]; exact r.wf) hno')).1
    (by exact (congrArg Option.isSome h.boundPort).trans hport)
  obtain ⟨u, heff, hclip, hman, hfaults, hserved⟩ := effects_askAndGo ((runLaneGo_first h r hone).trans hrule) (clip_self h) hone
    (by rw [hd]) (by rw [hd]; exact r.held) (by exact (congrArg Option.isSome h.boundPort).trans hport)
    (by rw [h.ring]; exact r.waits) nofun
  refine ⟨u, heff, ⟨fun a _ => hclip a, fun e _ => ?_, hman, hfaults⟩, ?_, fun n rest hfree => hserved n rest (by rw [h.ring]; exact hfree)⟩ <;>
    rw [State.copy?, hclip] <;> rfl

/-- The one unit is asked for at the next VERIFIED copy. -/
theorem effects_fromCopy (hone : clipUnits x.length = 1) (hno : NoneJoinable s d c 0) (hport : (s.job x.job).boundPort = none)
    {e : DestNo} (he : NextSource s d x [] e) :
    ∃ u, effects false 2 [.laneGo d] t = some u ∧ t.WalkedOnly u c d ∧ u.copy? c d = t.copy? c d
      ∧ ∀ n rest, s.ring.freeList = n :: rest → (clearMark d t).LaneServed d n c 0
        { x with copies := x.copies.set d (some (walkedCopy b (clipUnits x.length) false)) } (.dest e) u := by
  have hd := dest_self h
  have hno' : NoneJoinable t d c 0 := fun n y hj => hno n y (by rwa [Joinable, h.ring, State.slot_congr h.ring] at hj)
  have hrule := ((chooseSource_rules (clip_self h) (State.stagedFor_none (by rw [h.ring]; exact r.wf) hno')).2
    (h.boundPort.trans hport)).1 e ((nextSource_iff h e).2 he)
  have hclear := t.dest_clearMark d
  have hself := (hclear d).trans (if_pos rfl)
  have hother : (clearMark d t).dest e = s.dest e := by
    rw [hclear, if_neg he.1.1, h.dest, if_neg he.1.1]
  obtain ⟨u, heff, hclip, hman, hfaults, hserved⟩ := effects_askAndGo ((runLaneGo_first h r hone).trans hrule)
    ((show (clearMark d t).clip? c = t.clip? c from rfl).trans (clip_self h)) hone (by rw [hself, hd]) (by rw [hself, hd]; exact r.held) ⟨he.1.1, by rw [hother]; exact he.1.2.2.1⟩
    (by exact h.ring ▸ r.waits) fun f hf => by
      obtain rfl := Source.dest.inj hf
      rw [hother]; exact r.idle e
  refine ⟨u, heff, ⟨fun a _ => hclip a, fun e _ => ?_, hman, hfaults⟩, ?_,
    fun n rest hfree => hserved n rest (by exact (congrArg Ring.freeList h.ring).trans hfree)⟩ <;>
    rw [State.copy?, hclip] <;> rfl

/-- Without a source the copy is suspended. -/
theorem effects_noSource (hone : clipUnits x.length = 1) (hno : NoneJoinable s d c 0) (hport : (s.job x.job).boundPort = none)
    (hnone : ∀ e, ¬NextSource s d x [] e) :
    ∃ u, effects false 6 [.laneGo d] t = some u ∧ t.WalkedOnly u c d
      ∧ u.copy? c d = some (walkedCopy b (clipUnits x.length) true) ∧ (u.dest d).cq = (s.dest d).cq ∧ u.ring = s.ring
      ∧ (u.dest d).lane.current = none ∧ (u.dest d).lane.copies = [] := by
  have hd := dest_self h
  have hno' : NoneJoinable t d c 0 := fun n y hj => hno n y (by rwa [Joinable, h.ring, State.slot_congr h.ring] at hj)
  have hrule := ((chooseSource_rules (clip_self h) (State.stagedFor_none (by rw [h.ring]; exact r.wf) hno')).2
    (h.boundPort.trans hport)).2 fun e he => hnone e ((nextSource_iff h e).1 he)
  have hgo := (runLaneGo_first h r hone).trans hrule
  have hrl (e : DestNo) : (t.dest e).rl = (s.dest e).rl := by
    rw [h.dest]
    split_ifs with he <;> [rw [he]; rfl]
  obtain ⟨v, hv, hclip, hdest, hring, hman, hfaults⟩ := runSuspend_idle (clip_self h) (Vector.getElem_set_self _)
    (by rw [hd]; exact r.items) (by rw [hd]) (fun e => by rw [hrl]; exact r.reads e) (fun e => by rw [hrl]; exact r.idle e)
    (by rw [h.ring]; exact r.waits)
  obtain ⟨st, u, -, hto, hsettle⟩ := effects_settle v x.job
  have hclipu (a : Nat) := (State.clip_congr hto.clips a).trans (hclip a)
  have hlane : (u.dest d).lane.current = none ∧ (u.dest d).lane.copies = [] := by
    rw [State.dest_congr hto.dests, hdest, if_pos rfl, hd, Lane.left_only, if_pos rfl]
    simp [State.dropCurrent]
  refine ⟨u, ?_, ⟨fun a ha => (hclipu a).trans (if_neg ha), fun e he => ?_, hto.manifest.trans hman, hto.faults.trans hfaults⟩, ?_, ?_,
    hto.ring.trans (hring.trans h.ring), hlane⟩
  · rw [effects_andNow (a := .laneGo d) (n := 5) hgo rfl]
    refine (effects_andNow (a := .suspend c d) (n := 4) hv rfl).trans ?_
    refine (effects_still (a := .freeSlots []) (n := 3) rfl rfl).trans ?_
    exact hsettle (n := 1) ((effects_still (a := .laneGo d) (runLaneGo_idle hlane.2 hlane.1) rfl).trans (effects_nil _ _))
  · rw [State.copy?, hclipu, if_pos rfl, State.copy?, clip_self h]
    simp only [Vector.set_set]
    exact (Vector.getElem_set_fin _ d e _).trans ((if_neg he).trans ((Vector.getElem_set_fin _ d e _).trans (if_neg he)).symm)
  · rw [State.copy?, hclipu, if_pos rfl]
    simp only [Vector.set_set]
    exact Vector.getElem_set_self _
  · rw [State.dest_congr hto.dests, hdest, if_pos rfl, hd]

end State.WalkStarts

end

theorem joinable_unique {s : State} {d : DestNo} {c k n m : Nat} {y z : Slot} (hwf : Table.wf s.ring.held = true)
    (hn : Joinable s d c k n y) (hm : Joinable s d c k m z) : m = n ∧ z = y := by
  have hmn : m = n := Option.some.inj ((State.stagedFor_of_joinable hwf hm).symm.trans (State.stagedFor_of_joinable hwf hn))
  subst hmn
  exact ⟨rfl, Option.some.inj (hm.1.symm.trans hn.1)⟩

theorem copyAddIsWalked : CopyAddIsWalked := by
  intro tag c d x b s entry l units he hc hx hsup hno hact hb hroom htrailer hcopies hcur hstand hheld hitems hreads hidle hwf hwait
    hunits copy
  let s0 := s.quiet.owing entry tag 0x2B
  have r : s0.WalkReady c d x := ⟨hx, hact, hstand, hheld, hitems, hreads, hidle, hwf, hwait⟩
  obtain ⟨v, h, hfirst⟩ := addCopy_walkStarts (s := s0) hx hsup hact hb hroom htrailer hcopies hcur
  have hstate : x.state = .read ∨ x.state = .secured ∨ x.state = .unstable := by
    simpa [Supplied, State.clipState?, hx] using hsup
  have hrule : ruleCopyAdd c d.val s0 = .take [] (addCopy c d x s0) := ruleCopyAdd_taken hc hx hstate hno hact
  have finish {u : State} {n : Nat} (hn : n ≤ 6) (heff : effects false n [.laneGo d] v = some u) (hw : v.WalkedOnly u c d) :
      ∃ t, exec (.copyAdd tag c d.val) s = .next t ∧ u.Ends t
        ∧ s.link.AnswersTo t.link entry tag 0x2B [] ∧ (∀ e, e ≠ d → t.copy? c e = s.copy? c e)
        ∧ (∀ a, a ≠ c → t.clip? a = s.clip? a) ∧ t.plan = s.plan ∧ t.manifest = s.manifest ∧ t.faults = s.faults := by
    obtain ⟨t, hrun, hends, hplan, hlink⟩ := State.take_effects (s := s.quiet) (owner := fun _ s => ruleCopyAdd c d.val s) he
      hrule (by simp [addCopy, s0, Link.OnlyNotices.refl]) (n := n + 3) (by omega) (hfirst heff)
    refine ⟨t, (exec_copyAdd tag c d.val s).trans hrun, hends, hlink, fun e he => ?_, fun a ha => ?_, ?_, ?_, ?_⟩
    · rw [hends.copy, hw.copy e he, State.copy?, h.clip_self, State.copy?, hx]
      exact (Vector.getElem_set_fin _ d e _).trans (if_neg he)
    · exact (hends.clip a).trans ((hw.clip a ha).trans ((h.clip a).trans (if_neg ha)))
    · rw [hplan]; simp [addCopy, s0]
    · exact hends.manifest.trans (hw.manifest.trans h.manifest)
    · exact hends.faults.trans (hw.faults.trans h.faults)
  have hplaced {u t : State} (hends : u.Ends t) (hcopy : u.copy? c d = v.copy? c d) : t.copy? c d = some (copy false) :=
    (hends.copy c d).trans (hcopy.trans h.copy_self)
  rcases Nat.eq_or_lt_of_le hunits with hone | hzero
  swap
  · have hzero : units = 0 := by omega
    obtain ⟨u, heff, hw, hcopy, hcq, hcurrent, hlane⟩ := h.effects_noUnits r hzero
    obtain ⟨t, ht, hends, hlink, h1, h2, h3, h4, h5⟩ := finish (by omega) heff hw
    refine ⟨t, ht, hlink, h1, h2, h3, h4, h5, fun _ => ⟨hplaced hends hcopy, (hends.queue d .cq).trans hcq, ?_, ?_⟩, fun hone => ?_⟩
    · rw [hends.lane]; exact hcurrent
    · rw [hends.lane]; exact hlane
    · rw [hzero] at hone; cases hone
  have hnot : units = 0 → False := fun hz => by rw [hone] at hz; cases hz
  by_cases hjoin : ∃ n y, Joinable s d c 0 n y
  · obtain ⟨n, y, hj⟩ := hjoin
    obtain ⟨u, heff, hw, hcopy, hcq, hslot, hcurrent, hlane⟩ := h.effects_joined r hone hj
    obtain ⟨t, ht, hends, hlink, h1, h2, h3, h4, h5⟩ := finish (by omega) heff hw
    refine ⟨t, ht, hlink, h1, h2, h3, h4, h5, fun hz => (hnot hz).elim, fun _ => ⟨fun m z hm => ?_, fun hnone => absurd hj (hnone n y)⟩⟩
    obtain ⟨rfl, rfl⟩ := joinable_unique hwf hj hm
    refine ⟨hplaced hends hcopy, (hends.queue d .cq).trans hcq, ⟨_, (hends.slot _).trans hslot, fun e => mem_destInsert d e _⟩, ?_, ?_⟩
    · rw [hends.lane]; exact hcurrent
    · rw [hends.lane]; exact hlane
  have hnone : NoneJoinable s d c 0 := fun n y hj => hjoin ⟨n, y, hj⟩
  cases hport : (s.job x.job).boundPort with
  | some p =>
    obtain ⟨u, heff, hw, hcopy, hserved⟩ := h.effects_fromCard r hone hnone (by
      rw [show (s0.job x.job).boundPort = some p from hport]; rfl)
    obtain ⟨t, ht, hends, hlink, h1, h2, h3, h4, h5⟩ := finish (by omega) heff hw
    refine ⟨t, ht, hlink, h1, h2, h3, h4, h5, fun hz => (hnot hz).elim, fun _ => ⟨fun n y hj => absurd hj (hnone n y), fun _ =>
      ⟨fun q n more hq hfree => ?_, nofun⟩⟩⟩
    obtain rfl := Option.some.inj hq
    have hs := hserved n more hfree
    obtain ⟨hcq, -, hlane⟩ := hs.dest
    rw [h.dest_self] at hcq hlane
    refine ⟨hplaced hends hcopy, (hends.queue d .cq).trans hcq, (hends.slot n).trans ((hs.slot n).trans (if_pos rfl)), ?_, ?_, ?_⟩
    · rw [hends.lane, hlane]
    · rw [hends.lane, hlane]
    · obtain ⟨-, -, -, -, hfifo, -⟩ := hends.card p
      refine hfifo.trans ((hs.card p rfl (h.boundPort.trans hport)).trans ?_)
      rw [h.fifo]
      rfl
  | none =>
    by_cases hsource : ∃ e, NextSource s d x [] e
    · obtain ⟨e, hnext⟩ := hsource
      obtain ⟨u, heff, hw, hcopy, hserved⟩ := h.effects_fromCopy r hone hnone hport hnext
      obtain ⟨t, ht, hends, hlink, h1, h2, h3, h4, h5⟩ := finish (by omega) heff hw
      refine ⟨t, ht, hlink, h1, h2, h3, h4, h5, fun hz => (hnot hz).elim, fun _ => ⟨fun n y hj => absurd hj (hnone n y), fun _ =>
        ⟨nofun, fun _ => ⟨fun f n more hf hfree => ?_, fun hno => absurd hnext (hno e)⟩⟩⟩⟩
      obtain rfl : f = e := Option.some.inj ((State.verifiedSource_of_next (out := []) hx (fun _ => Iff.rfl) hf).symm.trans
        (State.verifiedSource_of_next (out := []) hx (fun _ => Iff.rfl) hnext))
      have hs := hserved n more hfree
      obtain ⟨hcq, -, hlane⟩ := hs.dest
      have hclear := v.dest_clearMark d
      rw [hclear, if_pos rfl, h.dest_self] at hcq hlane
      refine ⟨hplaced hends hcopy, (hends.queue d .cq).trans hcq, (hends.slot n).trans ((hs.slot n).trans (if_pos rfl)), ?_, ?_, ?_⟩
      · rw [hends.lane, hlane]
      · rw [hends.lane, hlane]
      · rw [hends.readJobs, hs.source f rfl, hclear, if_neg hf.1.1, h.dest, if_neg hf.1.1]
        rfl
    · obtain ⟨u, heff, hw, hcopy, hcq, hring, hcurrent, hlane⟩ := h.effects_noSource r hone hnone hport fun e he => hsource ⟨e, he⟩
      obtain ⟨t, ht, hends, hlink, h1, h2, h3, h4, h5⟩ := finish (by omega) heff hw
      refine ⟨t, ht, hlink, h1, h2, h3, h4, h5, fun hz => (hnot hz).elim, fun _ => ⟨fun n y hj => absurd hj (hnone n y), fun _ =>
        ⟨nofun, fun _ => ⟨fun f n more hf => absurd ⟨f, hf⟩ hsource, fun _ => ⟨(hends.copy c d).trans hcopy,
          (hends.queue d .cq).trans hcq, hends.ring.trans hring, ?_, ?_⟩⟩⟩⟩⟩
      · rw [hends.lane]; exact hcurrent
      · rw [hends.lane]; exact hlane

/-- Settles O42: the lane's three kinds of move, and the walk COPY_ADD sets off. -/
theorem lanesWalkTheirCopies : Obligations.LanesWalkTheirCopies :=
  ⟨laneTakesItsOldestCopy, laneChoosesItsSource, laneEndsItsWalk, copyAddIsWalked⟩

end Sys2Proof.Machine

/-! The loss of a destination with live copies, and of one that supplies another lane (R94; O40). -/

namespace Sys2Proof.Machine

/-! ### The slots that copies leave without a destination or an item -/

/-- A slot that the copies that are `gone` leave without a destination, or without an item in its lane. -/
def Slot.Forsaken (y : Slot) (s : State) (gone : Nat → DestNo → Bool) (n : Nat) : Prop :=
  (y.state = .staged ∧ y.pending ≠ [] ∧ ∀ e ∈ y.pending, gone y.clip e = true)
    ∨ (y.state = .filling ∧ ∃ e, y.owner = .lane e ∧ (∃ z ∈ (s.dest e).cq, z.kind = .data n)
      ∧ ∀ z ∈ (s.dest e).cq, z.kind = .data n → gone z.clip e = true)

theorem State.Leaves.mem_orphansSince {s t : State} {g : Nat → DestNo → Bool} (h : s.Leaves g t) (hs : Table.wf s.ring.held = true)
    {n : Nat} : n ∈ t.orphansSince s ↔ ∃ y, s.slot? n = some y ∧ y.Forsaken s g n := by
  have hwf : Table.wf t.ring.held = true := by
    have hkeys : t.ring.held.map Prod.fst = s.ring.held.map Prod.fst := by rw [h.held, List.map_map]; rfl
    rw [Table.wf_iff] at hs ⊢
    rwa [show Table.keys t.ring.held = Table.keys s.ring.held from hkeys]
  have hone (y : Slot) : t.orphaned n (y.left g) = true ∧ ¬s.orphaned n y = true ↔ y.Forsaken s g n := by
    cases hst : y.state with
    | staged =>
      have hleft : y.left g = { y with pending := y.pending.filter fun e => !g y.clip e } := if_pos hst
      simp [hleft, State.orphaned, hst, Slot.Forsaken, and_comm]
    | filling =>
      have hleft : y.left g = y := if_neg (by rw [hst]; decide)
      rw [hleft]
      cases hown : y.owner with
      | job j => simp [State.orphaned, hst, hown, Slot.Forsaken]
      | lane e =>
        obtain ⟨a, hd⟩ := h.dest e
        have hcq : (t.dest e).cq = (s.dest e).cq.filter fun i => !g i.clip e := by rw [hd]; rfl
        simp only [State.orphaned, hst, hown, Slot.Forsaken, State.laneNames, hcq, Item.names, reduceCtorEq, false_and, false_or,
          true_and, Requester.lane.injEq, exists_eq_left', Bool.not_eq_true', List.any_eq_false,
          List.mem_filter, decide_eq_true_eq]
        constructor
        · rintro ⟨hno, hex⟩
          refine ⟨?_, fun z hz hk => by simpa using fun hg => hno z ⟨hz, hg⟩ hk⟩
          by_contra hnone
          exact hex fun z hz hk => hnone ⟨z, hz, hk⟩
        · rintro ⟨⟨z, hz, hk⟩, hall⟩
          exact ⟨fun z hz hk => by simp [hall z hz.1 hk] at hz, fun hno => hno z hz hk⟩
  rw [State.mem_orphansSince, State.mem_orphans_iff, State.mem_orphans_iff]
  simp only [State.mem_held_iff hs, State.mem_held_iff hwf, h.slot]
  cases hy : s.slot? n with
  | none => simp
  | some y =>
    simp only [Option.map_some, Option.some.injEq, exists_eq_left']
    exact hone y

/-- Copies gone in two turns. -/
theorem Slot.forsaken_or {s u : State} {g g' : Nat → DestNo → Bool} {y : Slot} {n : Nat}
    (hcq : ∀ e, (u.dest e).cq = (s.dest e).cq.filter fun i => !g i.clip e) :
    y.Forsaken s (fun b e => g b e || g' b e) n ↔ y.Forsaken s g n ∨ (¬y.Forsaken s g n ∧ (y.left g).Forsaken u g' n) := by
  cases hst : y.state with
  | staged =>
    have hleft : y.left g = { y with pending := y.pending.filter fun e => !g y.clip e } := if_pos hst
    simp only [Slot.Forsaken, hleft, hst, true_and, reduceCtorEq, false_and, or_false]
    constructor
    · rintro ⟨hne, hall⟩
      by_cases hg : ∀ e ∈ y.pending, g y.clip e = true
      · exact .inl ⟨hne, hg⟩
      · push Not at hg
        obtain ⟨e, he, hge⟩ := hg
        refine .inr ⟨fun h => hge (h.2 e he), List.ne_nil_of_mem (List.mem_filter.2 ⟨he, by simpa using hge⟩), fun f hf => ?_⟩
        obtain ⟨hf, hgf⟩ := List.mem_filter.1 hf
        have := hall f hf
        simpa [show g y.clip f = false by simpa using hgf] using this
    · rintro (⟨hne, hall⟩ | ⟨-, hne, hall⟩)
      · exact ⟨hne, fun e he => by rw [hall e he]; rfl⟩
      · refine ⟨fun h => hne (by rw [h]; rfl), fun e he => ?_⟩
        by_cases hg : g y.clip e = true
        · rw [hg]; rfl
        · rw [hall e (List.mem_filter.2 ⟨he, by simpa using hg⟩), Bool.or_true]
  | filling =>
    have hleft : y.left g = y := if_neg (by rw [hst]; decide)
    rw [hleft]
    cases hown : y.owner with
    | job j => simp [Slot.Forsaken, hst, hown]
    | lane e =>
      simp only [Slot.Forsaken, hst, hown, reduceCtorEq, false_and, false_or, true_and, Requester.lane.injEq, exists_eq_left', hcq,
        List.mem_filter]
      constructor
      · rintro ⟨hne, hall⟩
        by_cases hg : ∀ z ∈ (s.dest e).cq, z.kind = .data n → g z.clip e = true
        · exact .inl ⟨hne, hg⟩
        · push Not at hg
          obtain ⟨z, hz, hk, hge⟩ := hg
          refine .inr ⟨fun h => hge (h.2 z hz hk), ⟨z, ⟨hz, by simpa using hge⟩, hk⟩, fun z' hz' hk' => ?_⟩
          have := hall z' hz'.1 hk'
          simpa [show g z'.clip e = false by simpa using hz'.2] using this
      · rintro (⟨hne, hall⟩ | ⟨-, ⟨z, hz, hk⟩, hall⟩)
        · exact ⟨hne, fun z hz hk => by rw [hall z hz hk]; rfl⟩
        · refine ⟨⟨z, hz.1, hk⟩, fun z hz hk => ?_⟩
          by_cases hg : g z.clip e = true
          · rw [hg]; rfl
          · rw [hall z ⟨hz, by simpa using hg⟩ hk, Bool.or_true]

theorem State.Mute.of_notStalled {s : State} {r : Requester} (h : NotStalled s r) : s.Mute r := by
  cases r <;> exact .inr h

theorem Lane.held_left (l : Lane) (g : Nat → Bool) : (l.left g).held = l.held := by
  cases hcur : l.current.any g <;> simp [Lane.left, State.dropCurrent, hcur]

/-- A lane that copies leave comes to no request. -/
theorem Lane.standing_left {l : Lane} {g : Nat → Bool} (h : (l.left g).standing.isSome) : l.standing.isSome := by
  cases hcur : l.current.any g <;> simp only [Lane.left, State.dropCurrent, hcur, if_true, Bool.false_eq_true, if_false] at h
  · exact h
  · cases h

theorem State.Leaves.notStalled {s t : State} {g : Nat → DestNo → Bool} (h : s.Leaves g t) (hs : ∀ r, NotStalled s r)
    (r : Requester) : NotStalled t r := by
  cases r with
  | job j => rw [NotStalled, State.job_congr h.jobs]; exact hs (.job j)
  | lane e =>
    obtain ⟨a, hd⟩ := h.dest e
    rw [NotStalled, hd]
    intro hst
    have hheld : ((s.dest e).left (g · e) a).lane.held = (s.dest e).lane.held := Lane.held_left _ _
    exact hheld ▸ hs (.lane e) (Lane.standing_left hst)

/-! ### The lost destination's live copies aborted in turn -/

/-- A destination with another count of slots its lane holds. -/
def DestPort.withHeld (x : DestPort) (h : Nat) : DestPort := { x with lane := { x.lane with held := h } }

theorem DestPort.left_withHeld (x : DestPort) (g : Nat → Bool) (a : Bool) (h : Nat) :
    (x.withHeld h).left g a = (x.left g a).withHeld h := by
  cases hcur : x.lane.current.any g <;> simp [DestPort.withHeld, DestPort.left, Lane.left, State.dropCurrent, hcur]

theorem DestPort.left_left (x : DestPort) (g g' : Nat → Bool) (a b : Bool) :
    (x.left g a).left g' b = x.left (fun c => g c || g' c) b := by
  simp only [DestPort.left, Lane.left_left, List.filter_filter, filter_option_filter, Vector.map_map, Function.comp_def,
    Bool.not_or, Bool.and_comm]

/-- What aborting the copies that are `gone` has left, the slots `F` freed and their jobs settled. -/
structure State.LostSoFar (s : State) (gone : Nat → DestNo → Bool) (F : List Nat) (u : State) : Prop where
  dest : ∀ e, ∃ a, u.dest e
    = ((s.dest e).left (gone · e) a).withHeld ((s.dest e).lane.held - (s.ownedIn (.lane e) F).length)
  port : ∀ p, ∃ a r, u.port p = { s.port p with
    fifo := (s.port p).fifo.filter fun i => !i.work.suppliesAny gone
    abandoned := a
    released := r }
  slot : ∀ n, u.slot? n = if n ∈ F then none else (s.slot? n).map (·.left gone)
  freed : ∀ n ∈ F, n ∈ u.ring.freeList
  nodup : F.Nodup
  mem : ∀ n, n ∈ F ↔ ∃ y, s.slot? n = some y ∧ y.Forsaken s gone n
  copy : ∀ b e, u.copy? b e = if gone b e then (s.copy? b e).map fun k => { k with state := .aborted } else s.copy? b e
  clip : ∀ b x, s.clip? b = some x → ∃ v, u.clip? b = some { x with copies := v }
  free : ∀ b, s.clip? b = none → u.clip? b = none
  job : ∀ j, ∃ st, u.job j = { s.job j with
    held := (s.job j).held - (s.ownedIn (.job j) F).length
    state := st } ∧ (st = .running → (s.job j).state = .running)
  waitList : u.ring.waitList = []
  sound : u.ring.Sound
  manifest : u.manifest = s.manifest
  faults : u.faults = s.faults

theorem State.LostSoFar.refl {s : State} (hwait : s.ring.waitList = []) (hsound : s.ring.Sound) :
    s.LostSoFar (fun _ _ => false) [] s := by
  refine ⟨fun e => ⟨(s.dest e).abandoned, ?_⟩, fun p => ⟨(s.port p).abandoned, (s.port p).released, ?_⟩, fun n => ?_, nofun, List.nodup_nil,
    fun n => ⟨nofun, ?_⟩, fun _ _ => rfl, fun b x hx => ⟨x.copies, hx⟩, fun _ => id, fun j => ⟨_, rfl, id⟩, hwait, hsound, rfl, rfl⟩
  · rw [DestPort.left_none]; rfl
  · simp [ReaderWork.suppliesAny_none]
  · simp [Slot.left_none]
  · rintro ⟨y, -, ⟨-, hne, hall⟩ | ⟨-, e, -, ⟨z, hz, hk⟩, hall⟩⟩
    · obtain ⟨e, he⟩ := List.exists_mem_of_ne_nil _ hne
      exact absurd (hall e he) Bool.false_ne_true
    · exact absurd (hall z hz hk) Bool.false_ne_true

theorem State.ownedIn_append (s : State) (r : Requester) (l m : List Nat) : s.ownedIn r (l ++ m) = s.ownedIn r l ++ s.ownedIn r m :=
  List.filter_append ..

theorem State.Settled.ne_running {s : State} {j : JobNo} {st : JobState} (h : s.Settled j st) (hst : st = .running) :
    (s.job j).state = .running := by
  rw [State.Settled] at h
  split_ifs at h with hd
  · obtain ⟨h1, h2, h3, h4⟩ := h
    by_cases hall : s.AllSettled j
    · by_cases hun : s.Untaken j
      · rw [h3 hall hun] at hst; cases hst
      · rw [h4 hall hun] at hst; cases hst
    · by_cases hm : s.Moving j
      · rw [h1 hall hm] at hst; cases hst
      · rw [h2 hall hm] at hst; cases hst
  · exact h ▸ hst

/-- What a loss finds at the other destinations and in the jobs. -/
structure State.LossQuiet (s : State) : Prop where
  reads : s.ReadsRest
  calm : ∀ r, NotStalled s r
  spares : ∀ j snap, (s.job j).snapshot = some snap → snap.spares.length ≤ 4 ∧ ∀ e ∈ snap.spares, (s.dest e).state ≠ .active

namespace State.LostSoFar

variable {s u : State} {gone : Nat → DestNo → Bool} {F : List Nat} (h : s.LostSoFar gone F u)
include h

theorem destState (e : DestNo) : (u.dest e).state = (s.dest e).state := by
  obtain ⟨a, hd⟩ := h.dest e
  rw [hd]; rfl

theorem readsRest (hs : s.ReadsRest) : u.ReadsRest := fun e => by
  obtain ⟨a, hd⟩ := h.dest e
  rw [hd]; exact hs e

theorem snapshot (j : JobNo) : (u.job j).snapshot = (s.job j).snapshot := by
  obtain ⟨st, hj, -⟩ := h.job j
  rw [hj]

theorem cq (e : DestNo) : (u.dest e).cq = (s.dest e).cq.filter fun i => !gone i.clip e := by
  obtain ⟨a, hd⟩ := h.dest e
  rw [hd]; rfl

/-- Nobody comes to stand at its limit. -/
theorem notStalled (hs : ∀ r, NotStalled s r) (r : Requester) : NotStalled u r := by
  cases r with
  | job j =>
    obtain ⟨st, hj, hst⟩ := h.job j
    rw [NotStalled, hj]
    exact fun hrun => lt_of_le_of_lt (Nat.sub_le _ _) (hs (.job j) (hst hrun))
  | lane e =>
    obtain ⟨a, hd⟩ := h.dest e
    have hstand : (u.dest e).lane.standing.isSome → (s.dest e).lane.standing.isSome := by
      rw [hd]
      exact Lane.standing_left
    have hheld : (u.dest e).lane.held = (s.dest e).lane.held - (s.ownedIn (.lane e) F).length := by rw [hd]; rfl
    exact fun hs' => hheld ▸ lt_of_le_of_lt (Nat.sub_le _ _) (hs (.lane e) (hstand hs'))

end State.LostSoFar

/-- A copy just aborted, its slots freed. -/
theorem State.LostSoFar.aborted {s u : State} {gone : Nat → DestNo → Bool} {F : List Nat} (h : s.LostSoFar gone F u)
    (hs : s.LossQuiet) {c : Nat} {d : DestNo} (hlive : u.liveCopy c d = true) :
    ∃ F' v, s.LostSoFar (fun b e => gone b e || onlyCopy c d b e) (F ++ F') v
      ∧ (∀ j, (v.job j).state = (u.job j).state)
      ∧ ∀ {n ts w}, effects false n (ts ++ [.laneGo d]) v = some w → effects false (n + 2 + 3 * F'.length) (.abort c d :: ts) u = some w := by
  let u1 := u.abortCopy c d
  have ha : u.Aborts (onlyCopy c d) u1 := (State.abortCopy_aborts (h.readsRest hs.reads) c d).congr fun b e => by
    by_cases hbe : b = c ∧ e = d
    · obtain ⟨rfl, rfl⟩ := hbe; simp [onlyCopy, hlive]
    · simp [onlyCopy, hbe]
  let F' := u1.orphansSince u
  have hsound1 := ha.leaves.sound h.sound
  have hF' (n : Nat) : n ∈ F' ↔ ∃ y, u.slot? n = some y ∧ y.Forsaken u (onlyCopy c d) n := ha.leaves.mem_orphansSince h.sound.1
  have hf := State.freeAll_freed F' (State.nodup_orphansSince hsound1) u1
  let v := u1.freeAll F'
  have hslot (n : Nat) (hn : n ∉ F) : u.slot? n = (s.slot? n).map (·.left gone) := (h.slot n).trans (if_neg hn)
  have hmem (n : Nat) (hn : n ∈ F') : n ∉ F ∧ ∃ y, s.slot? n = some y ∧ (y.left gone).Forsaken u (onlyCopy c d) n := by
    obtain ⟨y', hy', hfor⟩ := (hF' n).1 hn
    have hnF : n ∉ F := fun hF => by rw [h.slot, if_pos hF] at hy'; cases hy'
    rw [hslot n hnF] at hy'
    obtain ⟨y, hy, rfl⟩ := Option.map_eq_some_iff.1 hy'
    exact ⟨hnF, y, hy, hfor⟩
  have howned (r : Requester) : u1.ownedIn r F' = s.ownedIn r F' := List.filter_congr fun n hn => by
    obtain ⟨hnF, y, hy, -⟩ := hmem n hn
    rw [ha.leaves.slot, hslot n hnF, hy]
    simp
  have hwait1 : u1.ring.waitList = [] := List.sublist_nil.1 (h.waitList ▸ ha.leaves.waitList)
  have hjob1 (j : JobNo) : u1.job j = u.job j := State.job_congr ha.leaves.jobs j
  have hcalm1 (r : Requester) : NotStalled u1 r := ha.leaves.notStalled (h.notStalled hs.calm) r
  refine ⟨F', v, ⟨fun e => ?dest, fun p => ?port, fun n => ?slot, fun n hn => ?freed, ?nodup, fun n => ?mem, fun b e => ?copy,
    fun b x hx => ?clip, fun b hb => ?free, fun j => ?job, ?waitList, hf.sound hsound1, ?manifest, ?faults⟩, fun j => ?jobState,
    fun {n ts w} heff => ?run⟩
  case dest =>
    obtain ⟨a, hd⟩ := h.dest e
    obtain ⟨b, hd1⟩ := ha.leaves.dest e
    refine ⟨b, ?_⟩
    rw [show v.dest e = _ from hf.dest e, hd1, hd, DestPort.left_withHeld, DestPort.left_left, howned, State.ownedIn_append,
      List.length_append, ← Nat.sub_sub]
    rfl
  case port =>
    obtain ⟨a, r, hp⟩ := h.port p
    obtain ⟨b, hp1⟩ := ha.leaves.port p
    refine ⟨b, r, ?_⟩
    rw [show v.port p = u1.port p from State.port_congr hf.ports p, hp1, hp]
    simp only [List.filter_filter, ReaderWork.suppliesAny_or, Bool.not_or, Bool.and_comm]
  case slot =>
    rw [show v.slot? n = _ from hf.slot n, ha.leaves.slot, h.slot]
    by_cases hF : n ∈ F
    · simp [hF]
    · by_cases hn : n ∈ F'
      · simp [hn]
      · simp only [hn, hF, if_false, List.mem_append, or_self, Option.map_map, Function.comp_def, Slot.left_left]
  case freed =>
    rw [show v.ring.freeList = _ from hf.freeList, List.mem_append, ha.leaves.freeList]
    rcases List.mem_append.1 hn with hn | hn
    · exact .inl (h.freed n hn)
    · refine .inr (List.mem_filter.2 ⟨hn, ?_⟩)
      obtain ⟨hnF, y, hy, -⟩ := hmem n hn
      rw [ha.leaves.slot, hslot n hnF, hy]; rfl
  case nodup =>
    exact List.nodup_append'.2 ⟨h.nodup, State.nodup_orphansSince hsound1, fun n hn hn' => (hmem n hn').1 hn⟩
  case mem =>
    rw [List.mem_append]
    constructor
    · rintro (hn | hn)
      · obtain ⟨y, hy, hfor⟩ := (h.mem n).1 hn
        exact ⟨y, hy, (Slot.forsaken_or h.cq).2 (.inl hfor)⟩
      · obtain ⟨hnF, y, hy, hfor⟩ := hmem n hn
        exact ⟨y, hy, (Slot.forsaken_or h.cq).2 (.inr ⟨fun hf => hnF ((h.mem n).2 ⟨y, hy, hf⟩), hfor⟩)⟩
    · rintro ⟨y, hy, hfor⟩
      rcases (Slot.forsaken_or h.cq).1 hfor with hfor | ⟨hno, hfor⟩
      · exact .inl ((h.mem n).2 ⟨y, hy, hfor⟩)
      · have hnF : n ∉ F := fun hF => by
          obtain ⟨y', hy', hf'⟩ := (h.mem n).1 hF
          obtain rfl := Option.some.inj (hy.symm.trans hy')
          exact hno hf'
        exact .inr ((hF' n).2 ⟨y.left gone, by rw [hslot n hnF, hy]; rfl, hfor⟩)
  case copy =>
    rw [State.copy_congr hf.clips, ha.copy, h.copy]
    by_cases hg : gone b e = true
    · cases onlyCopy c d b e <;> simp [hg, Function.comp_def]
    · simp [hg]
  case clip =>
    obtain ⟨w, hw⟩ := h.clip b x hx
    obtain ⟨w', hw'⟩ := ha.clip b _ hw
    exact ⟨w', (State.clip_congr hf.clips b).trans hw'⟩
  case free => exact (State.clip_congr hf.clips b).trans (ha.free b (h.free b hb))
  case job =>
    obtain ⟨st, hj, hst⟩ := h.job j
    refine ⟨st, ?_, hst⟩
    rw [show v.job j = _ from hf.job j, hjob1, hj, howned, State.ownedIn_append, List.length_append, ← Nat.sub_sub]
  case waitList => exact hf.waitList.trans hwait1
  case manifest => exact hf.manifest.trans (ha.leaves.manifest.trans h.manifest)
  case faults => exact hf.faults.trans (ha.leaves.faults.trans h.faults)
  case jobState =>
    rw [show v.job j = _ from hf.job j, hjob1]
  case run =>
    have hrun : runAbort c d u = ⟨u1, [.freeSlots F'], [.laneGo d]⟩ := rfl
    rw [show n + 2 + 3 * F'.length = (n + 1 + 3 * F'.length) + 1 by omega, effects_cons (t := .abort c d) hrun rfl]
    exact effects_freeSlots_mute (ts := ts ++ [.laneGo d]) F' hwait1 (fun m _ y _ => .of_notStalled (hcalm1 y.owner)) heff

end Sys2Proof.Machine

/-! The loss of a destination with live copies: each aborted in turn, its job settled (R94; O40). -/

namespace Sys2Proof.Machine

/-- The copies on `d` of the clips `done`. -/
def goneOn (d : DestNo) (done : List Nat) (b : Nat) (e : DestNo) : Bool := decide (e = d ∧ b ∈ done)

theorem State.clipState_of {s : State} {b : Nat} {x : Clip} (h : s.clip? b = some x) : s.clipState? b = some x.state := by
  rw [State.clipState?, h]; rfl

namespace State.LostSoFar

variable {s u v : State} {gone gone' : Nat → DestNo → Bool} {F : List Nat}

theorem congr (h : s.LostSoFar gone F u) (hg : ∀ b e, gone b e = gone' b e) : s.LostSoFar gone' F u := by
  rwa [show gone = gone' from funext fun b => funext (hg b)] at h

/-- The settling check between two copies. -/
theorem settled (h : s.LostSoFar gone F u) {j : JobNo} {st : JobState} (hst : u.Settled j st) (hto : u.SettlesTo j st v) :
    s.LostSoFar gone F v := by
  have hslot (n : Nat) : v.slot? n = u.slot? n := State.slot_congr hto.ring n
  refine ⟨fun e => ?_, fun p => ?_, fun n => (hslot n).trans (h.slot n), fun n hn => hto.ring ▸ h.freed n hn, h.nodup, h.mem,
    fun b e => (State.copy_congr hto.clips b e).trans (h.copy b e), fun b x hx => ?_,
    fun b hb => (State.clip_congr hto.clips b).trans (h.free b hb), fun i => ?_, hto.ring ▸ h.waitList, hto.ring ▸ h.sound,
    hto.manifest.trans h.manifest, hto.faults.trans h.faults⟩
  · obtain ⟨a, ha⟩ := h.dest e
    exact ⟨a, (State.dest_congr hto.dests e).trans ha⟩
  · obtain ⟨a, r, hp⟩ := h.port p
    rw [hto.port, hp]
    split_ifs
    · exact ⟨a, _, rfl⟩
    · exact ⟨a, r, rfl⟩
  · obtain ⟨w, hw⟩ := h.clip b x hx
    exact ⟨w, (State.clip_congr hto.clips b).trans hw⟩
  · obtain ⟨st', hj, hrun⟩ := h.job i
    rw [hto.job]
    split_ifs with hi
    · subst hi
      refine ⟨st, by rw [hj], fun hr => hrun ?_⟩
      have := hst.ne_running hr
      rwa [hj] at this
    · exact ⟨st', hj, hrun⟩

/-- No clip's state changes. -/
theorem allSettled (h : s.LostSoFar gone F u) {j : JobNo} (hall : u.AllSettled j) : s.AllSettled j := by
  intro b hb
  obtain ⟨st, hj, -⟩ := h.job j
  have := hall b (by rw [hj]; exact hb)
  cases hx : s.clip? b with
  | none => simp [State.clipState?, h.free b hx] at this
  | some x =>
    obtain ⟨w, hw⟩ := h.clip b x hx
    rw [State.clipState_of hw] at this
    rwa [State.clipState_of hx]

end State.LostSoFar

/-! ### The enlistment that finds no spare -/

/-- Enlistment with no spare ACTIVE: the clip's job is settled, the spares' lanes go on. -/
theorem State.LostSoFar.enlisted {s u : State} {gone : Nat → DestNo → Bool} {F : List Nat} (h : s.LostSoFar gone F u)
    (hs : s.LossQuiet) {c : Nat} {x : Clip} (hx : s.clip? c = some x) :
    ∃ (l : List DestNo) (v : State), l.length ≤ 4 ∧ s.LostSoFar gone F v ∧ v.clips = u.clips
      ∧ (∀ i, i ≠ x.job → (v.job i).state = (u.job i).state)
      ∧ (u.Settled x.job (v.job x.job).state ∨ (s.job x.job).snapshot = none)
      ∧ ∀ {n ts w}, effects false n (ts ++ l.map Task.laneGo) v = some w → effects false (n + 3) (.enlist c :: ts) u = some w := by
  obtain ⟨copies, hux⟩ := h.clip c x hx
  have hsnapshot := h.snapshot x.job
  cases hsnap : (s.job x.job).snapshot with
  | none =>
    have hrun : runEnlist c u = u.still := by simp only [runEnlist, hux, hsnapshot, hsnap]
    refine ⟨[], u, by simp, h, rfl, fun _ _ => rfl, .inr rfl, fun {n ts w} heff => ?_⟩
    rw [effects_still (a := .enlist c) (n := n + 2) hrun rfl]
    exact effects_mono (n := n) (by omega) (by simpa using heff)
  | some snap =>
    obtain ⟨st, v, hst, hto, heff⟩ := effects_settle u x.job
    have hstate : (v.job x.job).state = st := by rw [hto.job, if_pos rfl]
    have hother (i : JobNo) (hi : i ≠ x.job) : (v.job i).state = (u.job i).state := by rw [hto.job, if_neg hi]
    obtain ⟨hlen, hspares⟩ := hs.spares _ _ hsnap
    have hfold : snap.spares.foldl (enlistAt c snap.r) u = u :=
      foldl_enlistAt_still hux (.inr fun e he hq => hspares e he (h.destState e ▸ hq.1))
    by_cases hread : x.state = .reading ∨ x.state = .read
    · have hrun : runEnlist c u = ⟨u, [.settle x.job], snap.spares.map .laneGo⟩ := by
        simp only [runEnlist, hux, hsnapshot, hsnap, hread, if_true, hfold]
      refine ⟨snap.spares, v, hlen, h.settled hst hto, hto.clips, hother, .inl (hstate ▸ hst), fun {n ts w} hw => ?_⟩
      rw [effects_cons (t := .enlist c) (n := n + 2) hrun rfl]
      exact heff hw
    · have hrun : runEnlist c u = u.andNow [.settle x.job] := by
        simp only [runEnlist, hux, hsnapshot, hsnap, hread, if_false]
      refine ⟨[], v, by simp, h.settled hst hto, hto.clips, hother, .inl (hstate ▸ hst), fun {n ts w} hw => ?_⟩
      rw [effects_andNow (a := .enlist c) (n := n + 2) hrun rfl]
      exact heff (by simpa using hw)

/-! ### The live copies in turn -/

/-- A DRAINING job with an unsettled clip, the records of its clips its own. -/
def State.Drained (s : State) (j : JobNo) : Prop :=
  (s.job j).state = .draining ∧ (s.job j).snapshot.isSome ∧ ¬s.AllSettled j
    ∧ ∀ b ∈ (s.job j).clips, ∀ z, s.clip? b = some z → z.job = j

/-- What aborting the copies of the clips `done` on `d` has left: a DRAINING job one of whose clips was among them is HELD
unless a live copy of it is in motion. -/
structure State.LossGoes (s : State) (d : DestNo) (done : List Nat) (F : List Nat) (u : State) : Prop where
  so_far : s.LostSoFar (goneOn d done) F u
  drained : ∀ j, s.Drained j → ((u.job j).state = .draining ∨ (u.job j).state = .held)
    ∧ ((∃ b ∈ done, b ∈ (s.job j).clips) → ¬u.Moving j → (u.job j).state = .held)

theorem goneOn_append (d : DestNo) (done : List Nat) (c b : Nat) (e : DestNo) :
    (goneOn d done b e || onlyCopy c d b e) = goneOn d (done ++ [c]) b e := by
  simp only [goneOn, onlyCopy, List.mem_append, List.mem_singleton, Bool.decide_and, Bool.decide_or]
  cases decide (e = d) <;> simp

theorem State.LossGoes.next {s u : State} {d : DestNo} {done F : List Nat} (h : s.LossGoes d done F u) (hs : s.LossQuiet)
    {c : Nat} (hc : c ∉ done) (hlive : s.liveCopy c d = true) :
    ∃ (F' : List Nat) (l : List DestNo) (v : State), l.length ≤ 5 ∧ s.LossGoes d (done ++ [c]) (F ++ F') v
      ∧ ∀ {n ts w}, effects false n (ts ++ l.map Task.laneGo) v = some w →
        effects false (n + 5 + 3 * F'.length) (.abort c d :: .enlist c :: ts) u = some w := by
  have hulive : u.liveCopy c d = true := by
    rw [State.liveCopy, h.so_far.copy, goneOn, if_neg (by simp [hc])]; exact hlive
  obtain ⟨k, hk, -⟩ := (Option.any_eq_true _ _).1 hlive
  obtain ⟨x, hx, -⟩ := State.copy_some_iff.1 hk
  obtain ⟨F', u1, h1, hstate1, heff1⟩ := h.so_far.aborted hs hulive
  replace h1 := h1.congr (goneOn_append d done c)
  obtain ⟨l, v, hlen, hv, hclips, hother, hset, heff⟩ := h1.enlisted hs hx
  refine ⟨F', d :: l, v, Nat.succ_le_succ hlen, ⟨hv, fun j hj => ?_⟩, fun {n ts w} hw => ?_⟩
  · obtain ⟨hdr, hsnap, hno, hown⟩ := hj
    obtain ⟨hst, hheld⟩ := h.drained j ⟨hdr, hsnap, hno, hown⟩
    have hjobs1 (i : JobNo) : (u1.job i).clips = (v.job i).clips := by
      obtain ⟨a, ha, -⟩ := h1.job i
      obtain ⟨b, hb, -⟩ := hv.job i
      rw [ha, hb]
    have hmoving : v.Moving j ↔ u1.Moving j := by
      simp only [State.Moving, hjobs1, State.copy_congr hclips]
    by_cases hxj : x.job = j
    · subst hxj
      have hset := hset.resolve_right fun hnone => by rw [hnone] at hsnap; cases hsnap
      rw [State.Settled, hstate1, if_pos hst] at hset
      obtain ⟨hm, hnm, -, -⟩ := hset
      have hno1 : ¬u1.AllSettled x.job := fun hall => hno (h1.allSettled hall)
      rw [hmoving]
      exact ⟨(em (u1.Moving x.job)).imp (hm hno1) (hnm hno1), fun _ => hnm hno1⟩
    · have hvu : (v.job j).state = (u.job j).state := (hother j (Ne.symm hxj)).trans (hstate1 j)
      have hcj : c ∉ (s.job j).clips := fun hc => hxj (hown c hc x hx)
      rw [hvu]
      refine ⟨hst, fun ⟨b, hb, hbj⟩ hnm => hheld ⟨b, ?_, hbj⟩ fun hmu => hnm (hmoving.2 ?_)⟩
      · exact (List.mem_append.1 hb).resolve_right fun hbc => hcj (List.mem_singleton.1 hbc ▸ hbj)
      · obtain ⟨b, hb, e, k, hk, hkl⟩ := hmu
        obtain ⟨a, ha, -⟩ := h.so_far.job j
        obtain ⟨a1, ha1, -⟩ := h1.job j
        rw [ha] at hb
        refine ⟨b, by rw [ha1]; exact hb, e, k, ?_, hkl⟩
        have hbc : b ≠ c := fun hbc => hcj (hbc ▸ hb)
        rw [h1.copy, ← hk, h.so_far.copy]
        simp [goneOn, hbc]
  · have := heff (n := n) (ts := ts ++ [.laneGo d]) (by simpa using hw)
    have := heff1 (n := n + 3) (ts := .enlist c :: ts) (by simpa using this)
    exact effects_mono (by omega) this

theorem State.LossGoes.all {s : State} {d : DestNo} (hs : s.LossQuiet) (cs : List Nat) :
    ∀ {u : State} {done F : List Nat}, s.LossGoes d done F u → cs.Nodup → (∀ c ∈ cs, c ∉ done ∧ s.liveCopy c d = true) →
    ∃ (F' : List Nat) (l : List DestNo) (v : State), l.length ≤ 5 * cs.length ∧ s.LossGoes d (done ++ cs) (F ++ F') v
      ∧ ∀ {n ts w}, effects false n (ts ++ l.map Task.laneGo) v = some w →
        effects false (n + 5 * cs.length + 3 * F'.length) (lossAborts d cs ++ ts) u = some w := by
  induction cs with
  | nil =>
    intro u done F h _ _
    exact ⟨[], [], u, by simp, by simpa using h, fun hw => by simpa [lossAborts] using hw⟩
  | cons c cs ih =>
    intro u done F h hnd hlive
    obtain ⟨hc, hnd⟩ := List.nodup_cons.1 hnd
    obtain ⟨F1, l1, u1, hlen1, h1, heff1⟩ := h.next hs (hlive c List.mem_cons_self).1 (hlive c List.mem_cons_self).2
    obtain ⟨F2, l2, v, hlen2, h2, heff2⟩ := ih h1 hnd fun b hb => by
      obtain ⟨hbd, hbl⟩ := hlive b (List.mem_cons_of_mem _ hb)
      exact ⟨fun hmem => (List.mem_append.1 hmem).elim hbd fun hbc => hc (List.mem_singleton.1 hbc ▸ hb), hbl⟩
    refine ⟨F1 ++ F2, l1 ++ l2, v, ?_, by simpa using h2, fun {n ts w} hw => ?_⟩
    · rw [List.length_append, List.length_cons]; omega
    · have := heff2 (n := n) (ts := ts ++ l1.map Task.laneGo) (by simpa using hw)
      rw [← List.append_assoc] at this
      have := heff1 this
      refine effects_mono ?_ this
      rw [List.length_append, List.length_cons]; omega

end Sys2Proof.Machine

/-! What the loss of a destination with live copies leaves (R94; O40). -/

namespace Sys2Proof.Machine

/-! ### The live copies on a destination -/

theorem State.mem_liveClipsOn {s : State} (h : Table.wf s.clips = true) {c : Nat} {d : DestNo} :
    c ∈ s.liveClipsOn d ↔ s.liveCopy c d = true := by
  simp only [State.liveClipsOn, List.mem_map, List.mem_filter, Prod.exists, exists_and_right, exists_eq_right, State.liveCopy,
    State.copy?, State.clip?]
  constructor
  · rintro ⟨x, hx, hlive⟩
    rw [(Table.find_eq_some_iff h c x).2 hx]
    exact hlive
  · intro hlive
    cases hx : Table.find c s.clips with
    | none => simp [hx] at hlive
    | some x => exact ⟨x, (Table.find_eq_some_iff h c x).1 hx, by simpa [hx] using hlive⟩

theorem State.nodup_liveClipsOn {s : State} (h : Table.wf s.clips = true) (d : DestNo) : (s.liveClipsOn d).Nodup :=
  (((Table.wf_iff _).1 h).imp fun hlt => Nat.ne_of_lt hlt).sublist (List.filter_sublist.map _)

theorem State.length_liveClipsOn (s : State) (d : DestNo) : (s.liveClipsOn d).length ≤ s.clips.length := by
  rw [State.liveClipsOn, List.length_map]
  exact List.length_filter_le _ _

theorem State.liveCopy_iff {s : State} {c : Nat} {d : DestNo} :
    s.liveCopy c d = true ↔ ∃ k, s.copy? c d = some k ∧ k.state.live = true := Option.any_eq_true _ _

/-! ### What the HOLD route keeps -/

theorem State.raise_job_held (s : State) (o : Occurrence) (j : JobNo) : ((s.raise o).job j).held = (s.job j).held := by
  by_cases hroute : s.faults.route o.cls = .hold
  · rw [State.raise_of_hold hroute, State.holdJobs_job, State.heldRecord]
    split_ifs <;> rfl
  · rw [State.job_congr (State.raise_of_not_hold hroute).1]

theorem State.raise_job_stands {s : State} {j : JobNo} (o : Occurrence) (h : (s.job j).state = .held) :
    ((s.raise o).job j).state = .held := by
  by_cases hroute : s.faults.route o.cls = .hold
  · have hsame : ({ s with faults := s.faults.take o } : State).job j = s.job j := rfl
    rw [State.raise_of_hold hroute, State.holdJobs_job, State.heldRecord]
    simp [hsame, h]
  · rwa [State.job_congr (State.raise_of_not_hold hroute).1]

/-! ### The loss -/

/-- The states a loss passes through: the entry to LOST, the live copies aborted with the slots `F` freed, its end, and the
end of the event. -/
structure State.LossDone (s : State) (d : DestNo) (detail : Detail) (present : Bool) (capacity : Option Nat)
    (s1 v w t : State) (F : List Nat) : Prop where
  lost : ∃ p c, s.Loses d p c s1
  goes : s1.LossGoes d (s.liveClipsOn d) F v
  ends : v.LossEnds d detail present capacity w
  close : w.Ends t
  plan : t.plan = s1.plan
  lines : s1.lines <+: t.lines

theorem State.LostSoFar.length_le {s u : State} {gone : Nat → DestNo → Bool} {F : List Nat} (h : s.LostSoFar gone F u) :
    F.length ≤ 2048 := by
  have hfree : u.ring.freeList.length ≤ 2048 := by
    have := h.sound.2.length_eq
    simp only [List.length_append, List.length_range, slotCount] at this
    omega
  exact le_trans (h.nodup.subperm fun n hn => h.freed n hn).length_le hfree

theorem exec_loses_live {s : State} {d : DestNo} {i : Instr} {detail : Detail} {present : Bool} {capacity : Option Nat}
    (hl : Loses (s.dest d) d i detail present capacity) (hu : InUse (s.dest d))
    (hrest : ∀ e, e ≠ d → (s.dest e).lane.copies = [] ∧ (s.dest e).lane.current = none ∧ (s.dest e).rl.jobs = [])
    (hverify : ∀ job ∈ (s.dest d).rl.jobs, ∃ c, job = .verify c) (hwf : Table.wf s.clips = true) (hlen : s.clips.length ≤ 4096)
    (hsound : s.ring.Sound) (hwait : s.ring.waitList = []) (hcalm : ∀ r, NotStalled s r)
    (hspares : ∀ j snap, (s.job j).snapshot = some snap →
      snap.spares.length ≤ 4 ∧ ∀ e ∈ snap.spares, e = d ∨ (s.dest e).state ≠ .active) :
    ∃ s1 v w t F, exec i s = .next t ∧ s.LossDone d detail present capacity s1 v w t F := by
  obtain ⟨s1, extra, p, c, hexec, hloses, hextra⟩ := exec_loses hl hu
  obtain ⟨o, hdest1⟩ := hloses.dest
  obtain ⟨hj, hc, hr, -⟩ := hloses.books
  have hquiet : s1.LossQuiet := by
    refine ⟨fun e => ?_, fun r => ?_, fun j snap hsnap => ?_⟩
    · by_cases he : e = d
      · rw [he, hdest1]; rfl
      · rw [hloses.others e he]; exact (hrest e he).2.2
    · cases r with
      | job j => rw [NotStalled, State.job_congr hj]; exact hcalm (.job j)
      | lane e =>
        have hlane : (s1.dest e).lane = (s.dest e).lane := by
          by_cases he : e = d
          · rw [he, hdest1]
          · rw [hloses.others e he]
        rw [NotStalled, hlane]; exact hcalm (.lane e)
    · rw [State.job_congr hj] at hsnap
      refine ⟨(hspares j snap hsnap).1, fun e he => ?_⟩
      by_cases hed : e = d
      · rw [hed, hdest1]; exact nofun
      · rw [hloses.others e hed]; exact ((hspares j snap hsnap).2 e he).resolve_left hed
  have hgoes : s1.LossGoes d [] [] s1 := by
    refine ⟨(State.LostSoFar.refl (hr ▸ hwait) (hr ▸ hsound)).congr fun b e => by simp [goneOn], fun j hj => ⟨.inl hj.1, ?_⟩⟩
    rintro ⟨b, hb, -⟩
    cases hb
  have hlive (b : Nat) : s1.liveCopy b d = s.liveCopy b d := by rw [State.liveCopy, State.liveCopy, State.copy_congr hc]
  obtain ⟨F, l, v, hllen, hv, heff⟩ := State.LossGoes.all hquiet (s.liveClipsOn d) hgoes (s.nodup_liveClipsOn hwf d) fun b hb =>
    ⟨List.not_mem_nil, (hlive b).trans ((s.mem_liveClipsOn hwf).1 hb)⟩
  simp only [List.nil_append] at hv
  obtain ⟨a, hvd⟩ := hv.so_far.dest d
  rw [hdest1] at hvd
  obtain ⟨w, hw, heffw⟩ := effects_lostEnd (s := v) (d := d) (detail := detail) (extra := extra) (present := present)
    (capacity := capacity) (hextra.imp_left fun h => ⟨h.1, by rw [hvd]; exact h.2.1, by rw [hvd]; exact h.2.2⟩)
  have hlanes (e : DestNo) : runLaneGo e w = w.still := by
    by_cases he : e = d
    · have hno : w.isServing d = false := by
        rw [Bool.eq_false_iff, ne_eq, State.isServing_iff, hw.dest, hvd]
        simp [InUse, DestPort.withHeld, DestPort.left]
      rw [he, runLaneGo, hno]
      rfl
    · obtain ⟨b, hve⟩ := hv.so_far.dest e
      obtain ⟨hcopies, hcurrent, -⟩ := hrest e he
      have hleft : (w.dest e).lane.copies = [] ∧ (w.dest e).lane.current = none := by
        rw [hw.others e he, hve, hloses.others e he]
        simp [DestPort.withHeld, DestPort.left, Lane.left, hcopies, hcurrent]
      exact runLaneGo_idle hleft.1 hleft.2
  have htasks : s.lossTasks d detail extra = lossAborts d (s.liveClipsOn d) ++ (.lostEnd d detail :: extra) := by
    have hmsgs : supplyMessages d (s.dest d).rl.jobs = [] := List.filterMap_eq_nil_iff.2 fun job hjob => by
      obtain ⟨c, rfl⟩ := hverify job hjob
      rfl
    simp [State.lossTasks, hmsgs]
  have hF := hv.so_far.length_le
  have hclips := s.length_liveClipsOn d
  have hrun := heff (n := l.length + 2) (ts := .lostEnd d detail :: extra) (by
    simpa using heffw (n := l.length) (ts := l.map Task.laneGo) (effects_lanes_still l fun e _ => hlanes e))
  rw [← htasks] at hrun
  obtain ⟨t, ht, halike, -⟩ := event_of_effects (w := ⟨s1, s.lossTasks d detail extra, []⟩) (answers := false)
    (n := l.length + 2 + 5 * (s.liveClipsOn d).length + 3 * F.length) (by omega)
    (by simpa using hrun)
  exact ⟨s1, v, w, t, F, hexec.trans ht, ⟨p, c, hloses⟩, hv, hw, halike.ends, halike.plan.2, halike.lines.2⟩

/-! ### What the loss leaves -/

theorem State.LostSoFar.freedOf_length {s u t : State} {gone : Nat → DestNo → Bool} {F : List Nat} (h : s.LostSoFar gone F u)
    (hwf : Table.wf s.ring.held = true) (hslot : ∀ n, t.slot? n = u.slot? n) (r : Requester) :
    (freedOf s t r).length = (s.ownedIn r F).length := by
  have hkeys : (s.ring.held.map Prod.fst).Nodup := ((Table.wf_iff _).1 hwf).imp fun hlt => Nat.ne_of_lt hlt
  refine ((List.perm_ext_iff_of_nodup (hkeys.sublist (List.filter_sublist.map _)) (h.nodup.filter _)).2 fun n => ?_).length_eq
  simp only [List.mem_map, List.mem_filter, Prod.exists, exists_and_right, exists_eq_right,
    State.mem_held_iff hwf, hslot, h.slot, Bool.and_eq_true, decide_eq_true_eq, Option.any_eq_true]
  constructor
  · rintro ⟨y, hy, hown, hno⟩
    refine ⟨?_, y, hy, hown⟩
    by_contra hn
    rw [if_neg hn, hy] at hno
    cases hno
  · rintro ⟨hn, y, hy, hown⟩
    exact ⟨y, hy, hown, by rw [if_pos hn]; rfl⟩

theorem Lane.copies_left (l : Lane) (g : Nat → Bool) : (l.left g).copies = l.copies.filter fun c => !g c := by
  cases hcur : l.current.any g <;> simp [Lane.left, State.dropCurrent, hcur]

theorem Lane.current_left {l : Lane} {g : Nat → Bool} {c : Nat} (h : (l.left g).current = some c) : g c = false := by
  cases hcur : l.current.any g with
  | false =>
    rw [Lane.left, if_neg (by simp [hcur])] at h
    have h : l.current = some c := h
    rw [h] at hcur
    exact hcur
  | true =>
    rw [Lane.left, if_pos hcur] at h
    cases h

theorem DestPort.left_nothing (x : DestPort) (b : Bool) : x.left (fun _ => false) b = { x with abandoned := b } := by
  have h : x.left (fun _ => false) b = { x.left (fun _ => false) x.abandoned with abandoned := b } := rfl
  rw [h, DestPort.left_none]

theorem DestPort.sameDrive_withHeld (x : DestPort) (b : Bool) (h : Nat) :
    ({ x with lane := { x.lane with held := h } } : DestPort).SameDrive (({ x with abandoned := b } : DestPort).withHeld h) :=
  ⟨rfl, rfl, rfl, rfl, rfl, rfl, rfl, rfl, rfl, rfl, rfl⟩

theorem goneOn_of_ne {d e : DestNo} (h : e ≠ d) (done : List Nat) (b : Nat) : goneOn d done b e = false := by
  simp [goneOn, h]

theorem liveCopiesAreAborted : LiveCopiesAreAborted := by
  intro s d i detail present capacity live hl hu hrest hverify hwf hlen hsound hwait hcalm hspares
  obtain ⟨s1, v, w, t, F, ht, hd⟩ := exec_loses_live hl hu hrest hverify hwf hlen hsound hwait hcalm hspares
  obtain ⟨p, cap, hloses⟩ := hd.lost
  obtain ⟨o, hdest1⟩ := hloses.dest
  obtain ⟨hj1, hc1, hr1, hp1, hm1, hf1, -⟩ := hloses.books
  have hsf := hd.goes.so_far
  have hraise := (v.resetArbiter d).raise_onlyJobs (lostFault d detail)
  have hgone (b : Nat) (e : DestNo) : goneOn d (s.liveClipsOn d) b e = true ↔ e = d ∧ live b := by
    rw [goneOn, decide_eq_true_eq, s.mem_liveClipsOn hwf, State.liveCopy_iff]
  have hgd (b : Nat) : goneOn d (s.liveClipsOn d) b d = (s.copy? b d).any fun k => k.state.live := by
    rw [Bool.eq_iff_iff, hgone, Option.any_eq_true]
    exact and_iff_right rfl
  have hcopy (b : Nat) (e : DestNo) : t.copy? b e = v.copy? b e := (hd.close.copy b e).trans (State.copy_congr hd.ends.clips b e)
  have hcopy1 (b : Nat) (e : DestNo) : s1.copy? b e = s.copy? b e := State.copy_congr hc1 b e
  have hslot (n : Nat) : t.slot? n = v.slot? n := by
    rw [hd.close.slot]
    have hheld : w.ring.held = v.ring.held := (congrArg Ring.held hd.ends.ring).trans hraise.held
    rw [State.slot?, State.slot?, hheld]
  have hslot1 (n : Nat) : s1.slot? n = s.slot? n := State.slot_congr hr1 n
  have hfree : t.ring.freeList = v.ring.freeList :=
    (congrArg Ring.freeList hd.close.ring).trans ((congrArg Ring.freeList hd.ends.ring).trans hraise.freeList)
  have hfreed {n : Nat} {y : Slot} (hy : s.slot? n = some y) (hfor : y.Forsaken s1 (goneOn d (s.liveClipsOn d)) n) :
      t.slot? n = none ∧ n ∈ t.ring.freeList := by
    have hn : n ∈ F := (hsf.mem n).2 ⟨y, (hslot1 n).trans hy, hfor⟩
    exact ⟨by rw [hslot, hsf.slot, if_pos hn], hfree ▸ hsf.freed n hn⟩
  have hkept {n : Nat} {y : Slot} (hy : s.slot? n = some y) (hno : ¬y.Forsaken s1 (goneOn d (s.liveClipsOn d)) n) :
      t.slot? n = some (y.left (goneOn d (s.liveClipsOn d))) := by
    have hn : n ∉ F := fun hn => by
      obtain ⟨z, hz, hfor⟩ := (hsf.mem n).1 hn
      obtain rfl := Option.some.inj (hy.symm.trans ((hslot1 n).symm.trans hz))
      exact hno hfor
    rw [hslot, hsf.slot, if_neg hn, hslot1, hy]
    rfl
  obtain ⟨a, hvd⟩ := hsf.dest d
  rw [hdest1] at hvd
  have hwd := hd.ends.dest
  rw [hvd] at hwd
  have htd : t.dest d = w.dest d := hd.close.busy d (.inr (by rw [hwd]; simp [DestPort.withHeld, DestPort.left]))
  rw [hwd] at htd
  have howned (r : Requester) : (s1.ownedIn r F).length = (freedOf s t r).length := by
    rw [← hsf.freedOf_length (t := t) (hr1 ▸ hsound.1) hslot, freedOf, freedOf, hr1]
  have hjob (j : JobNo) : t.job j = w.job j := hd.close.job j
  refine ⟨t, ht, fun c k hk hlive => ?copies, fun c e hno => ?others, ?state, ?present, ?capacity, ?binding, ?arb, ?rl,
    ?outstanding, hd.lines.subset hloses.lines, fun wr => ?queue, ?laneCopies, fun c hc => ?current, fun q z => ?fifo,
    fun n y hy hst hlive hne => ⟨fun hex => ?staged, fun hall => ?stagedFreed⟩, fun n y hy hst hno => ?stagedKept,
    fun n y z hy hst hown hz hk hall => ?filling, fun j c x hdr hsnap hc hlive hx hsec hexc hown hmov => ?drained,
    ?faults, hd.plan.trans hp1, ?manifest, fun j => ?held, fun f hf => ?drives⟩
  case copies =>
    rw [hcopy, hsf.copy, if_pos ((hgone c d).2 ⟨rfl, k, hk, hlive⟩), hcopy1, hk]; rfl
  case others => rw [hcopy, hsf.copy, if_neg (mt (hgone c e).1 hno), hcopy1]
  case state => rw [htd]; rfl
  case present => rw [htd]
  case capacity => rw [htd]
  case binding => rw [htd]; rfl
  case arb => rw [htd]
  case rl => rw [htd]; rfl
  case outstanding => rw [htd]; rfl
  case queue =>
    have hq : (t.dest d).queue wr = ((s.dest d).left (goneOn d (s.liveClipsOn d) · d) a).queue wr := by
      rw [htd]
      cases wr <;> rfl
    rw [hq, DestPort.queue_left]
    simp only [hgd]
  case laneCopies =>
    have hl : (t.dest d).lane.copies = ((s.dest d).lane.left (goneOn d (s.liveClipsOn d) · d)).copies := by rw [htd]; rfl
    rw [hl, Lane.copies_left]
    simp only [hgd]
  case current =>
    intro hcur
    have hl : ((s.dest d).lane.left (goneOn d (s.liveClipsOn d) · d)).current = some c := by rw [← hcur, htd]; rfl
    exact absurd ((hgone c d).2 ⟨rfl, hc⟩) (by rw [Lane.current_left hl]; exact Bool.false_ne_true)
  case fifo =>
    obtain ⟨-, -, -, -, hfifo, -⟩ := hd.close.card q
    obtain ⟨b, r, hvq⟩ := hsf.port q
    rw [hfifo, State.port_congr hd.ends.ports, hvq, State.port_congr hloses.ports]
    simp only [List.mem_filter, Bool.not_eq_true']
    refine and_congr_right fun _ => ?_
    cases hz : z.work with
    | supply e j c k n =>
      simp only [ReaderWork.suppliesAny, ReaderWork.supply.injEq, Bool.eq_false_iff, ne_eq, hgone]
      exact ⟨fun h j' c' k' n' ⟨he, _, hc, _⟩ hlive => h ⟨he, hc ▸ hlive⟩, fun h ⟨he, hlive⟩ => h j c k n ⟨he, rfl, rfl, rfl, rfl⟩ hlive⟩
    | job j c k => simp [ReaderWork.suppliesAny]
    | sector e k => simp [ReaderWork.suppliesAny]
  case staged =>
    obtain ⟨e, he, hed⟩ := hex
    rw [hkept hy (fun hfor => by
      rcases hfor with ⟨-, -, hall⟩ | ⟨hfill, -⟩
      · exact hed ((hgone y.clip e).1 (hall e he)).1
      · rw [hst] at hfill; cases hfill), Slot.left, if_pos hst]
    have hfilter : (y.pending.filter fun e => !goneOn d (s.liveClipsOn d) y.clip e) = y.pending.filter (· ≠ d) :=
      List.filter_congr fun e _ => by
        rw [Bool.eq_iff_iff, Bool.not_eq_true', Bool.eq_false_iff, ne_eq, hgone, decide_eq_true_eq]
        exact not_congr ⟨fun h => h.1, fun h => ⟨h, hlive⟩⟩
    rw [hfilter]
  case stagedFreed =>
    exact hfreed hy (.inl ⟨hst, hne, fun e he => (hgone y.clip e).2 ⟨hall e he, hlive⟩⟩)
  case stagedKept =>
    have hnot (e : DestNo) : goneOn d (s.liveClipsOn d) y.clip e = false := by
      rw [Bool.eq_false_iff, ne_eq, hgone]
      exact fun h => hno h.2
    rw [hkept hy (fun hfor => by
      rcases hfor with ⟨-, hne, hall⟩ | ⟨hfill, -⟩
      · obtain ⟨e, he⟩ := List.exists_mem_of_ne_nil _ hne
        exact absurd (hall e he) (by rw [hnot]; exact Bool.false_ne_true)
      · rw [hst] at hfill; cases hfill), Slot.left, if_pos hst]
    simp [hnot]
  case filling =>
    refine hfreed hy (.inr ⟨hst, d, hown, ?_⟩)
    rw [show (s1.dest d).cq = (s.dest d).cq by rw [hdest1]]
    exact ⟨⟨z, hz, hk⟩, fun z hz hk => (hgone z.clip d).2 ⟨rfl, hall z hz hk⟩⟩
  case drained =>
    have hj1' : s1.job j = s.job j := State.job_congr hj1 j
    have hcl1 (b : Nat) : s1.clip? b = s.clip? b := State.clip_congr hc1 b
    have hvj : (v.job j).state = .held := by
      refine (hd.goes.drained j ⟨by rw [hj1']; exact hdr, by rw [hj1']; exact hsnap, fun hall => ?_, fun b hb z hz => ?_⟩).2
        ⟨c, (s.mem_liveClipsOn hwf).2 (State.liveCopy_iff.2 hlive), by rw [hj1']; exact hc⟩ ?_
      · have := hall c (by rw [hj1']; exact hc)
        rw [State.clipState_of ((hcl1 c).trans hx)] at this
        simp [hsec, hexc] at this
      · rw [hj1'] at hb
        exact hown b hb z ((hcl1 b).symm.trans hz)
      · rintro ⟨b, hb, e, k, hk, hkl, hks⟩
        obtain ⟨st, hvj, -⟩ := hsf.job j
        rw [hvj, hj1'] at hb
        rw [hsf.copy, hcopy1] at hk
        by_cases hg : goneOn d (s.liveClipsOn d) b e = true
        · rw [if_pos hg] at hk
          obtain ⟨k', -, rfl⟩ := Option.map_eq_some_iff.1 hk
          cases hkl
        · rw [if_neg hg] at hk
          obtain rfl := hmov b hb e k hk hkl hks
          exact hg ((hgone b e).2 ⟨rfl, k, hk, hkl⟩)
    rw [hjob, State.job_congr hd.ends.jobs]
    exact State.raise_job_stands (s := v.resetArbiter d) _ hvj
  case faults => rw [hd.close.faults, hd.ends.faults, hsf.faults, hf1]; rfl
  case manifest => rw [hd.close.manifest, hd.ends.manifest, hsf.manifest, hm1]
  case held =>
    obtain ⟨st, hvj, -⟩ := hsf.job j
    have hheld : (t.job j).held = (v.job j).held := by
      rw [hjob, State.job_congr hd.ends.jobs]
      exact State.raise_job_held (v.resetArbiter d) _ j
    rw [hheld, hvj, howned, State.job_congr hj1]
  case drives =>
    obtain ⟨b, hvf⟩ := hsf.dest f
    simp only [goneOn_of_ne hf, DestPort.left_nothing, hloses.others f hf, howned] at hvf
    have hwf' := (hd.ends.others f hf).trans hvf
    exact (hwf' ▸ DestPort.sameDrive_withHeld (s.dest f) b _ : DestPort.SameDrive _ (w.dest f)).trans (hd.close.drive f)

end Sys2Proof.Machine

/-! A unit sourced again in the middle of an event, and the loss of a destination that supplies another lane (R94, R116; O40). -/

namespace Sys2Proof.Machine

/-- From `s` to `t` the unit of slot `n` is sourced again: the slot is empty, its item is `i'`, the card-only mark is clear, and
the other blocks are as they were but for the read lanes and the card ports. -/
structure State.Resourced (s : State) (d : DestNo) (n : Nat) (y : Slot) (i i' : Item) (t : State) : Prop where
  slot : t.slot? n = some { y with data := [] }
  cq : (t.dest d).cq = (s.dest d).cq.map fun z => if z = i then i' else z
  lane : (t.dest d).lane = { (s.dest d).lane with cardOnly := false, sum := none }
  freeList : t.ring.freeList = s.ring.freeList
  jobs : t.jobs = s.jobs
  plan : t.plan = s.plan
  manifest : t.manifest = s.manifest
  faults : t.faults = s.faults
  link : t.link = s.link

section

variable {s : State} {d g : DestNo} {n c k : Nat} {x : Clip} {y : Slot} {i : Item} (h : Fills s d n c k y i)
include h

/-- A unit that destination `g` cannot supply, with another VERIFIED copy left. -/
theorem effects_resourced_dest {e : DestNo} (hx : s.clip? c = some x)
    (hcard : (s.job x.job).boundPort = none ∨ i.noCard = true) (he : NextSource s d x (g :: i.noDests) e) :
    ∃ t, s.Resourced d n y i (i.without (.dest g)) t ∧ (t.dest e).rl.jobs = (s.dest e).rl.jobs ++ [.supply c k n d]
      ∧ (∀ f, f ≠ d → f ≠ e → t.dest f = s.dest f) ∧ ∀ {answers m ts u}, effects answers m ts t = some u →
        effects answers (m + 1) (.cannotSupply d n c k (.dest g) :: ts) s = some u := by
  obtain ⟨hports, hjobs, hclips, hplan, hmanifest, hfaults, hlink, hfree, -⟩ := s.resourcing_blocks d n (i.without (.dest g))
  have hed : e ≠ d := he.1.1
  have hrun := runCannotSupply_dest (src := .dest g) (out := g :: i.noDests) h hx hcard (fun f => by
    rw [List.mem_cons]; exact mem_destInsert g f i.noDests) he
  let v := s.resourcing d n (i.without (.dest g))
  have hread := v.appendRead_readsAt e (.supply c k n d)
  have hdest := Fills.dest_resourcing h (i.without (.dest g))
  have hve : v.dest e = s.dest e := (hdest e).trans (if_neg hed)
  have hd := (hread.others d (Ne.symm hed)).trans ((hdest d).trans (if_pos rfl))
  obtain ⟨a, rl, hde, hrl⟩ := hread.dest
  refine ⟨v.appendRead e (.supply c k n d), ⟨?_, congrArg DestPort.cq hd, congrArg DestPort.lane hd,
    (congrArg Ring.freeList hread.ring).trans hfree, hread.jobs.trans hjobs, hread.plan.trans hplan,
    hread.manifest.trans hmanifest, hread.faults.trans hfaults, hread.link.trans hlink⟩, ?_, fun f hfd hfe => ?_, fun {a m ts u} hu => ?_⟩
  · rw [State.slot_congr hread.ring]; exact (Fills.slot_resourcing h _ n).trans (if_pos rfl)
  · rw [hde, ← hve]; exact hrl
  · exact (hread.others f hfe).trans ((hdest f).trans (if_neg hfd))
  · rw [effects_still (a := .cannotSupply d n c k (.dest g)) hrun rfl]; exact hu

/-- A unit that destination `g` cannot supply, with the card bound and not excluded for it. -/
theorem effects_resourced_card {p : PortNo} (hx : s.clip? c = some x) (hp : (s.job x.job).boundPort = some p)
    (hno : i.noCard = false) :
    ∃ t, s.Resourced d n y i (i.without (.dest g)) t
      ∧ (t.port p).fifo = (s.port p).fifo ++ ((unitPieces x k).map fun r => ⟨.supply d x.job c k n, r.1, r.2⟩)
      ∧ (∀ f, f ≠ d → t.dest f = s.dest f) ∧ ∀ {answers m ts u}, effects answers m ts t = some u →
        effects answers (m + 1) (.cannotSupply d n c k (.dest g) :: ts) s = some u := by
  obtain ⟨hports, hjobs, hclips, hplan, hmanifest, hfaults, hlink, hfree, -⟩ := s.resourcing_blocks d n (i.without (.dest g))
  have hrun := runCannotSupply_card (src := .dest g) h hx hp hno
  let v := s.resourcing d n (i.without (.dest g))
  have hdest := Fills.dest_resourcing h (i.without (.dest g))
  have hd := (hdest d).trans (if_pos rfl)
  refine ⟨v.queuePieces p (.supply d x.job c k n) (unitPieces x k), ⟨(Fills.slot_resourcing h _ n).trans (if_pos rfl),
    congrArg DestPort.cq hd, congrArg DestPort.lane hd, hfree, hjobs, hplan, hmanifest, hfaults, hlink⟩, ?_,
    fun f hfd => (hdest f).trans (if_neg hfd), fun {a m ts u} hu => ?_⟩
  · refine (congrArg CardPort.fifo (State.port_queuePieces _ _ _ _ p)).trans ?_
    rw [if_pos rfl, State.port_congr hports]
  · rw [effects_still (a := .cannotSupply d n c k (.dest g)) hrun rfl]; exact hu

end

/-- What a unit is read from again stands in the same place after another destination's record has changed. -/
theorem Fills.congr {s t : State} {d : DestNo} {n c k : Nat} {y : Slot} {i : Item} (h : Fills s d n c k y i)
    (hring : t.ring = s.ring) (hcq : (t.dest d).cq = (s.dest d).cq) : Fills t d n c k y i := by
  obtain ⟨hy, hrest⟩ := h
  rw [Fills, hcq, State.slot_congr hring]
  exact ⟨hy, hrest⟩

theorem NextSource.congr {s t : State} {d e g : DestNo} {x : Clip} {l : List DestNo} (h : NextSource s d x (g :: l) e)
    (hst : ∀ f, f ≠ g → (t.dest f).state = (s.dest f).state) : NextSource t d x (g :: l) e := by
  have hfits (f : DestNo) : (f ≠ d ∧ f ∉ g :: l ∧ (t.dest f).state = .active ∧ ∃ k, x.copies[f] = some k ∧ k.state = .verified)
      ↔ f ≠ d ∧ f ∉ g :: l ∧ (s.dest f).state = .active ∧ ∃ k, x.copies[f] = some k ∧ k.state = .verified := by
    refine and_congr_right fun _ => and_congr_right fun hf => ?_
    rw [hst f fun hfg => hf (hfg ▸ List.mem_cons_self)]
  exact ⟨(hfits e).2 h.1, fun f hf hff => h.2 f hf ((hfits f).1 hff)⟩

/-! ### The loss of a destination whose read lane serves another lane -/

/-- The end of a loss behind the unit sourced again, from whichever source. -/
theorem exec_loses_supply {s : State} {g d : DestNo} {command : Instr} {detail : Detail} {present : Bool} {capacity : Option Nat}
    {c k n : Nat} {y : Slot} {i : Item} (hl : Loses (s.dest g) g command detail present capacity) (hu : InUse (s.dest g))
    (hno : ¬LiveCopyOn s g) (hdg : d ≠ g) (hrl : (s.dest g).rl.jobs = [.supply c k n d]) :
    ∃ s1 p cap, s.Loses g p cap s1 ∧ ∀ {v : State} {i' : Item}, s1.Resourced d n y i i' v → v.dest g = s1.dest g →
      (∀ {m ts u}, effects false m ts v = some u → effects false (m + 1) (.cannotSupply d n c k (.dest g) :: ts) s1 = some u) →
      ∃ t, exec command s = .next t ∧ t.slot? n = some { y with data := [] }
        ∧ (t.dest d).cq = ((s.dest d).cq.map fun z => if z = i then i' else z)
        ∧ (t.dest d).lane = { (s.dest d).lane with cardOnly := false, sum := none }
        ∧ (t.dest g).state = .lost ∧ (t.dest g).rl = ReadLane.empty ∧ t.ring.freeList = s.ring.freeList
        ∧ t.faults = s.faults.take ⟨.destLost, none, none, some g, none, detail⟩
        ∧ (∀ f, f ≠ g → (v.dest f).SameDrive (t.dest f)) ∧ ∀ p, (v.port p).SameCard (t.port p) := by
  obtain ⟨s1, extra, p, cap, hexec, hloses, hextra⟩ := exec_loses hl hu
  refine ⟨s1, p, cap, hloses, fun {v i'} hv hvg hrun => ?_⟩
  obtain ⟨o, hdest1⟩ := hloses.dest
  obtain ⟨-, -, hr1, -, -, hf1, -⟩ := hloses.books
  rw [hdest1] at hvg
  obtain ⟨w, hw, heff⟩ := effects_lostEnd (s := v) (d := g) (detail := detail) (extra := extra) (present := present)
    (capacity := capacity) (hextra.imp_left fun h => ⟨h.1, by rw [hvg]; exact h.2.1, by rw [hvg]; exact h.2.2⟩)
  have htasks : s.lossTasks g detail extra = .cannotSupply d n c k (.dest g) :: .lostEnd g detail :: extra := by
    simp [State.lossTasks, s.liveClipsOn_eq_nil hno, hrl, lossAborts, supplyMessages]
  rw [htasks] at hexec
  obtain ⟨t, ht, halike, -⟩ := event_of_effects (w := ⟨s1, .cannotSupply d n c k (.dest g) :: .lostEnd g detail :: extra, []⟩)
    (answers := false) (n := 3) (by omega) (by simpa using hrun (heff (n := 0) (ts := []) (effects_nil _ _)))
  have hends := halike.ends
  have hraise := (v.resetArbiter g).raise_onlyJobs (lostFault g detail)
  have hwg := hw.dest
  rw [hvg] at hwg
  have htg : t.dest g = w.dest g := hends.busy g (.inr (by rw [hwg]; simp))
  have hdrive (f : DestNo) (hf : f ≠ g) : (v.dest f).SameDrive (t.dest f) := hw.others f hf ▸ hends.drive f
  have hsame (f : DestNo) (hf : f ≠ g) : s1.dest f = s.dest f := hloses.others f hf
  obtain ⟨-, -, -, -, -, -, hcq, hlane, -⟩ := hdrive d hdg
  refine ⟨t, hexec.trans ht, ?_, ?_, ?_, by rw [htg, hwg], by rw [htg, hwg], ?_, ?_, hdrive, fun q => ?_⟩
  · have hheld : w.ring.held = v.ring.held := (congrArg Ring.held hw.ring).trans hraise.held
    rw [hends.slot, State.slot?, hheld]
    exact hv.slot
  · rw [hcq, hv.cq, hsame d hdg]
  · rw [hlane, hv.lane, hsame d hdg]
  · rw [hends.ring, hw.ring]
    exact hraise.freeList.trans (hv.freeList.trans (congrArg Ring.freeList hr1))
  · rw [hends.faults, hw.faults, hv.faults, hf1]; rfl
  · have := hends.card q
    rwa [State.port_congr hw.ports] at this

theorem lostSourceIsReplaced : LostSourceIsReplaced := by
  intro s g d command detail present capacity c k n x y i hl hu hno hdg hrl hx hf
  obtain ⟨s1, p', cap, hloses, hend⟩ := exec_loses_supply (y := y) (i := i) hl hu hno hdg hrl
  obtain ⟨o, hdest1⟩ := hloses.dest
  obtain ⟨hj1, hc1, hr1, -⟩ := hloses.books
  have hf1 : Fills s1 d n c k y i := Fills.congr hf hr1 (by rw [hloses.others d hdg])
  have hx1 : s1.clip? c = some x := (State.clip_congr hc1 c).trans hx
  have hport1 : (s1.job x.job).boundPort = (s.job x.job).boundPort := congrArg Job.boundPort (State.job_congr hj1 _)
  refine ⟨fun e he hcard => ?_, fun p hp hno => ?_⟩
  · have heg : e ≠ g := fun h => he.1.2.1 (h ▸ List.mem_cons_self)
    obtain ⟨v, hv, hread, hothers, hrun⟩ := effects_resourced_dest hf1 hx1 (hport1 ▸ hcard)
      (NextSource.congr he fun f hf => by rw [hloses.others f hf])
    obtain ⟨t, ht, hslot, hcq, hlane, hst, hrlt, hfree, hfaults, hdrive, -⟩ :=
      hend hv (hothers g (Ne.symm hdg) (Ne.symm heg)) hrun
    obtain ⟨-, -, -, -, -, -, -, -, hjobs, -⟩ := hdrive e heg
    refine ⟨t, i.without (.dest g), ht, rfl, rfl, rfl, rfl, fun f => mem_destInsert g f i.noDests, ⟨hslot, hcq, hlane, ?_⟩, hst, hrlt, hfree, hfaults⟩
    rw [hjobs, hread, hloses.others e heg]
  · obtain ⟨v, hv, hfifo, hothers, hrun⟩ := effects_resourced_card (g := g) hf1 hx1 (hport1.trans hp) hno
    obtain ⟨t, ht, hslot, -, hlane, hst, hrlt, hfree, hfaults, -, hcard⟩ := hend hv (hothers g (Ne.symm hdg)) hrun
    obtain ⟨-, -, -, -, hfifot, -⟩ := hcard p
    refine ⟨t, ht, hslot, hlane, ?_, hst, hrlt, hfree, hfaults⟩
    rw [hfifot, hfifo, State.port_congr hloses.ports]

/-- Settles O40: the live copies aborted in turn, and the unit of another lane sourced again. -/
theorem lossAbortsLiveCopies : Obligations.LossAbortsLiveCopies := ⟨liveCopiesAreAborted, lostSourceIsReplaced⟩

end Sys2Proof.Machine

/-! DEST_BIND and DEST_UNBIND: the refusals, and a port rebound with no read job at it (R83, R84; O17). -/

namespace Sys2Proof.Machine

theorem exec_destBind (tag : Byte) (n a area strip spare u0 t0 : Nat) (s : State) :
    exec (.destBind tag n a area strip spare u0 t0) s
      = s.quiet.request tag 0x10 fun _ s => ruleDestBind n (newBinding a area strip spare u0 t0) s := rfl

theorem exec_destUnbind (tag : Byte) (n : Nat) (s : State) :
    exec (.destUnbind tag n) s = s.quiet.request tag 0x11 fun _ s => ruleDestUnbind n s := rfl

theorem State.liveOn_pos_iff (s : State) (d : DestNo) : 0 < s.liveOn d ↔ LiveCopyOn s d := by
  simp only [State.liveOn, List.length_pos_iff_exists_mem, List.mem_filter, Prod.exists, Option.any_eq_true, LiveCopyOn]
  exact ⟨fun ⟨c, x, hc, k, hk, hl⟩ => ⟨c, x, k, hc, hk, hl⟩, fun ⟨c, x, k, hc, hk, hl⟩ => ⟨c, x, hc, k, hk, hl⟩⟩

/-! ### The rulings -/

/-- A destination in use keeps its binding while the plan is locked or a live copy stands on it. -/
def State.Bindable (s : State) (d : DestNo) : Prop := InUse (s.dest d) → s.plan.lock = false ∧ ¬LiveCopyOn s d

section

variable {s : State} {d : DestNo}

theorem State.Bindable.not_locked (h : s.Bindable d) : (s.isServing d && s.plan.lock) = false := by
  cases hu : s.isServing d with
  | false => rfl
  | true => rw [(h ((s.isServing_iff d).1 hu)).1]; rfl

theorem State.Bindable.not_live (h : s.Bindable d) : (s.isServing d && decide (0 < s.liveOn d)) = false := by
  cases hu : s.isServing d with
  | false => rfl
  | true => simpa [State.liveOn_pos_iff] using (h ((s.isServing_iff d).1 hu)).2

variable {b : Binding}

theorem ruleDestBind_absent (h : (s.dest d).present = false) : ruleDestBind d.val b s = .refuse .wrongState := by
  simp [ruleDestBind, h]

theorem ruleDestBind_locked (h : (s.dest d).present = true) (hu : InUse (s.dest d)) (hl : s.plan.lock = true) :
    ruleDestBind d.val b s = .refuse .locked := by
  simp [ruleDestBind, h, (s.isServing_iff d).2 hu, hl]

theorem ruleDestBind_live (h : (s.dest d).present = true) (hu : InUse (s.dest d)) (hl : s.plan.lock = false)
    (hlive : LiveCopyOn s d) : ruleDestBind d.val b s = .refuse .wrongState := by
  simp [ruleDestBind, h, (s.isServing_iff d).2 hu, hl, (s.liveOn_pos_iff d).2 hlive]

theorem ruleDestBind_unfit (h : (s.dest d).present = true) (hb : s.Bindable d)
    (hfits : b.fits ((s.dest d).capacity.getD 0) = false) : ruleDestBind d.val b s = .refuse .badParam := by
  simp only [ruleDestBind, destOf_val, h, hb.not_locked, hb.not_live, hfits, Bool.not_true, Bool.not_false, Bool.false_eq_true,
    if_false, if_true]

theorem ruleDestBind_taken (h : (s.dest d).present = true) (hb : s.Bindable d)
    (hfits : b.fits ((s.dest d).capacity.getD 0) = true) :
    ruleDestBind d.val b s = .take (Bytes.le 6 b.dataUnits ++ Bytes.le 6 b.ceiling) (rebind d (some b) .active s) := by
  simp only [ruleDestBind, destOf_val, h, hb.not_locked, hb.not_live, hfits, Bool.not_true, Bool.false_eq_true, if_false]

theorem ruleDestUnbind_unbound (h : (s.dest d).state = .absent ∨ (s.dest d).state = .unbound) :
    ruleDestUnbind d.val s = .refuse .wrongState := by
  simp [ruleDestUnbind, h]

theorem InUse.not_unbound {x : DestPort} (h : InUse x) : ¬(x.state = .absent ∨ x.state = .unbound) := by
  rcases h with h | h <;> simp [h]

theorem ruleDestUnbind_locked (hu : InUse (s.dest d)) (hl : s.plan.lock = true) : ruleDestUnbind d.val s = .refuse .locked := by
  simp [ruleDestUnbind, InUse.not_unbound hu, (s.isServing_iff d).2 hu, hl]

theorem ruleDestUnbind_live (hu : InUse (s.dest d)) (hl : s.plan.lock = false) (hlive : LiveCopyOn s d) :
    ruleDestUnbind d.val s = .refuse .wrongState := by
  simp [ruleDestUnbind, InUse.not_unbound hu, (s.isServing_iff d).2 hu, hl, (s.liveOn_pos_iff d).2 hlive]

theorem ruleDestUnbind_taken (h : ¬((s.dest d).state = .absent ∨ (s.dest d).state = .unbound)) (hb : s.Bindable d) :
    ruleDestUnbind d.val s = .take [] (rebind d none (if (s.dest d).present then .unbound else .absent) s) := by
  simp only [ruleDestUnbind, destOf_val, h, hb.not_locked, hb.not_live, Bool.false_eq_true, if_false]

end

theorem newBinding_fits_iff (a area strip spare u0 t0 sectors : Nat) :
    (newBinding a area strip spare u0 t0).fits sectors = true ↔ (1 ≤ strip ∧ strip ≤ 65536) ∧ spare ≤ 4096 ∧ a + area ≤ sectors
      ∧ strip < area ∧ 1 ≤ (area - strip) / 2048 ∧ spare < (area - strip) / 2048 ∧ u0 ≤ (area - strip) / 2048 - spare
      ∧ t0 ≤ strip := by
  simp only [Binding.fits, Bool.and_eq_true, decide_eq_true_eq, and_assoc]
  rfl

theorem destBindRefusals : DestBindRefusals := by
  intro tag n a area strip spare u0 t0 s e he run answer
  have refused {st : Status} (h : ruleDestBind n (newBinding a area strip spare u0 t0) (s.quiet.owing e tag 0x10) = .refuse st) :
      run = answer st := (exec_destBind ..).trans (State.request_refuse he h)
  refine ⟨fun hn => refused (by simp [ruleDestBind, destOf_eq_none hn]), ?_⟩
  rintro d rfl
  refine ⟨fun h => refused (ruleDestBind_absent h), fun h => ⟨fun hu hl => refused (ruleDestBind_locked h hu hl),
    fun hu hl hlive => refused (ruleDestBind_live h hu hl hlive), fun hl hlive hbad => refused (ruleDestBind_unfit h ?_ ?_)⟩⟩
  · exact fun hu => ⟨Bool.eq_false_iff.2 fun hlock => hl ⟨hu, hlock⟩, fun hcopy => hlive ⟨hu, hcopy⟩⟩
  · rw [Bool.eq_false_iff, ne_eq, newBinding_fits_iff]
    change ¬(_ ∧ _ ∧ a + area ≤ (s.dest d).capacity.getD 0 ∧ _)
    omega

/-! ### The port rebound -/

/-- A port with another binding and state, and what the earlier binding left at it ended. -/
def State.rebound (s : State) (d : DestNo) (b : Option Binding) (st : DestState) : State :=
  (s.endBinding d).modDest d fun x => { x with binding := b, state := st }

theorem rebind_eq (s : State) (d : DestNo) (b : Option Binding) (st : DestState) :
    rebind d b st s = (s.rebound d b st).andNow
      (supplyMessages d (s.dest d).rl.jobs ++ announceState d (s.dest d).state st) := rfl

/-- With no read job at the port nothing is read from it any longer. -/
theorem State.rebound_of_rest {s : State} {d : DestNo} (h : (s.dest d).rl.jobs = []) (b : Option Binding) (st : DestState) :
    s.rebound d b st = s.modDest d fun x =>
      { x with abandoned := x.outstanding.isSome, arb := Arbiter.reset, binding := b, state := st } := by
  rw [State.rebound, State.endBinding, State.withdrawJobs_none (by rw [h]; exact fun _ hj => nomatch hj) fun _ => h,
    State.resetArbiter, State.modDest_modDest, State.modDest_modDest]

/-- The change of state announced: a notice at most. -/
theorem effects_announceState (s : State) (d : DestNo) (a b : DestState) :
    ∃ l, ∀ {answers : Bool} {n : Nat} {ts : List Task} {u : State}, effects answers n ts { s with link := l } = some u →
      effects answers (n + 1) (announceState d a b ++ ts) s = some u := by
  by_cases hab : a = b
  · refine ⟨s.link, fun {answers n ts u} h => ?_⟩
    rw [announceState, if_pos hab]
    exact effects_mono (by omega) h
  · refine ⟨s.link.queueNotice ((Notice.destChange d).frame s), fun {answers n ts u} h => ?_⟩
    rw [announceState, if_neg hab]
    exact (effects_still (a := .announce (.destChange d)) rfl rfl).trans h

/-- The record of a port rebound. -/
def DestPort.rebound (x : DestPort) (b : Option Binding) (st : DestState) : DestPort :=
  { x with abandoned := x.outstanding.isSome, arb := Arbiter.reset, binding := b, state := st }

/-- A rebinding request taken with no read job at the port. -/
theorem State.take_rebind {s : State} {tag : Byte} {code : Nat} {owner : EntryNo → State → Ruling} {e : EntryNo} {bytes : List Byte}
    {d : DestNo} {b : Option Binding} {st : DestState} (he : s.link.freeEntry = some e)
    (ho : owner e (s.quiet.owing e tag code) = .take bytes (rebind d b st (s.quiet.owing e tag code)))
    (hrl : (s.dest d).rl.jobs = []) :
    ∃ t, s.quiet.request tag code owner = .next t
      ∧ ((s.dest d).rebound b st).SameDrive (t.dest d)
      ∧ (((s.dest d).rebound b st).Blocked → t.dest d = (s.dest d).rebound b st)
      ∧ (∀ f, f ≠ d → (s.dest f).SameDrive (t.dest f)) ∧ (∀ p, (s.port p).SameCard (t.port p)) ∧ s.SameBooks t
      ∧ s.link.AnswersTo t.link e tag code bytes := by
  let s0 := s.quiet.owing e tag code
  have hrl0 : (s0.dest d).rl.jobs = [] := hrl
  have hreb := State.rebound_of_rest hrl0 b st
  obtain ⟨l, heff⟩ := effects_announceState (s0.rebound d b st) d (s0.dest d).state st
  have hrun : effects false 1 ((rebind d b st s0).now ++ (rebind d b st s0).later) (rebind d b st s0).state
      = some { s0.rebound d b st with link := l } := by
    rw [rebind_eq]
    simpa [State.andNow, hrl0, supplyMessages] using heff (answers := false) (n := 0) (ts := []) (effects_nil _ _)
  have hstate : (rebind d b st s0).state = s0.rebound d b st := rfl
  rw [hreb] at hstate hrun
  obtain ⟨t, ht, hends, hplan, hans, hpending⟩ := State.take_effects_pending (s := s.quiet) (tag := tag) (code := code) (n := 1) he ho
    (by rw [hstate]; exact .refl _) (by omega) hrun
  have hdest (f : DestNo) : (s0.modDest d fun x => x.rebound b st).dest f
      = if f = d then (s.dest d).rebound b st else s.dest f := State.dest_modDest s0 d _ f
  have hself : _ = (s.dest d).rebound b st := (hdest d).trans (if_pos rfl)
  refine ⟨t, ht, hself ▸ hends.drive d, fun hb => (hends.busy d ?_).trans hself, fun f hf => ?_, hends.card,
    ⟨hends.jobs, hends.clips, hends.ring, hplan.trans (by rw [hstate]; rfl), hends.manifest, hends.faults,
      hpending.trans (by rw [hstate]; rfl)⟩, hans⟩
  · exact (hself ▸ hb : ((s0.modDest d fun x => x.rebound b st).dest d).Blocked)
  · exact ((hdest f).trans (if_neg hf)) ▸ hends.drive f

theorem destBindTaken : DestBindTaken := by
  intro tag d a area strip spare u0 t0 s e he x units hpresent hcap hb hrl h1 h2 h3 h4 h5 h6 h7
  obtain ⟨sectors, hsectors, hroom⟩ := hcap
  have hfits : (newBinding a area strip spare u0 t0).fits ((s.dest d).capacity.getD 0) = true := by
    rw [newBinding_fits_iff, hsectors]
    exact ⟨⟨h1, h2⟩, h3, hroom, h4, Nat.one_le_of_lt h5, h5, h6, h7⟩
  obtain ⟨t, ht, hdrive, hbusy, hothers, hcards, hbooks, hans⟩ := State.take_rebind (tag := tag) (code := 0x10)
    (owner := fun _ s => ruleDestBind d.val (newBinding a area strip spare u0 t0) s) he
    (ruleDestBind_taken (s := s.quiet.owing e tag 0x10) hpresent hb hfits) hrl
  obtain ⟨hp, hc, -, hst, hbind, hwq, hcq, hlane, -⟩ := hdrive
  refine ⟨t, (exec_destBind ..).trans ht, hst, hbind, hp.trans hpresent, hc, hlane, fun w => ?_, fun hout => ?_, hothers, hcards,
    hbooks, hans⟩
  · cases w with
    | wq j => exact congrArg (fun q : Vector (List Item) 16 => q[j]) hwq
    | cq => exact hcq
  · rw [hbusy (.inl hout)]
    exact ⟨rfl, hout, rfl⟩

theorem destUnbindRules : DestUnbindRules := by
  intro tag n s e he run answer
  have refused {st : Status} (h : ruleDestUnbind n (s.quiet.owing e tag 0x11) = .refuse st) : run = answer st :=
    (exec_destUnbind ..).trans (State.request_refuse he h)
  refine ⟨fun hn => refused (by simp [ruleDestUnbind, destOf_eq_none hn]), ?_⟩
  rintro d rfl x
  refine ⟨fun h => refused (ruleDestUnbind_unbound h), fun hu hl => refused (ruleDestUnbind_locked hu hl),
    fun hu hl hlive => refused (ruleDestUnbind_live hu hl hlive), fun h hrl => ?_⟩
  have hbound : ¬(x.state = .absent ∨ x.state = .unbound) := by
    rcases h with h | ⟨hu, -⟩
    · rw [h]; simp
    · exact InUse.not_unbound hu
  have hb : s.Bindable d := fun hu => by
    rcases h with h | ⟨-, h⟩
    · rcases hu with hu | hu <;> exact nomatch h.symm.trans hu
    · exact h
  obtain ⟨t, ht, -, hbusy, hothers, hcards, hbooks, hans⟩ := State.take_rebind (tag := tag) (code := 0x11)
    (owner := fun _ s => ruleDestUnbind d.val s) he (ruleDestUnbind_taken (s := s.quiet.owing e tag 0x11) hbound hb) hrl
  refine ⟨t, (exec_destUnbind ..).trans ht, hbusy (.inr ?_), hothers, hcards, hbooks, hans⟩
  simp only [DestPort.rebound]
  split_ifs <;> simp

end Sys2Proof.Machine

/-! A port rebound whose read lane supplies another lane (R83, R84, R116; O17). -/

namespace Sys2Proof.Machine

/-! ### The supplies of a port rebound -/

/-- From `s` to `t` the read jobs of `d` ended with its binding; the other blocks are as they were. -/
structure State.Unbinds (s : State) (d : DestNo) (b : Option Binding) (st : DestState) (t : State) : Prop where
  dest : ∃ rl, t.dest d = { (s.dest d).rebound b st with rl := rl } ∧ rl.jobs = []
  others : ∀ g, g ≠ d → t.dest g = s.dest g
  clip : ∀ c, t.clip? c = s.clip? c
  ports : t.ports = s.ports
  jobs : t.jobs = s.jobs
  ring : t.ring = s.ring
  plan : t.plan = s.plan
  manifest : t.manifest = s.manifest
  faults : t.faults = s.faults
  link : t.link = s.link

theorem State.rebound_unbinds {s : State} {d : DestNo} (h : ∀ job ∈ (s.dest d).rl.jobs, job.isSupply = true) (b : Option Binding)
    (st : DestState) : s.Unbinds d b st (s.rebound d b st) := by
  have hread := s.withdrawJobs_readsAt ReadJob.isSupply d
  have hnil : ((s.dest d).rl.jobs.filter fun r => !r.isSupply) = [] := List.filter_eq_nil_iff.2 fun job hjob => by simp [h job hjob]
  rw [hnil] at hread
  have hstate : s.rebound d b st = (s.withdrawJobs ReadJob.isSupply d).modDest d fun x => x.rebound b st := by
    rw [State.rebound, State.endBinding, State.resetArbiter, State.modDest_modDest, State.modDest_modDest]
    rfl
  have hdest (g : DestNo) := State.dest_modDest (s.withdrawJobs ReadJob.isSupply d) d (fun x => x.rebound b st) g
  obtain ⟨a, rl, hd, hrl⟩ := hread.dest
  rw [hstate]
  refine ⟨⟨rl, ?_, hrl⟩, fun g hg => (hdest g).trans ((if_neg hg).trans (hread.others g hg)), fun c => hread.clips_of_nil c,
    hread.ports, hread.jobs, hread.ring, hread.plan, hread.manifest, hread.faults, hread.link⟩
  rw [hdest, if_pos rfl, hd]
  rfl

/-- Both requests are taken to rebind the port. -/
theorem Rebinds.ruled {s : State} {tag : Byte} {d : DestNo} {command : Instr} {code : Nat} {payload : List Byte}
    {b : Option Binding} {st : DestState} (e : EntryNo) (hreb : Rebinds (s.dest d) tag d command code payload b st) (hb : s.Bindable d) :
    ∃ owner : EntryNo → State → Ruling, exec command s = s.quiet.request tag code owner
      ∧ owner e (s.quiet.owing e tag code) = .take payload (rebind d b st (s.quiet.owing e tag code)) := by
  cases hreb with
  | bind a area strip spare u0 t0 sectors h0 hsectors hroom h1 h2 h3 h4 h5 h6 h7 =>
    refine ⟨fun _ s => ruleDestBind d.val (newBinding a area strip spare u0 t0) s, exec_destBind .., ?_⟩
    refine ruleDestBind_taken (s := s.quiet.owing e tag 0x10) h0 hb ?_
    change (newBinding a area strip spare u0 t0).fits ((s.dest d).capacity.getD 0) = true
    rw [newBinding_fits_iff, hsectors]
    exact ⟨⟨h1, h2⟩, h3, hroom, h4, Nat.one_le_of_lt h5, h5, h6, h7⟩
  | unbind h1 h2 =>
    exact ⟨fun _ s => ruleDestUnbind d.val s, exec_destUnbind .., ruleDestUnbind_taken (s := s.quiet.owing e tag 0x11)
      (fun h => h.elim h1 h2) hb⟩

/-- A rebinding request taken: the unit its port supplied is sourced again, then the change is announced. -/
theorem State.take_rebind_supply {s : State} {tag : Byte} {e : EntryNo} {d f : DestNo} {command : Instr} {code : Nat}
    {payload : List Byte} {b : Option Binding} {st : DestState} {c k n : Nat} (he : s.link.freeEntry = some e)
    (hreb : Rebinds (s.dest d) tag d command code payload b st) (hb : s.Bindable d) (hrl : (s.dest d).rl.jobs = [.supply c k n f]) :
    ∃ s1, s.Unbinds d b st { s1 with link := s.link } ∧ ∀ {v : State} {h m : Nat}, v.dest d = (s1.dest d).withHeld h →
      v.manifest = s1.manifest → v.faults = s1.faults → m ≤ 900000 →
      (∀ {n' ts u}, effects false n' ts v = some u → effects false (n' + m) (.cannotSupply f n c k (.dest d) :: ts) s1 = some u) →
      ∃ t, exec command s = .next t ∧ v.Ends t
        ∧ ((t.dest d).binding = b ∧ (t.dest d).state = st ∧ (t.dest d).rl.jobs = []
          ∧ ((s.dest d).outstanding.isSome →
            (t.dest d).outstanding = (s.dest d).outstanding ∧ (t.dest d).abandoned = true ∧ (t.dest d).arb = Arbiter.reset)
          ∧ t.plan = s.plan ∧ t.manifest = s.manifest ∧ t.faults = s.faults ∧ s.link.AnswersTo t.link e tag code payload) := by
  let s0 := s.quiet.owing e tag code
  obtain ⟨owner, hexec, ho⟩ := Rebinds.ruled e hreb hb
  have hrl0 : (s0.dest d).rl.jobs = [.supply c k n f] := hrl
  have hunb := State.rebound_unbinds (s := s0) (d := d) (by rw [hrl0]; simp [ReadJob.isSupply]) b st
  rw [rebind_eq, show supplyMessages d ((s.quiet.owing e tag code).dest d).rl.jobs = [.cannotSupply f n c k (.dest d)] by
    rw [hrl0]; rfl] at ho
  obtain ⟨r, hr⟩ : ∃ r, s0.rebound d b st = r := ⟨_, rfl⟩
  rw [show (s.quiet.owing e tag code).rebound d b st = r from hr] at ho
  rw [hr] at hunb
  refine ⟨r, ⟨hunb.dest, hunb.others, hunb.clip, hunb.ports, hunb.jobs, hunb.ring, hunb.plan, hunb.manifest,
    hunb.faults, rfl⟩, fun {v h m} hvd hman hfaults hm hrun => ?_⟩
  obtain ⟨l, heff⟩ := effects_announceState v d (s0.dest d).state st
  have hrun' := hrun (heff (answers := false) (n := 0) (ts := []) (effects_nil _ _))
  obtain ⟨t, ht, hends, hplan, hans⟩ := State.take_effects (s := s.quiet) (tag := tag) (code := code) (n := 0 + 1 + m)
    (u := { v with link := l }) he ho (by
      change s0.link.OnlyNotices r.link
      rw [hunb.link]; exact .refl _) (by omega) (by simpa only [State.andNow, List.append_nil, List.singleton_append] using hrun')
  have hendsv : v.Ends t :=
    ⟨hends.card, hends.drive, hends.jobs, hends.clips, hends.ring, hends.manifest, hends.faults, hends.busy, hends.read⟩
  obtain ⟨rl, hd, hjobs⟩ := hunb.dest
  rw [hd] at hvd
  refine ⟨t, hexec.trans ht, hendsv, ?_, ?_, ?_, fun hout => ?_, hplan.trans hunb.plan, hendsv.manifest.trans (hman.trans hunb.manifest),
    hendsv.faults.trans (hfaults.trans hunb.faults), hans⟩
  · rw [hendsv.binding, hvd]; rfl
  · rw [hendsv.destState, hvd]; rfl
  · rw [hendsv.readJobs, hvd]; exact hjobs
  · rw [hendsv.busy d (.inl (by rw [hvd]; exact hout)), hvd]
    exact ⟨rfl, hout, rfl⟩

end Sys2Proof.Machine

/-! A unit that no source is left for: its copy is suspended and the slot freed (R123, R124; O17). -/

namespace Sys2Proof.Machine

/-! ### The items that stay behind a suspension -/

theorem cutItems_kept {c : Nat} {filling : Nat → Bool} {l : List Item} {z : Item} (h : z ∈ (cutItems c filling l).2) :
    z ∈ l ∧ z.cutsAt c filling = false := by
  induction l with
  | nil => exact nomatch h
  | cons i l ih =>
    rw [cutItems_cons] at h
    split_ifs at h with hi
    · obtain ⟨hz, hc⟩ := List.mem_filter.1 h
      exact ⟨List.mem_cons_of_mem _ hz, by simpa [Item.cutsAt] using fun hzc => absurd hzc (of_decide_eq_true hc)⟩
    · rcases List.mem_cons.1 h with rfl | h
      · exact ⟨List.mem_cons_self, by simpa using hi⟩
      · exact ⟨List.mem_cons_of_mem _ (ih h).1, (ih h).2⟩

/-- A destination without read jobs keeps its record while reads are recalled. -/
theorem State.dest_leaveReaders {s : State} (c : Nat) (d : DestNo) {e : DestNo} (h : (s.dest e).rl.jobs = []) :
    (s.leaveReaders c d).dest e = s.dest e := by
  have one (gone : ReadJob → Bool) (f : DestNo) {u : State} (hu : (u.dest e).rl.jobs = []) :
      (u.withdrawJobs gone f).dest e = u.dest e := by
    by_cases hef : e = f
    · subst hef
      rw [State.withdrawJobs_none (by rw [hu]; exact fun _ hj => nomatch hj) fun _ => hu]
    · exact (u.withdrawJobs_readsAt gone f).others e hef
  have all (l : List DestNo) {u : State} (hu : (u.dest e).rl.jobs = []) :
      (l.foldl (fun s f => s.withdrawJobs (readsForCopy c d f) f) u).dest e = u.dest e := by
    induction l generalizing u with
    | nil => rfl
    | cons f l ih =>
      have h1 := one (readsForCopy c d f) f hu
      exact (ih (by rw [h1]; exact hu)).trans h1
  obtain ⟨-, v, hv⟩ := s.withdrawReads_ports (suppliesCopy c d) allPorts
  have hports (e : DestNo) : (allPorts.foldl (fun s p => s.withdrawReads (suppliesCopy c d) p) s).dest e = s.dest e := by
    rw [hv]; rfl
  rw [State.leaveReaders, all allDests (by rw [hports]; exact h), hports]

/-! ### The suspension in the course of an event -/

/-- From `s` to `t` the copy of clip `c` on `d`, which was current, was suspended, and the slot `n` it was filling freed. -/
structure State.SuspendsAt (s : State) (c : Nat) (d : DestNo) (n : Nat) (t : State) : Prop where
  copy : ∀ q, s.copy? c d = some q → t.copy? c d = some { q with suspended := true }
  slot : t.slot? n = none
  freed : n ∈ t.ring.freeList
  cq : ∀ z ∈ (t.dest d).cq, z.kind ≠ .data n
  lane : (t.dest d).lane.copies = (s.dest d).lane.copies.filter (· ≠ c) ∧ (t.dest d).lane.current = none
  others : ∀ e, e ≠ d → (s.dest e).rl.jobs = [] → ∃ h, t.dest e = (s.dest e).withHeld h
  manifest : t.manifest = s.manifest
  faults : t.faults = s.faults

theorem State.length_orphansSince_le {s t : State} (hs : s.ring.Sound) (ht : Table.wf t.ring.held = true)
    (h : ∀ n, (t.slot? n).isSome → (s.slot? n).isSome) : (t.orphansSince s).length ≤ 2048 ∧ (t.orphansSince s).Nodup := by
  have hkeys : (t.ring.held.map Prod.fst).Nodup := ((Table.wf_iff _).1 ht).imp fun hlt => Nat.ne_of_lt hlt
  have hnd : (t.orphansSince s).Nodup := List.Nodup.filter _ (hkeys.sublist (List.filter_sublist.map _))
  have hsub : (t.orphansSince s).Subperm (s.ring.held.map Prod.fst) := hnd.subperm fun n hn => ?_
  · have hle := hsub.length_le
    rw [List.length_map] at hle
    exact ⟨le_trans hle hs.length_le, hnd⟩
  obtain ⟨hn, -⟩ := State.mem_orphansSince.1 hn
  obtain ⟨y, hy, -⟩ := State.mem_orphans_iff.1 hn
  obtain ⟨z, hz⟩ := Option.isSome_iff_exists.1 (h n (by rw [(State.mem_held_iff ht).1 hy]; rfl))
  exact List.mem_map.2 ⟨(n, z), (State.mem_held_iff hs.1).2 hz, rfl⟩

theorem effects_suspend {s : State} {c : Nat} {d : DestNo} {n : Nat} {x : Clip} {y : Slot} {i : Item} (hx : s.clip? c = some x)
    (hy : s.slot? n = some y) (hst : y.state = .filling) (hown : y.owner = .lane d) (hi : i ∈ (s.dest d).cq) (hic : i.clip = c)
    (hik : i.kind = .data n) (hunique : ∀ z ∈ (s.dest d).cq, z.kind = .data n → z = i)
    (hcur : (s.dest d).lane.current = some c) (hlast : (s.dest d).lane.copies.filter (· ≠ c) = [])
    (hsound : s.ring.Sound) (hwait : s.ring.waitList = []) (hcalm : ∀ r, NotStalled s r) :
    ∃ t, s.SuspendsAt c d n t ∧ ∀ {answers m ts u}, effects answers m ts t = some u →
      effects answers (m + 7000) (.suspend c d :: ts) s = some u := by
  obtain ⟨cut, kept, hparts⟩ : ∃ cut kept, cutItems c s.isFilling (s.dest d).cq = (cut, kept) := ⟨_, _, rfl⟩
  have hkept (z : Item) (hz : z ∈ kept) : z.kind ≠ .data n := fun hk => by
    rw [show kept = (cutItems c s.isFilling (s.dest d).cq).2 by rw [hparts]] at hz
    obtain ⟨hmem, hcuts⟩ := cutItems_kept hz
    rw [hunique z hmem hk] at hcuts
    simp [Item.cutsAt, hic, hik, State.isFilling, hy, hst] at hcuts
  let s2 := s.suspending c d cut kept
  have hrec := s2.leaveReaders_recalls c d
  obtain ⟨s3, hs3⟩ : ∃ s3, s2.leaveReaders c d = s3 := ⟨_, rfl⟩
  have hrun := runSuspend_cut hx hparts
  have hsame (e : DestNo) (hrl : (s2.dest e).rl.jobs = []) := s2.dest_leaveReaders c d hrl
  rw [show (s.suspending c d cut kept).leaveReaders c d = s3 from hs3] at hrun
  rw [hs3] at hrec hsame
  obtain ⟨hclips2, hports2, hjobs2, hman2, hfaults2, hfree2, hwait2⟩ := s.suspending_blocks c d cut kept
  have hwf3 : Table.wf s3.ring.held = true := by rw [hrec.ring]; exact State.wf_suspending hsound.1 c d cut kept
  have hslot3 (m : Nat) : s3.slot? m = s2.slot? m := State.slot_congr hrec.ring m
  have hsome (m : Nat) (h : (s3.slot? m).isSome) : (s.slot? m).isSome := by
    rw [hslot3, State.slot_suspending] at h
    split_ifs at h
    · simpa using h
    · exact h
  obtain ⟨hlen, hnd⟩ := State.length_orphansSince_le hsound hwf3 hsome
  have hmem : n ∈ s3.orphansSince s :=
    (State.mem_freed_suspended hrec hsound.1 hy hst hown ⟨i, hi, hik⟩).2 hkept
  have hwait3 : s3.ring.waitList = [] := by
    rw [hrec.ring, hwait2, hwait]; split_ifs
    all_goals rfl
  have hdest3 (e : DestNo) : ∃ a rl, s3.dest e = { s2.dest e with rl := rl, abandoned := a } := by
    obtain ⟨a, rl, h, -⟩ := hrec.dest e
    exact ⟨a, rl, h⟩
  have hlane3 (e : DestNo) : (s3.dest e).lane = if e = d then (s.dest d).lane.left (onlyCopy c d · d) else (s.dest e).lane := by
    obtain ⟨a, rl, h⟩ := hdest3 e
    rw [h, State.dest_suspending]
    split_ifs <;> rfl
  have hcalm3 (r : Requester) : NotStalled s3 r := by
    cases r with
    | job j => rw [NotStalled, State.job_congr (hrec.jobs.trans hjobs2)]; exact hcalm (.job j)
    | lane e =>
      rw [NotStalled, hlane3]
      split_ifs with he
      · subst he
        rw [Lane.held_left]
        exact fun h => hcalm (.lane e) (Lane.standing_left h)
      · exact hcalm (.lane e)
  let F := s3.orphansSince s
  have hf := State.freeAll_freed F hnd s3
  obtain ⟨st, t, -, hto, heff⟩ := effects_settle (s3.freeAll F) x.job
  have hdest (e : DestNo) : t.dest e = (s3.dest e).withHeld ((s3.dest e).lane.held - (s3.ownedIn (.lane e) F).length) :=
    (State.dest_congr hto.dests e).trans (hf.dest e)
  have hlane : (t.dest d).lane.copies = (s.dest d).lane.copies.filter (· ≠ c) ∧ (t.dest d).lane.current = none := by
    have h3 := hlane3 d
    rw [if_pos rfl, Lane.left_only, if_pos hcur] at h3
    rw [hdest]
    exact ⟨congrArg Lane.copies h3, congrArg Lane.current h3⟩
  have hgo : runLaneGo d t = t.still := runLaneGo_idle (hlane.1.trans hlast) hlane.2
  refine ⟨t, ⟨fun q hq => ?_, ?_, ?_, fun z hz => ?_, hlane, fun e he hrl => ?_, ?_, ?_⟩, fun {a m ts u} hu => ?_⟩
  · rw [State.copy_congr hto.clips, State.copy_congr hf.clips]
    exact State.copy_suspended hq hrec
  · rw [State.slot_congr hto.ring, hf.slot, if_pos hmem]
  · rw [hto.ring, hf.freeList]
    refine List.mem_append_right _ (List.mem_filter.2 ⟨hmem, ?_⟩)
    rw [hslot3, State.slot_suspending, hy]
    split_ifs <;> rfl
  · have hcq : (t.dest d).cq = kept := by
      obtain ⟨b, rl, h⟩ := hdest3 d
      rw [hdest, h, State.dest_suspending, if_pos rfl]
      rfl
    exact hkept z (hcq ▸ hz)
  · have h2 : s2.dest e = s.dest e := (State.dest_suspending s c d cut kept e).trans (if_neg he)
    have h3 : s3.dest e = s.dest e := (hsame e (by rw [h2]; exact hrl)).trans h2
    exact ⟨(s.dest e).lane.held - (s3.ownedIn (.lane e) F).length, by rw [hdest, h3]⟩
  · exact hto.manifest.trans (hf.manifest.trans (hrec.manifest.trans hman2))
  · exact hto.faults.trans (hf.faults.trans (hrec.faults.trans hfaults2))
  · have hfreed := effects_freeSlots_mute (answers := a) (k := m + 1 + 2) (ts := .settle x.job :: .laneGo d :: ts) F hwait3
      (fun m _ y _ => .of_notStalled (hcalm3 y.owner)) (heff ((effects_still (a := .laneGo d) hgo rfl).trans hu))
    rw [show m + 7000 = (m + 6999) + 1 by omega, effects_andNow (a := .suspend c d) hrun rfl]
    refine effects_mono ?_ hfreed
    have hF : F.length ≤ 2048 := hlen
    omega

end Sys2Proof.Machine

/-! DEST_BIND and DEST_UNBIND at a port that supplies another lane, and O17 (R83, R84). -/

namespace Sys2Proof.Machine

/-- A unit that destination `g` cannot supply, with no source left for it: its copy is suspended. -/
theorem effects_unsourced {s : State} {d g : DestNo} {n c k : Nat} {x : Clip} {y : Slot} {i : Item} (h : Fills s d n c k y i)
    (hx : s.clip? c = some x) (hcard : (s.job x.job).boundPort = none ∨ i.noCard = true)
    (hnone : ∀ e, ¬NextSource s d x (g :: i.noDests) e) (hic : i.clip = c) (hcur : (s.dest d).lane.current = some c)
    (hlast : (s.dest d).lane.copies.filter (· ≠ c) = []) (hsound : s.ring.Sound) (hwait : s.ring.waitList = [])
    (hcalm : ∀ r, NotStalled s r) :
    ∃ t, s.SuspendsAt c d n t ∧ ∀ {answers m ts u}, effects answers m ts t = some u →
      effects answers (m + 7001) (.cannotSupply d n c k (.dest g) :: ts) s = some u := by
  let i' := i.without (.dest g)
  have hrun := runCannotSupply_none (src := .dest g) (out := g :: i.noDests) h hx hcard (fun f => by
    rw [List.mem_cons]; exact mem_destInsert g f i.noDests) hnone
  obtain ⟨-, hjobs, hclips, -, hmanifest, hfaults, -, hfree, hwaits⟩ := s.resourcing_blocks d n i'
  have hdest := Fills.dest_resourcing h i'
  have hd := (hdest d).trans (if_pos rfl)
  have hcopies : ((s.resourcing d n i').dest d).lane.copies = (s.dest d).lane.copies := by rw [hd]
  have hcopy (b : Nat) (e : DestNo) : (s.resourcing d n i').copy? b e = s.copy? b e := State.copy_congr hclips b e
  obtain ⟨hy, hst, hown, -, -, before, after, hcq, hik, hothers⟩ := id h
  have hi : i ∈ (s.dest d).cq := by rw [hcq]; simp
  have hunique (z : Item) (hz : z ∈ ((s.resourcing d n i').dest d).cq) (hk : z.kind = .data n) : z = i' := by
    rw [hd] at hz
    obtain ⟨w, hw, rfl⟩ := List.mem_map.1 hz
    by_cases hwi : w = i
    · rw [if_pos hwi]
    · rw [if_neg hwi] at hk
      rw [hcq, List.mem_append, List.mem_cons] at hw
      exact absurd hk (hothers w (hw.imp id fun h => h.resolve_left hwi))
  have hmem : i' ∈ ((s.resourcing d n i').dest d).cq := by
    rw [hd]
    exact List.mem_map.2 ⟨i, hi, if_pos rfl⟩
  have hsound2 : (s.resourcing d n i').ring.Sound := State.modSlot_sound (s := (s.modDest d fun x =>
    { x with cq := x.cq.map fun j => if j.names n then i' else j }).modLane d fun l => { l with cardOnly := false, sum := none }) hsound n _
  have hcalm2 (r : Requester) : NotStalled (s.resourcing d n i') r := by
    cases r with
    | job j => rw [NotStalled, State.job_congr hjobs]; exact hcalm (.job j)
    | lane e =>
      rw [NotStalled, hdest]
      split_ifs with he
      · exact he ▸ hcalm (.lane e)
      · exact hcalm (.lane e)
  obtain ⟨t, ht, heff⟩ := effects_suspend (s := s.resourcing d n i') (c := c) (d := d) (n := n) (x := x) (y := { y with data := [] })
    (i := i') ((State.clip_congr hclips c).trans hx) ((Fills.slot_resourcing h i' n).trans (if_pos rfl)) hst hown hmem hic hik hunique
    ((congrArg (fun p : DestPort => p.lane.current) hd).trans hcur)
    (hcopies ▸ hlast) hsound2 (hwaits.trans hwait) hcalm2
  refine ⟨t, ⟨fun q hq => ht.copy q ((hcopy c d).trans hq), ht.slot, ht.freed, ht.cq, ?_, fun e he hrl => ?_,
    ht.manifest.trans hmanifest, ht.faults.trans hfaults⟩, fun {a m ts u} hu => ?_⟩
  · refine ⟨ht.lane.1.trans ?_, ht.lane.2⟩
    rw [hcopies]
  · have hee : (s.resourcing d n i').dest e = s.dest e := (hdest e).trans (if_neg he)
    have := ht.others e he (by rw [hee]; exact hrl)
    rwa [hee] at this
  · rw [show m + 7001 = (m + 7000) + 1 by omega, effects_andNow (a := .cannotSupply d n c k (.dest g)) hrun rfl]
    exact heff hu

theorem rebindingMovesSupplies : RebindingMovesSupplies := by
  intro s tag e d f command code payload b st c k n x y i he hreb hb hrl hfd hx hf rebound cardless
  obtain ⟨s1, hunb, hend⟩ := State.take_rebind_supply he hreb hb hrl
  have hf1 : Fills s1 f n c k y i := Fills.congr hf hunb.ring (congrArg DestPort.cq (hunb.others f hfd))
  have hx1 : s1.clip? c = some x := (hunb.clip c).trans hx
  have hport1 : (s1.job x.job).boundPort = (s.job x.job).boundPort := congrArg Job.boundPort (State.job_congr hunb.jobs _)
  have hsource {l : List DestNo} (g : DestNo) : NextSource s1 f x (d :: l) g ↔ NextSource s f x (d :: l) g :=
    ⟨fun h => NextSource.congr h fun h' hh => congrArg DestPort.state (hunb.others h' hh).symm,
      fun h => NextSource.congr h fun h' hh => congrArg DestPort.state (hunb.others h' hh)⟩
  have hdest1 (g : DestNo) (hg : g ≠ d) : s1.dest g = s.dest g := hunb.others g hg
  refine ⟨fun p hp hno => ?card, fun g hcard hg => ?next, fun q hcard hnone hq hic hcop hcur hsound hwait hcalm => ?none⟩
  case card =>
    obtain ⟨v, hv, hfifo, hothers, hrun⟩ := effects_resourced_card (g := d) hf1 hx1 (hport1.trans hp) hno
    obtain ⟨t, ht, hends, hreb⟩ := hend (m := 1) (hothers d (Ne.symm hfd)) hv.manifest hv.faults (by omega) hrun
    obtain ⟨-, -, -, -, hfifot, -⟩ := hends.card p
    refine ⟨t, ht, hreb, hends.jobs.trans (hv.jobs.trans hunb.jobs), ?_, (hends.slot n).trans hv.slot, ?_, ?_⟩
    · rw [hends.ring, hv.freeList]; exact congrArg Ring.freeList hunb.ring
    · rw [hends.lane, hv.lane, hdest1 f hfd]
    · rw [hfifot, hfifo]; exact congrArg (fun x : CardPort => x.fifo ++ _) (State.port_congr hunb.ports p)
  case next =>
    have hgd : g ≠ d := fun h => hg.1.2.1 (h ▸ List.mem_cons_self)
    obtain ⟨v, hv, hread, hothers, hrun⟩ := effects_resourced_dest hf1 hx1 (hport1 ▸ hcard) ((hsource g).2 hg)
    obtain ⟨t, ht, hends, hreb⟩ :=
      hend (m := 1) (hothers d (Ne.symm hfd) (Ne.symm hgd)) hv.manifest hv.faults (by omega) hrun
    refine ⟨t, i.without (.dest d), ht, hreb, hends.jobs.trans (hv.jobs.trans hunb.jobs), ?_, rfl, rfl, rfl, rfl,
      fun h => mem_destInsert d h i.noDests, (hends.slot n).trans hv.slot, ?_, ?_, ?_⟩
    · rw [hends.ring, hv.freeList]; exact congrArg Ring.freeList hunb.ring
    · exact (hends.queue f .cq).trans (hv.cq.trans (by rw [hdest1 f hfd]))
    · rw [hends.lane, hv.lane, hdest1 f hfd]
    · rw [hends.readJobs, hread, hdest1 g hgd]
  case none =>
    have hring : s1.ring = s.ring := hunb.ring
    have hcalm1 (r : Requester) : NotStalled s1 r := by
      cases r with
      | job j =>
        have hj : s1.job j = s.job j := State.job_congr hunb.jobs j
        rw [NotStalled, hj]; exact hcalm (.job j)
      | lane g =>
        have hlane : (s1.dest g).lane = (s.dest g).lane := by
          by_cases hg : g = d
          · obtain ⟨rl, hd, -⟩ := hunb.dest
            subst hg
            have hlane := congrArg DestPort.lane hd
            exact hlane
          · rw [hdest1 g hg]
        rw [NotStalled, hlane]; exact hcalm (.lane g)
    obtain ⟨v, hv, hrun⟩ := effects_unsourced hf1 hx1 (hport1 ▸ hcard) (fun g => mt (hsource g).1 (hnone g)) hic
      (by rw [hdest1 f hfd]; exact hcur) (by rw [hdest1 f hfd, hcop]; simp) (hring ▸ hsound) (hring ▸ hwait) hcalm1
    obtain ⟨rl, hd, hjobs⟩ := hunb.dest
    obtain ⟨h, hvd⟩ := hv.others d (Ne.symm hfd) ((congrArg (fun x : DestPort => x.rl.jobs) hd).trans hjobs)
    obtain ⟨t, ht, hends, hreb⟩ := hend (m := 7001) hvd hv.manifest hv.faults (by omega) hrun
    refine ⟨t, ht, hreb, ?_, (hends.slot n).trans hv.slot, by rw [hends.ring]; exact hv.freed, fun z hz => hv.cq z ?_, ?_, ?_⟩
    · rw [hends.copy]
      exact hv.copy q (State.copy_some_iff.2 ⟨x, hx1, hq⟩)
    · have hcq : (t.dest f).cq = (v.dest f).cq := hends.queue f .cq
      exact hcq ▸ hz
    · rw [hends.lane, hv.lane.1, hdest1 f hfd, hcop]; simp
    · rw [hends.lane]; exact hv.lane.2

/-- Settles O17: the refusals in their order, a port rebound at rest, and the unit it supplied sourced again. -/
theorem destRequestRules : Obligations.DestRequestRules :=
  ⟨destBindRefusals, destBindTaken, destUnbindRules, rebindingMovesSupplies⟩

end Sys2Proof.Machine

/-! O38 fails: a next clip of length 0 queues its trailer behind the items of the clip that ends (R34, R37). -/

namespace Sys2Proof.Machine

/-- A clip of one unit, being read, with its plan copy WRITING on DP0. -/
def endingClip : Clip :=
  { job := 0, state := .reading, length := 10, extents := [⟨5, 1⟩], token := [], sum := none, unstable := false, mstatus := .none,
    prior := none
    copies := #v[some { Copy.fresh .writing .plan 1 with window := some ⟨0, 1⟩, trailer := some 0 }, none, none, none] }

/-- A LISTED clip of length 0. -/
def emptyClip : Clip := { endingClip with state := .listed, length := 0, extents := [], copies := #v[none, none, none, none] }

/-- The one piece of unit 0 of clip 0. -/
def onlyPiece : ReaderRequest := ⟨⟨.job 0 0 0, 5, 1⟩, 1, none⟩

/-- The slot the unit is read into. -/
def unitSlot : Slot := ⟨.filling, .job 0, 0, 0, 10, [], []⟩

/-- Every slot free but the last, which holds the unit. -/
def almostFree (n : Nat) : Ring := { freeList := List.range n, held := [(n, unitSlot)], waitList := [] }

/-- Job 0 reads clip 0, the empty clip 1 LISTED behind it; DP0 is its mirror and has room. -/
def emptyNext : State :=
  let s := { State.reset with
    clips := [(0, endingClip), (1, emptyClip)]
    ring := almostFree 2047 }
  let s := s.setPort 0 { CardPort.idle true with fifo := [onlyPiece.item], outstanding := some onlyPiece }
  let s := s.modJob 0 fun y =>
    { y with
      state := .running, clips := [0, 1], boundPort := some 0, quota := 16, held := 1
      snapshot := some { r := 1, mirrors := [0], spares := [] } }
  s.setDest 0 { DestPort.reset with state := .active, binding := some (newBinding 0 10000 10 1 1 1) }

/-- The items that wait in job 0's queue on DP0 after a command. -/
def queueAfter (o : Host.Outcome State Fault Refusal) : Option (List Item) :=
  match o with
  | .next t => some ((t.dest 0).queue (.wq 0))
  | .fault _ => none
  | .refused _ => none

theorem almostFree_sound {n : Nat} (h : slotCount = n + 1) : (almostFree n).Sound := by
  refine ⟨rfl, ?_⟩
  rw [h, List.range_succ]
  exact .refl _

theorem emptyNext_idle : emptyNext.LanesIdle := by
  unfold State.LanesIdle
  decide +kernel

theorem emptyNext_job : (emptyNext.job 0).clips = [0, 1] ∧ (emptyNext.job 0).snapshot = some { r := 1, mirrors := [0], spares := [] } := by
  decide +kernel

theorem emptyNext_sparesFit : SparesFit (emptyNext.job 0) := by
  intro snap h
  rw [emptyNext_job.2] at h
  obtain rfl := Option.some.inj h
  decide

theorem emptyNext_listFits : ListFits emptyNext 0 := by
  refine ⟨by decide +kernel, by decide +kernel, by decide +kernel, fun b hb z hz => ?_⟩
  have hclips : emptyNext.clip? 0 = some endingClip ∧ emptyNext.clip? 1 = some emptyClip := by decide +kernel
  rw [emptyNext_job.1] at hb
  rcases List.mem_pair.1 hb with rfl | rfl
  · rw [hclips.1] at hz
    obtain rfl := Option.some.inj hz
    rfl
  · rw [hclips.2] at hz
    obtain rfl := Option.some.inj hz
    rfl

theorem emptyNext_filling (m : Nat) (z : Slot) (h : (m, z) ∈ emptyNext.ring.held) : m = 2047 :=
  congrArg Prod.fst (List.mem_singleton.1 (show (m, z) ∈ [(2047, unitSlot)] from h))

/-- Refutes O38: the empty clip behind the one that ends starts in the same event and is READ at once, and its trailer joins
the job's queue behind the two items of the clip that ended. -/
theorem not_clipReadsEnd : ¬Obligations.ClipReadsEnd := by
  rintro ⟨h, -⟩
  obtain ⟨t, ht, -, -, hqueue, -⟩ := h emptyNext 0 (List.replicate 512 0) onlyPiece [] 0 0 0 2047 endingClip unitSlot
    (by decide +kernel) (by decide +kernel) (by decide +kernel) (by decide +kernel) rfl rfl (by decide +kernel) (by simp)
    (by decide +kernel) (by decide +kernel) (by decide +kernel) rfl (by decide +kernel) rfl (by decide +kernel)
    (by decide +kernel) (almostFree_sound (n := 2047) rfl) emptyNext_idle (by decide +kernel) (by decide +kernel)
    emptyNext_sparesFit emptyNext_listFits (fun m z hm _ _ => emptyNext_filling m z hm) (by decide +kernel) (by decide +kernel)
  have hlen : (queueAfter (exec (.readerData 0 (List.replicate 512 0)) emptyNext)).map List.length = some 3 := by decide +kernel
  rw [ht, queueAfter, hqueue 0 (by decide +kernel)] at hlen
  revert hlen
  decide +kernel

end Sys2Proof.Machine
